-- ==== Sys2Proof/Word.lean ====
section
/-!
DEFINITION. The word types of the Yaloa 9160 (00 R11: little-endian, 8-bit bytes; 08 R199: 4-byte code words).
-/

namespace Sys2Proof

/-- A byte (R11). -/
abbrev Byte := BitVec 8

/-- A code word, or the contents of a lane register (R199, R225). -/
abbrev Word := BitVec 32

/-- A 64-bit operand, address or control register (R221, R225). -/
abbrev Dword := BitVec 64

/-- The 128 bytes of a line; byte `k` is bits `8k+7 … 8k` (R107). -/
abbrev Line := BitVec 1024

/-- One bit for each byte of a line (R107). -/
abbrev LineMask := BitVec 128

end Sys2Proof
end

