-- ==== Sys2Proof/Config.lean ====
section
/-!
DEFINITION. The free values: what the spec leaves open. Each constant has no value in Lean; the step applies it to
the free counter of State or to operands, so that no proof can rest on a number.
-/

namespace Sys2Proof.Config

/-- A byte of memory or register contents the spec calls undefined (R79, R315, R363), at a count of the counter. -/
opaque freeByte : Nat → Byte

/-- A 32-bit register value the spec calls undefined (R363). -/
opaque freeWord : Nat → Word

/-- The result a special-function unit proposes for function `fn` (2 rcp, 3 rsqrt, 4 sin, 5 cos, 6 tanh, 7 sigm, 8
erf) of type `t` on operand bits `x`: a position within the bounds of R194 (DESIGN CHOICE, log entry 21). -/
opaque special : (fn : Nat) → (t : Nat) → (x : Nat) → Nat

/-- From which operand on `exp2` (0) or `log2` (1) gives at least a result, where the bounds of R194 leave it open: operand and result
by their rank among the f32 (DESIGN CHOICE, log entry 21). -/
opaque rises : (fn : Nat) → (result : Int) → Int

/-- The private identity key of the module (R400, R443), as a number (DESIGN CHOICE, log entry 70). -/
opaque identityScalar : Nat

/-- The per-message secret number of a signature of a digest, at an attempt (R400) (DESIGN CHOICE, log entry 70). -/
opaque signNonce : BitVec 384 → Nat → Nat

/-- The fused hash of the fleet public key (R442, R405) (DESIGN CHOICE, log entry 89). -/
opaque fleetHash : BitVec 384

end Sys2Proof.Config
end

