-- ==== Sys2Proof/Syntax.lean ====
section
/-!
DEFINITION. The instruction set (08 R200 to R221) and the named steps of the other agents, one constructor for each
row of spec/opcode_table.json. Register, prefix and literal fields are kept as the encoding gives them.
-/

namespace Sys2Proof

/-- Bits [23:0] of an O prefix (Table 2 of R202), without the reserved bits. -/
structure OPre where
  c : BitVec 7
  rm : BitVec 2
  qual : BitVec 3
  scope : BitVec 3
  deriving DecidableEq, Repr, Inhabited

/-- Bits [23:0] of a T prefix (Table 2 of R202), without the reserved bits. -/
structure TPre where
  ta : BitVec 3
  tb : BitVec 3
  acc : BitVec 2
  sb : BitVec 2
  tr : BitVec 1
  spb : BitVec 1
  z : BitVec 1
  a : BitVec 1
  d : BitVec 1
  afmt : BitVec 4
  deriving DecidableEq, Repr, Inhabited

/-- The prefix word in front of an instruction, if any (R202). -/
inductive Pre where
  | none
  | w (ihi : BitVec 24)
  | o (p : OPre)
  | t (p : TPre)
  deriving DecidableEq, Repr, Inhabited

/-- Format RF: three register or K fields, with the prefix and the literal word (R200, R203). `lit` is 0 where the
instruction has no literal word. -/
structure RForm where
  p : Pre
  d : BitVec 7
  a : BitVec 7
  b : BitVec 7
  lit : Word
  deriving DecidableEq, Repr, Inhabited

/-- Format IF. -/
structure IForm where
  p : Pre
  d : BitVec 7
  a : BitVec 7
  imm : BitVec 12
  lit : Word
  deriving DecidableEq, Repr, Inhabited

/-- Format MF. -/
structure MForm where
  p : Pre
  d : BitVec 7
  a : BitVec 7
  sz : BitVec 3
  off : BitVec 9
  lit : Word
  deriving DecidableEq, Repr, Inhabited

/-- Format BF: `mreg` and `neg` are bits [24:22] and [21], zero in `br` (R229). -/
structure BForm where
  p : Pre
  mreg : BitVec 3
  neg : BitVec 1
  off : BitVec 21
  deriving DecidableEq, Repr, Inhabited

/-- Format JF. -/
structure JForm where
  p : Pre
  d : BitVec 7
  off : BitVec 19
  lit : Word
  deriving DecidableEq, Repr, Inhabited

/-- Format SW, a sort word (R211). -/
structure SForm where
  p : Pre
  index : BitVec 8
  ha : BitVec 7
  hb : BitVec 7
  hc : BitVec 4
  deriving DecidableEq, Repr, Inhabited

/-- A fabric message: the header fields of Table 3 of R107 and the bytes of its data flits. `mask` holds MASK, and
SEQ in its low 32 bits. -/
structure Msg where
  cls : BitVec 8
  ndata : BitVec 3 := 0
  acq : Bool := false
  poison : Bool := false
  scope : BitVec 3 := 0
  aux : BitVec 4 := 0
  master : BitVec 12 := 0
  tenant : BitVec 12 := 0
  tag : BitVec 16 := 0
  line : BitVec 41 := 0
  pair : BitVec 9 := 0
  mask : LineMask := 0
  data : Line := 0
  deriving DecidableEq, Repr, Inhabited

/-- A flit: its body and the trailer fields of Table 2 of R22, with the lane (colour and plane) that carries it. -/
structure Flit where
  body : BitVec 256
  src : BitVec 6
  dst : BitVec 6
  kind : BitVec 2
  seq : BitVec 16
  crc : BitVec 32
  lane : Nat := 0
  deriving DecidableEq, Repr, Inhabited

/-- The data of one reply to a line request: its bytes, the poison mark, or a denial (R72, R129). -/
structure LineData where
  bytes : Line
  poison : Bool := false
  denied : Bool := false
  deriving DecidableEq, Repr, Inhabited

/-- An encrypted frame of a scale-up link (R424): the key slot named, the frame counter of its IV, its sequence on
the link, the ciphertext bytes and the tag; and the module identifier the external switches route by (R420, R423): of the
source where a frame arrives, of the destination where it leaves. -/
structure LinkFrame where
  modid : BitVec 16 := 0
  kidx : BitVec 1
  counter : BitVec 64
  seq : BitVec 16
  cipher : List Byte
  tag : BitVec 128
  deriving DecidableEq, Repr, Inhabited

/-- What one bring-up finds (R442): whether the rails, fuses, firmware and identity pass, the parts that pass their
self-test, the colours whose lanes fail, and the values the firmware loads that the spec leaves to it (DESIGN CHOICE, log entry 93). -/
structure BringUp where
  railsOk : Bool := true
  fuseOk : Bool := true
  fwOk : Bool := true
  memPass : BitVec 16 := 0xFFFF#16
  slicesBad : List (Nat × Nat) := []
  pairsBad : List Nat := []
  coloursBad : List (Nat × Bool) := []
  fwMeas : BitVec 384 := 0
  asidBase : Nat := 0
  fallback : List (Nat × Dword) := []
  bankMaps : List (Nat × List Nat) := []
  deriving DecidableEq, Repr, Inhabited

/-- The instructions and named steps: one constructor for each row of spec/opcode_table.json. A
message row acts on the message being delivered (`State.rx`) and a mailbox row on the copied command area
(`State.mbCopy`), so neither has an operand of its own; a row whose word is one fixed value has none either. Those
constructors stand last. -/
inductive Instr where
  /-- POWER_ON (R442). -/
  | powerOn (b : BringUp)
  /-- THERMAL_TRIP (R446). -/
  | thermalTrip (tmax : BitVec 8)
  /-- CLOCK_STEP_DOWN (R445). -/
  | clockStepDown (pwr : BitVec 16) (tmax : BitVec 8)
  /-- CLOCK_STEP_UP (R445). -/
  | clockStepUp (pwr : BitVec 16) (tmax : BitVec 8)
  /-- THERM_WRITE (R447). -/
  | thermWrite (v : BitVec 64)
  /-- REGISTER_WRITE (R14). -/
  | registerWrite (port off : Nat) (v : BitVec 64)
  /-- FLIT_RECEIVE (R24). -/
  | flitReceive (i j : Nat) (f : Flit)
  /-- ACK_TIMER (R24). -/
  | ackTimer (i j : Nat)
  /-- ACK_RECEIVE (R25). -/
  | ackReceive (i j : Nat) (seq : BitVec 16)
  /-- NAK_RECEIVE (R24). -/
  | nakReceive (i j : Nat) (seq : BitVec 16)
  /-- REPLAY_TIMEOUT (R24). -/
  | replayTimeout (i j : Nat)
  /-- REPLAY_LIMIT_LOST (R27). -/
  | replayLimitLost (i j : Nat)
  /-- LOSS_OF_LIGHT (R32). -/
  | lossOfLight (i j : Nat) (beta : Bool)
  /-- FALLBACK_REROUTE (R33). -/
  | fallbackReroute (i j : Nat)
  /-- RELAY_FORWARD (R30). -/
  | relayForward (k : Nat) (f : Flit)
  /-- FLIT_INJECT (R36). -/
  | flitInject (i j : Nat)
  /-- ROUTE_WRITE (R29). -/
  | routeWrite (i j : Nat) (v : BitVec 64)
  /-- ADMCTL_LOAD (R37). -/
  | admctlLoad (v : BitVec 64)
  /-- SPSPLIT_WRITE (R79). -/
  | spsplitWrite (pair : Nat) (v : BitVec 64)
  /-- ACCESS_TABLE_WRITE (R68). -/
  | accessTableWrite (port master entry : Nat) (v : BitVec 128)
  /-- TLB_WALK (R50). -/
  | tlbWalk (cluster launch : Nat) (va : BitVec 64) (right : BitVec 4)
  /-- LEASE_GRANT (R55). -/
  | leaseGrant (launch : Nat)
  /-- LEASE_LAPSE (R55). -/
  | leaseLapse (launch rec : Nat)
  /-- LEASE_RENEWAL_SERVE (R58). -/
  | leaseRenewalServe (launch rec : Nat)
  /-- UNMAP_LAPSE_REACHED (R60). -/
  | unmapLapseReached (id : Nat)
  /-- CLUSTER_SHORTEN_NOTICE (R60). -/
  | clusterShortenNotice (cluster id : Nat)
  /-- CLUSTER_PURGE (R60). -/
  | clusterPurge (cluster id : Nat)
  /-- UNMAP_PURGE_ACKED (R60). -/
  | unmapPurgeAcked (id : Nat)
  /-- UNMAP_TABLES_ACKED (R60). -/
  | unmapTablesAcked (id : Nat)
  /-- L1_EVICT (R87). -/
  | l1Evict (pair asid slot vline : Nat)
  /-- L1_FILL_RETURN (R85). -/
  | l1FillReturn (id : Nat) (data : LineData)
  /-- L2_EVICT (R110). -/
  | l2Evict (chip line : Nat)
  /-- GALLEY_REPLY (R98). -/
  | galleyReply (id : Nat) (data : LineData)
  /-- GALLEY_TIMEOUT (R100). -/
  | galleyTimeout (op : Nat)
  /-- LOAD_REPLY_TIMEOUT (R247). -/
  | loadReplyTimeout (op : Nat)
  /-- LD_G_STALL_RETRY (R96). -/
  | ldGStallRetry (core : Nat)
  /-- CLAUSE_START (R207). -/
  | clauseStart (core : Nat)
  /-- GROUP_AGE_REACHED (R163). -/
  | groupAgeReached (gid pc : Nat)
  /-- LONG_OP_COMPLETE (R208). -/
  | longOpComplete (op : Nat)
  /-- MATRIX_OP_COMPLETE (R289). -/
  | matrixOpComplete (op : Nat)
  /-- IMPRINT_THRESHOLD_FLUSH (R392). -/
  | imprintThresholdFlush (core : Nat)
  /-- PLATE_CACHE_EVICT (R308). -/
  | plateCacheEvict (pair : Nat) (va : BitVec 64)
  /-- ENGINE_WRITE (R322). -/
  | engineWrite (cmd : Nat)
  /-- XPF_RANGE (R328). -/
  | xpfRange (cmd : Nat)
  /-- ENGINE_QUEUE_RETRY (R327). -/
  | engineQueueRetry (core : Nat)
  /-- HOME_OPEN_QUEUED (R102). -/
  | homeOpenQueued (home line : Nat)
  /-- DRAM_READ_COMPLETE (R111). -/
  | dramReadComplete (home line : Nat) (bad : Bool)
  /-- IMPRINT_PORT_WRITE (R397). -/
  | imprintPortWrite (core : Nat) (src : Nat) (m : Msg)
  /-- PLACK_WRITE (R399). -/
  | plackWrite (v : BitVec 64)
  /-- PLCFG_WRITE (R399). -/
  | plcfgWrite (v : BitVec 64)
  /-- ENTRY_ACCEPT (R355). -/
  | entryAccept (q seq : Nat)
  /-- KERNEL_VERIFY (R409). -/
  | kernelVerify (launch : Nat)
  /-- COHORT_AGE_RESERVE (R361). -/
  | cohortAgeReserve (launch : Nat)
  /-- DISPCTL_WRITE (R361). -/
  | dispctlWrite (v : BitVec 64)
  /-- GANG_RESUME (R364). -/
  | gangResume (pair : Nat)
  /-- HANDLER_ENTRY (R373). -/
  | handlerEntry (gid : Nat)
  /-- TEAM_END (R366). -/
  | teamEnd (team : Nat)
  /-- LAUNCH_END (R366). -/
  | launchEnd (launch : Nat)
  /-- TEAM_RELAUNCH (R387). -/
  | teamRelaunch (team : Nat)
  /-- DIVERGENCE_RERUN (R390). -/
  | divergenceRerun (team : Nat)
  /-- TENTATIVE_BUFFER_FULL (R386). -/
  | tentativeBufferFull (team : Nat)
  /-- TEAM_RETIRE (R365). -/
  | teamRetire (team : Nat)
  /-- WAITW_REREAD (R342). -/
  | waitwReread (gid : Nat)
  /-- SLEEP_EXPIRY (R343). -/
  | sleepExpiry (gid : Nat)
  /-- CXL_MEMRD (R414). -/
  | cxlMemrd (off tag : Nat)
  /-- CXL_MEMWR (R414). -/
  | cxlMemwr (off tag : Nat) (data : BitVec 512)
  /-- HOST_READ_COMPLETION (R417). -/
  | hostReadCompletion (id : Nat) (data : BitVec 1024)
  /-- PEER_INGRESS_REQUEST (R422). -/
  | peerIngressRequest (link modid : Nat) (m : Msg)
  /-- ATOMIC_CACHE_LAPSE (R423). -/
  | atomicCacheLapse (port modid tag : Nat)
  /-- LINK_FAIL (R423). -/
  | linkFail (link : Nat)
  /-- LINK_FRAME_RECEIVE (R426). -/
  | linkFrameReceive (link : Nat) (f : LinkFrame)
  /-- KEY_RETIRE_NOTICE (R425). -/
  | keyRetireNotice (link slot : Nat)
  /-- KEY_COUNTER_EXHAUSTED (R424). -/
  | keyCounterExhausted (link slot : Nat)
  /-- LKCTL_WRITE (R425). -/
  | lkctlWrite (link : Nat) (v : BitVec 64)
  /-- BR (R229). -/
  | br (f : BForm)
  /-- BR_M (R229). -/
  | brM (f : BForm)
  /-- CALL (R230). -/
  | call (f : JForm)
  /-- JMP (R231). -/
  | jmp (f : RForm)
  /-- CALL_REG (R231). -/
  | callReg (f : RForm)
  /-- RET (R231). -/
  | ret (f : RForm)
  /-- RESERVED_HINT (R234). -/
  | reservedHint (h : BitVec 4) (f : RForm)
  /-- WBASE (R235). -/
  | wbase (f : RForm)
  /-- ADD (R237). -/
  | add (w : BitVec 1) (f : RForm)
  /-- SUB (R237). -/
  | sub (w : BitVec 1) (f : RForm)
  /-- MUL (R237). -/
  | mul (w : BitVec 1) (f : RForm)
  /-- MULH_S (R237). -/
  | mulhS (w : BitVec 1) (f : RForm)
  /-- MULH_N (R237). -/
  | mulhN (w : BitVec 1) (f : RForm)
  /-- MAD (R237). -/
  | mad (w : BitVec 1) (f : RForm)
  /-- NEG (R237). -/
  | neg (w : BitVec 1) (f : RForm)
  /-- ABS (R237). -/
  | abs (w : BitVec 1) (f : RForm)
  /-- MIN_S (R237). -/
  | minS (w : BitVec 1) (f : RForm)
  /-- MIN_N (R237). -/
  | minN (w : BitVec 1) (f : RForm)
  /-- MAX_S (R237). -/
  | maxS (w : BitVec 1) (f : RForm)
  /-- MAX_N (R237). -/
  | maxN (w : BitVec 1) (f : RForm)
  /-- AND (R237). -/
  | and (w : BitVec 1) (f : RForm)
  /-- OR (R237). -/
  | or (w : BitVec 1) (f : RForm)
  /-- XOR (R237). -/
  | xor (w : BitVec 1) (f : RForm)
  /-- NOT (R237). -/
  | not (w : BitVec 1) (f : RForm)
  /-- SHL (R237). -/
  | shl (w : BitVec 1) (f : RForm)
  /-- SHR (R237). -/
  | shr (w : BitVec 1) (f : RForm)
  /-- SAR (R237). -/
  | sar (w : BitVec 1) (f : RForm)
  /-- ROT (R237). -/
  | rot (w : BitVec 1) (f : RForm)
  /-- CLZ (R237). -/
  | clz (w : BitVec 1) (f : RForm)
  /-- POPC (R237). -/
  | popc (w : BitVec 1) (f : RForm)
  /-- BREV (R237). -/
  | brev (w : BitVec 1) (f : RForm)
  /-- BFE_N (R238). -/
  | bfeN (w : BitVec 1) (f : RForm)
  /-- BFE_S (R238). -/
  | bfeS (w : BitVec 1) (f : RForm)
  /-- BFI (R238). -/
  | bfi (w : BitVec 1) (f : RForm)
  /-- SEL (R237). -/
  | sel (w : BitVec 1) (f : RForm)
  /-- LEA (R237). -/
  | lea (w : BitVec 1) (f : RForm)
  /-- MOV (R237). -/
  | mov (w : BitVec 1) (f : RForm)
  /-- EXT (R239). -/
  | ext (w : BitVec 1) (f : RForm)
  /-- DOT4 (R239). -/
  | dot4 (f : RForm)
  /-- MOVL (R240). -/
  | movl (f : IForm)
  /-- MOVL_64 (R240). -/
  | movl64 (f : IForm)
  /-- CMP (R241). -/
  | cmp (w : BitVec 1) (c : BitVec 4) (f : RForm)
  /-- MAND (R242). -/
  | mand (f : RForm)
  /-- MOR (R242). -/
  | mor (f : RForm)
  /-- MNOT (R242). -/
  | mnot (f : RForm)
  /-- MMOV (R242). -/
  | mmov (f : RForm)
  /-- LD_G (R249). -/
  | ldG (f : MForm)
  /-- LD_G_ACQ (R250). -/
  | ldGAcq (f : MForm)
  /-- ST_G (R256). -/
  | stG (f : MForm)
  /-- ST_G_REL (R257). -/
  | stGRel (f : MForm)
  /-- LD_CONS (R251). -/
  | ldCons (f : MForm)
  /-- LD_NC (R252). -/
  | ldNc (f : MForm)
  /-- LD_S (R258). -/
  | ldS (f : MForm)
  /-- ST_S (R258). -/
  | stS (f : MForm)
  /-- LD_Y (R253). -/
  | ldY (f : MForm)
  /-- PF (R254). -/
  | pf (f : MForm)
  /-- FENCE_ACQ (R264). -/
  | fenceAcq (f : RForm)
  /-- FENCE_REL (R264). -/
  | fenceRel (f : RForm)
  /-- FENCE_AR (R264). -/
  | fenceAr (f : RForm)
  /-- AMO_ADD (R260). -/
  | amoAdd (w : BitVec 1) (f : RForm)
  /-- AMO_MIN_S (R260). -/
  | amoMinS (w : BitVec 1) (f : RForm)
  /-- AMO_MAX_S (R260). -/
  | amoMaxS (w : BitVec 1) (f : RForm)
  /-- AMO_AND (R260). -/
  | amoAnd (w : BitVec 1) (f : RForm)
  /-- AMO_OR (R260). -/
  | amoOr (w : BitVec 1) (f : RForm)
  /-- AMO_XOR (R260). -/
  | amoXor (w : BitVec 1) (f : RForm)
  /-- AMO_XCHG (R260). -/
  | amoXchg (w : BitVec 1) (f : RForm)
  /-- AMO_CAS (R260). -/
  | amoCas (w : BitVec 1) (f : RForm)
  /-- AMO_FADD (R260). -/
  | amoFadd (w : BitVec 1) (f : RForm)
  /-- AMO_MIN_N (R260). -/
  | amoMinN (w : BitVec 1) (f : RForm)
  /-- AMO_MAX_N (R260). -/
  | amoMaxN (w : BitVec 1) (f : RForm)
  /-- AMO_QUALIFIED (R261). -/
  | amoQualified (w : BitVec 1) (op : BitVec 4) (f : RForm)
  /-- SAMO_ADD (R263). -/
  | samoAdd (f : RForm)
  /-- SAMO_MIN_S32 (R263). -/
  | samoMinS32 (f : RForm)
  /-- SAMO_MAX_S32 (R263). -/
  | samoMaxS32 (f : RForm)
  /-- SAMO_XCHG (R263). -/
  | samoXchg (f : RForm)
  /-- FADD (R268). -/
  | fadd (t : BitVec 2) (f : RForm)
  /-- FSUB (R268). -/
  | fsub (t : BitVec 2) (f : RForm)
  /-- FMUL (R268). -/
  | fmul (t : BitVec 2) (f : RForm)
  /-- FMA (R268). -/
  | fma (t : BitVec 2) (f : RForm)
  /-- FMIN (R268). -/
  | fmin (t : BitVec 2) (f : RForm)
  /-- FMAX (R268). -/
  | fmax (t : BitVec 2) (f : RForm)
  /-- FCLASS (R269). -/
  | fclass (t : BitVec 2) (f : RForm)
  /-- FRND (R268). -/
  | frnd (t : BitVec 2) (f : RForm)
  /-- FSCALE (R268). -/
  | fscale (t : BitVec 2) (f : RForm)
  /-- SQRT (R268). -/
  | sqrt (t : BitVec 2) (f : RForm)
  /-- EXP2 (R270). -/
  | exp2 (t : BitVec 2) (f : RForm)
  /-- LOG2 (R270). -/
  | log2 (t : BitVec 2) (f : RForm)
  /-- RCP (R270). -/
  | rcp (t : BitVec 2) (f : RForm)
  /-- RSQRT (R270). -/
  | rsqrt (t : BitVec 2) (f : RForm)
  /-- SIN (R270). -/
  | sin (t : BitVec 2) (f : RForm)
  /-- COS (R270). -/
  | cos (t : BitVec 2) (f : RForm)
  /-- TANH (R270). -/
  | tanh (t : BitVec 2) (f : RForm)
  /-- SIGM (R270). -/
  | sigm (t : BitVec 2) (f : RForm)
  /-- ERF (R270). -/
  | erf (t : BitVec 2) (f : RForm)
  /-- HADD_F16X2 (R272). -/
  | haddF16x2 (f : RForm)
  /-- HMUL_F16X2 (R272). -/
  | hmulF16x2 (f : RForm)
  /-- HFMA_F16X2 (R272). -/
  | hfmaF16x2 (f : RForm)
  /-- HADD_BF16X2 (R272). -/
  | haddBf16x2 (f : RForm)
  /-- HMUL_BF16X2 (R272). -/
  | hmulBf16x2 (f : RForm)
  /-- HFMA_BF16X2 (R272). -/
  | hfmaBf16x2 (f : RForm)
  /-- FCMP (R271). -/
  | fcmp (t : BitVec 2) (c : BitVec 3) (f : RForm)
  /-- CVT (R275). -/
  | cvt (c : BitVec 5) (f : RForm)
  /-- CVTI (R276). -/
  | cvti (c : BitVec 5) (f : RForm)
  /-- CVTQ (R278). -/
  | cvtq (c : BitVec 5) (f : RForm)
  /-- DCVTQ (R279). -/
  | dcvtq (c : BitVec 5) (f : RForm)
  /-- CVTS (R280). -/
  | cvts (c : BitVec 5) (f : RForm)
  /-- BCAST (R283). -/
  | bcast (f : RForm)
  /-- RDLANE (R283). -/
  | rdlane (f : RForm)
  /-- WRLANE (R283). -/
  | wrlane (f : RForm)
  /-- VOTE_ANY (R284). -/
  | voteAny (f : RForm)
  /-- VOTE_ALL (R284). -/
  | voteAll (f : RForm)
  /-- VOTE_UNI (R284). -/
  | voteUni (f : RForm)
  /-- BALLOT (R284). -/
  | ballot (f : RForm)
  /-- SHFL_IDX (R285). -/
  | shflIdx (f : RForm)
  /-- SHFL_UP (R285). -/
  | shflUp (f : RForm)
  /-- SHFL_DOWN (R285). -/
  | shflDown (f : RForm)
  /-- SHFL_XOR (R285). -/
  | shflXor (f : RForm)
  /-- ELECT (R284). -/
  | elect (f : RForm)
  /-- REDUCE (R285). -/
  | reduce (o : BitVec 3) (f : RForm)
  /-- SCAN (R285). -/
  | scan (o : BitVec 3) (f : RForm)
  /-- TSHAPE (R294). -/
  | tshape (f : RForm)
  /-- TLD (R295). -/
  | tld (f : RForm)
  /-- TST (R295). -/
  | tst (f : RForm)
  /-- TZERO (R297). -/
  | tzero (f : RForm)
  /-- TMOV (R298). -/
  | tmov (f : RForm)
  /-- TFRAG_READ (R298). -/
  | tfragRead (f : RForm)
  /-- TFRAG_WRITE (R298). -/
  | tfragWrite (f : RForm)
  /-- WLATCH (R299). -/
  | wlatch (f : RForm)
  /-- MMA (R301). -/
  | mma (f : RForm)
  /-- TMASK (R297). -/
  | tmask (f : RForm)
  /-- ACCLD (R304). -/
  | accld (f : RForm)
  /-- ACCST (R304). -/
  | accst (f : RForm)
  /-- ACCSCALE (R305). -/
  | accscale (f : RForm)
  /-- ACCRD (R306). -/
  | accrd (f : RForm)
  /-- ACCADD (R305). -/
  | accadd (f : RForm)
  /-- TQUANT (R305). -/
  | tquant (f : RForm)
  /-- TDEQ (R305). -/
  | tdeq (f : RForm)
  /-- STBIND (R309). -/
  | stbind (f : RForm)
  /-- DMMA (R310). -/
  | dmma (f : RForm)
  /-- STREFRESH (R312). -/
  | strefresh (f : RForm)
  /-- STINVAL (R313). -/
  | stinval (f : RForm)
  /-- STFLUSH (R313). -/
  | stflush (f : RForm)
  /-- STQUERY (R314). -/
  | stquery (f : RForm)
  /-- TCLOAD (R334). -/
  | tcload (f : RForm)
  /-- TCREAD (R336). -/
  | tcread (f : RForm)
  /-- XCOPY (R320). -/
  | xcopy (f : RForm)
  /-- XPF (R328). -/
  | xpf (f : RForm)
  /-- XCANCEL (R329). -/
  | xcancel (f : RForm)
  /-- XSTAT (R330). -/
  | xstat (f : RForm)
  /-- SWINIT (R331). -/
  | swinit (f : RForm)
  /-- SWARRIVE (R332). -/
  | swarrive (f : RForm)
  /-- SWWAIT (R333). -/
  | swwait (f : RForm)
  /-- LAUNCH (R340). -/
  | launch (f : RForm)
  /-- LWAIT (R341). -/
  | lwait (f : RForm)
  /-- WAITW (R342). -/
  | waitw (f : RForm)
  /-- SLEEP (R343). -/
  | sleep (f : RForm)
  /-- TRAP (R344). -/
  | trap (f : RForm)
  /-- GETFL (R346). -/
  | getfl (f : RForm)
  /-- CLRFL (R346). -/
  | clrfl (f : RForm)
  /-- BRK (R344). -/
  | brk (f : RForm)
  /-- RDTIME (R347). -/
  | rdtime (f : RForm)
  /-- IMPRINTQ (R348). -/
  | imprintq (f : RForm)
  /-- GETC (R221). -/
  | getc (f : IForm)
  /-- SETC (R221). -/
  | setc (f : IForm)
  /-- SORT (R215). -/
  | sort (f : SForm)
  /-- HOST_ATOMICOP_COMPLETION (R418). -/
  | hostAtomicopCompletion (id : Nat) (old : BitVec 64)
  /-- LINK_TRAINED (R424). -/
  | linkTrained (link : Nat) (key : BitVec 256) (salt : BitVec 32)
  /-- POWER_LOSS (R446). -/
  | powerLoss
  /-- CRC_MONITOR_INTERVAL (R32). -/
  | crcMonitorInterval
  /-- GETS (R111). -/
  | gets
  /-- GETX (R111). -/
  | getx
  /-- UPG (R111). -/
  | upg
  /-- PUTX (R111). -/
  | putx
  /-- PUTE (R111). -/
  | pute
  /-- NCRD (R111). -/
  | ncrd
  /-- NCWR (R113). -/
  | ncwr
  /-- PWR (R113). -/
  | pwr
  /-- ZWR (R125). -/
  | zwr
  /-- AMO (R116). -/
  | amo
  /-- ACQRD (R120). -/
  | acqrd
  /-- RELREC (R119). -/
  | relrec
  /-- PWB (R122). -/
  | pwb
  /-- FWDS (R110). -/
  | fwds
  /-- FWDX (R110). -/
  | fwdx
  /-- INV (R110). -/
  | inv
  /-- RECALL (R110). -/
  | recallLine
  /-- PROMOTE (R121). -/
  | promote
  /-- DATA (R110). -/
  | data
  /-- GNTX (R110). -/
  | gntx
  /-- CMPL (R110). -/
  | cmpl
  /-- WBACK (R110). -/
  | wback
  /-- AMOR (R260). -/
  | amor
  /-- DENY (R72). -/
  | deny
  /-- IACK (R111). -/
  | iack
  /-- FDATA (R112). -/
  | fdata
  /-- PROMACK (R121). -/
  | promack
  /-- VBUMP (R127). -/
  | vbump
  /-- VNEW (R127). -/
  | vnew
  /-- VACK (R127). -/
  | vack
  /-- VDONE (R127). -/
  | vdone
  /-- PROOF_PUBLISH (R399). -/
  | proofPublish
  /-- ASSIGN_TENANT_TO_ASID (R419). -/
  | assignTenantToAsid
  /-- MAP_RANGE (R449). -/
  | mapRange
  /-- UNMAP_RANGE (R60). -/
  | unmapRange
  /-- CONFIGURE_LAUNCH_QUEUE (R449). -/
  | configureLaunchQueue
  /-- SET_HOST_PORT_TENANT (R412). -/
  | setHostPortTenant
  /-- FRESH (R403). -/
  | fresh
  /-- RESTORE (R403). -/
  | restore
  /-- CHECKPOINT (R403). -/
  | checkpoint
  /-- RETIRE (R403). -/
  | retire
  /-- IMPORT (R405). -/
  | importRecord
  /-- KEY (R407). -/
  | keyLoad
  /-- TAIL_POLL_TIMER (R351). -/
  | tailPollTimer
  /-- DISPATCH_CHOOSE (R358). -/
  | dispatchChoose
  /-- REFORM (R233). -/
  | reform
  /-- EXIT (R233). -/
  | exit
  /-- NOP (R234). -/
  | nop
  /-- YIELD (R234). -/
  | yield
  /-- GDRAIN (R255). -/
  | gdrain
  /-- TCFENCE (R335). -/
  | tcfence
  /-- TBAR (R338). -/
  | tbar
  /-- CBAR (R339). -/
  | cbar
  /-- ERET (R376). -/
  | eret
  /-- TFENCE (R197). -/
  | tfence
  deriving DecidableEq, Repr

end Sys2Proof
end

