-- ==== Sys2Proof/Decode.lean ====
section
/-!
DEFINITION. Decoding and encoding of code words (08 R199 to R221). Decoding reads the shape of a word (its major
opcode and function) and keeps every field as it stands; `formOk` (Machine/Forms.lean) then says whether the fields
are ones the form accepts. The encoder is written from the same tables.
-/

namespace Sys2Proof

/-- Why a word is no instruction; each is the illegal-instruction cause of R202, R205 or R218. -/
inductive DecodeError where
  /-- The words end inside the instruction. -/
  | truncated
  /-- A header stands in the position of an instruction (R205). -/
  | headerWord
  /-- PK = 3 (R202). -/
  | prefixKind
  /-- A reserved bit, QUAL, SCOPE or AFMT value of a prefix (R202). -/
  | prefixReserved
  /-- A prefix is followed by a header, a prefix or a sort word (R202). -/
  | prefixPosition
  /-- The major opcode or function value is not listed (R218, R219). -/
  | unlisted (major fn : Nat)
  deriving DecidableEq, Repr

/-! ### Fields -/

/-- Bits [31:26]. -/
def majorOf (w : Word) : Nat := (w.extractLsb' 26 6).toNat
/-- Bits [25:19]. -/
def dOf (w : Word) : BitVec 7 := w.extractLsb' 19 7
/-- Bits [18:12]. -/
def aOf (w : Word) : BitVec 7 := w.extractLsb' 12 7
/-- Bits [11:5]. -/
def bOf (w : Word) : BitVec 7 := w.extractLsb' 5 7
/-- Bits [4:0]. -/
def fnOf (w : Word) : BitVec 5 := w.extractLsb' 0 5

/-- The clause header (Table 3 of R204); `none` where LEN − 1, FA or FB holds a value that R204 rejects, or bits
[31:26] are not zero. -/
structure Header where
  wait : BitVec 12
  fa : BitVec 4
  fb : BitVec 4
  len : Nat
  yh : Bool
  deriving DecidableEq, Repr, Inhabited

/-- R204. -/
def decodeHeader (w : Word) : Option Header :=
  let fa := w.extractLsb' 10 4
  let fb := w.extractLsb' 6 4
  let l := (w.extractLsb' 1 5).toNat
  let bad (f : BitVec 4) : Bool := 0xC ≤ f.toNat && f.toNat ≤ 0xE
  if majorOf w ≠ 0 ∨ 24 ≤ l ∨ bad fa = true ∨ bad fb = true then none
  else some ⟨w.extractLsb' 14 12, fa, fb, l + 1, w.getLsbD 0⟩

/-- R204. -/
def encodeHeader (h : Header) : Word :=
  0#6 ++ h.wait ++ h.fa ++ h.fb ++ BitVec.ofNat 5 (h.len - 1) ++ BitVec.ofBool h.yh

/-! ### Prefix words -/

/-- QUAL 4–7 and SCOPE 6–7 are reserved, as are bits [8:0] (Table 2 of R202). -/
def decodeO (w : Word) : Option OPre :=
  let p : OPre := ⟨w.extractLsb' 17 7, w.extractLsb' 15 2, w.extractLsb' 12 3, w.extractLsb' 9 3⟩
  if w.extractLsb' 0 9 = 0 ∧ p.qual.toNat ≤ 3 ∧ p.scope.toNat ≤ 5 then some p else none

/-- AFMT 10–15 and bits [4:0] are reserved (Table 2 of R202). -/
def decodeT (w : Word) : Option TPre :=
  let p : TPre := ⟨w.extractLsb' 21 3, w.extractLsb' 18 3, w.extractLsb' 16 2, w.extractLsb' 14 2,
    w.extractLsb' 13 1, w.extractLsb' 12 1, w.extractLsb' 11 1, w.extractLsb' 10 1, w.extractLsb' 9 1,
    w.extractLsb' 5 4⟩
  if w.extractLsb' 0 5 = 0 ∧ p.afmt.toNat ≤ 9 then some p else none

/-- A prefix word, major 0x3E (R202). -/
def decodePre (w : Word) : Except DecodeError Pre :=
  match (w.extractLsb' 24 2).toNat with
  | 0 => .ok (.w (w.extractLsb' 0 24))
  | 1 => match decodeO w with
    | some p => .ok (.o p)
    | none => .error .prefixReserved
  | 2 => match decodeT w with
    | some p => .ok (.t p)
    | none => .error .prefixReserved
  | _ => .error .prefixKind

/-- The words of a prefix: one, or none. -/
def encodePre : Pre → List Word
  | .none => []
  | .w ihi => [0x3E#6 ++ 0#2 ++ ihi]
  | .o p => [0x3E#6 ++ 1#2 ++ p.c ++ p.rm ++ p.qual ++ p.scope ++ 0#9]
  | .t p => [0x3E#6 ++ 2#2 ++ p.ta ++ p.tb ++ p.acc ++ p.sb ++ p.tr ++ p.spb ++ p.z ++ p.a ++ p.d ++ p.afmt ++ 0#5]

/-- QUAL of the prefix; 0 without an O prefix. -/
def Pre.qual : Pre → BitVec 3
  | .o p => p.qual
  | _ => 0

/-- SCOPE of the prefix; 0 without an O prefix. -/
def Pre.scope : Pre → BitVec 3
  | .o p => p.scope
  | _ => 0

/-- RM of the prefix; 0, to nearest even, without an O prefix (R222). -/
def Pre.rm : Pre → BitVec 2
  | .o p => p.rm
  | _ => 0

/-- C of the prefix; 116, the zero operand, without an O prefix. -/
def Pre.c : Pre → BitVec 7
  | .o p => p.c
  | _ => 116

/-- Whether the prefix is an O prefix. -/
def Pre.isO : Pre → Bool
  | .o _ => true
  | _ => false

/-! ### The function tables -/

/-- No prefix, every field 116 and no literal: the fields of an instruction that uses none (R201). -/
def noFields : RForm := ⟨.none, 116, 116, 116, 0⟩

/-- An instruction whose word is one fixed value: any other field value, or a prefix, is no word of it. -/
def fixed (i : Instr) (f : RForm) : Option Instr := if f = noFields then some i else none


/-- Major 0x03 (Table 7 of R219), the hint slots apart. -/
def ofControl (fn : Nat) (f : RForm) : Option Instr :=
  match fn with
  | 0 => some (.jmp f)
  | 1 => some (.callReg f)
  | 2 => some (.ret f)
  | 3 => fixed .reform f
  | 4 => fixed .exit f
  | 5 => fixed .nop f
  | 6 => some (.wbase f)
  | 7 => fixed .yield f
  | _ => none

/-- Majors 0x04 and 0x05 (Table 7 of R219); fn 30 is in major 0x04 only (R239). -/
def ofInteger (w : BitVec 1) (fn : Nat) (f : RForm) : Option Instr :=
  match fn with
  | 0 => some (.add w f)
  | 1 => some (.sub w f)
  | 2 => some (.mul w f)
  | 3 => some (.mulhS w f)
  | 4 => some (.mulhN w f)
  | 5 => some (.mad w f)
  | 6 => some (.neg w f)
  | 7 => some (.abs w f)
  | 8 => some (.minS w f)
  | 9 => some (.minN w f)
  | 10 => some (.maxS w f)
  | 11 => some (.maxN w f)
  | 12 => some (.and w f)
  | 13 => some (.or w f)
  | 14 => some (.xor w f)
  | 15 => some (.not w f)
  | 16 => some (.shl w f)
  | 17 => some (.shr w f)
  | 18 => some (.sar w f)
  | 19 => some (.rot w f)
  | 20 => some (.clz w f)
  | 21 => some (.popc w f)
  | 22 => some (.brev w f)
  | 23 => some (.bfeN w f)
  | 24 => some (.bfeS w f)
  | 25 => some (.bfi w f)
  | 26 => some (.sel w f)
  | 27 => some (.lea w f)
  | 28 => some (.mov w f)
  | 29 => some (.ext w f)
  | 30 => if w = 0 then some (.dot4 f) else none
  | _ => none

/-- Major 0x08 (R242). -/
def ofMask (fn : Nat) (f : RForm) : Option Instr :=
  match fn with
  | 0 => some (.mand f)
  | 1 => some (.mor f)
  | 2 => some (.mnot f)
  | 3 => some (.mmov f)
  | _ => none

/-- Major 0x18 (R255, R264). -/
def ofOrder (fn : Nat) (f : RForm) : Option Instr :=
  match fn with
  | 0 => fixed .gdrain f
  | 1 => some (.fenceAcq f)
  | 2 => some (.fenceRel f)
  | 3 => some (.fenceAr f)
  | _ => none

/-- Major 0x19 without a qualifier (Table 7 of R219). -/
def ofAmo (w : BitVec 1) (fn : Nat) (f : RForm) : Option Instr :=
  match fn with
  | 0 => some (.amoAdd w f)
  | 1 => some (.amoMinS w f)
  | 2 => some (.amoMaxS w f)
  | 3 => some (.amoAnd w f)
  | 4 => some (.amoOr w f)
  | 5 => some (.amoXor w f)
  | 6 => some (.amoXchg w f)
  | 7 => some (.amoCas w f)
  | 8 => some (.amoFadd w f)
  | 9 => some (.amoMinN w f)
  | 10 => some (.amoMaxN w f)
  | _ => none

/-- Major 0x1A (R263). -/
def ofSamo (fn : Nat) (f : RForm) : Option Instr :=
  match fn with
  | 0 => some (.samoAdd f)
  | 1 => some (.samoMinS32 f)
  | 2 => some (.samoMaxS32 f)
  | 3 => some (.samoXchg f)
  | _ => none

/-- Majors 0x20 to 0x23 (Table 7 of R219). That fn 10 to 18 raise the illegal-instruction cause in f64 (R270) is a rule of their
form. -/
def ofFloat (t : BitVec 2) (fn : Nat) (f : RForm) : Option Instr :=
  match fn with
  | 0 => some (.fadd t f)
  | 1 => some (.fsub t f)
  | 2 => some (.fmul t f)
  | 3 => some (.fma t f)
  | 4 => some (.fmin t f)
  | 5 => some (.fmax t f)
  | 6 => some (.fclass t f)
  | 7 => some (.frnd t f)
  | 8 => some (.fscale t f)
  | 9 => some (.sqrt t f)
  | 10 => some (.exp2 t f)
  | 11 => some (.log2 t f)
  | 12 => some (.rcp t f)
  | 13 => some (.rsqrt t f)
  | 14 => some (.sin t f)
  | 15 => some (.cos t f)
  | 16 => some (.tanh t f)
  | 17 => some (.sigm t f)
  | 18 => some (.erf t f)
  | _ => none

/-- Major 0x24 (R272). -/
def ofPacked (fn : Nat) (f : RForm) : Option Instr :=
  match fn with
  | 0 => some (.haddF16x2 f)
  | 1 => some (.hmulF16x2 f)
  | 2 => some (.hfmaF16x2 f)
  | 3 => some (.haddBf16x2 f)
  | 4 => some (.hmulBf16x2 f)
  | 5 => some (.hfmaBf16x2 f)
  | _ => none

/-- Major 0x30 (Table 8 of R219), the reductions apart. -/
def ofCross (fn : Nat) (f : RForm) : Option Instr :=
  match fn with
  | 0 => some (.bcast f)
  | 1 => some (.rdlane f)
  | 2 => some (.wrlane f)
  | 3 => some (.voteAny f)
  | 4 => some (.voteAll f)
  | 5 => some (.voteUni f)
  | 6 => some (.ballot f)
  | 7 => some (.shflIdx f)
  | 8 => some (.shflUp f)
  | 9 => some (.shflDown f)
  | 10 => some (.shflXor f)
  | 11 => some (.elect f)
  | _ => none

/-- Major 0x34 (Table 8 of R219), `tfrag` apart. -/
def ofMatrix (fn : Nat) (f : RForm) : Option Instr :=
  match fn with
  | 0 => some (.tshape f)
  | 1 => some (.tld f)
  | 2 => some (.tst f)
  | 3 => some (.tzero f)
  | 4 => some (.tmov f)
  | 6 => some (.wlatch f)
  | 7 => some (.mma f)
  | 8 => some (.tmask f)
  | 9 => some (.accld f)
  | 10 => some (.accst f)
  | 11 => some (.accscale f)
  | 12 => some (.accrd f)
  | 13 => some (.accadd f)
  | 14 => some (.tquant f)
  | 15 => some (.tdeq f)
  | _ => none

/-- Major 0x35 (Table 8 of R219). -/
def ofStereo (fn : Nat) (f : RForm) : Option Instr :=
  match fn with
  | 0 => some (.stbind f)
  | 1 => some (.dmma f)
  | 2 => some (.strefresh f)
  | 3 => some (.stinval f)
  | 4 => some (.stflush f)
  | 5 => some (.stquery f)
  | _ => none

/-- Major 0x38 (Table 8 of R219). -/
def ofEngine (fn : Nat) (f : RForm) : Option Instr :=
  match fn with
  | 0 => some (.tcload f)
  | 1 => fixed .tcfence f
  | 2 => some (.tcread f)
  | 3 => some (.xcopy f)
  | 4 => some (.xpf f)
  | 5 => some (.xcancel f)
  | 6 => some (.xstat f)
  | 7 => some (.swinit f)
  | 8 => some (.swarrive f)
  | 9 => some (.swwait f)
  | _ => none

/-- Major 0x39 (Table 6 of R218). -/
def ofSchedule (fn : Nat) (f : RForm) : Option Instr :=
  match fn with
  | 0 => fixed .tbar f
  | 1 => fixed .cbar f
  | 2 => some (.launch f)
  | 3 => some (.lwait f)
  | 4 => some (.waitw f)
  | 5 => some (.sleep f)
  | _ => none

/-- Major 0x3A (Table 6 of R218). -/
def ofSystem (fn : Nat) (f : RForm) : Option Instr :=
  match fn with
  | 0 => some (.trap f)
  | 1 => fixed .eret f
  | 2 => some (.getfl f)
  | 3 => some (.clrfl f)
  | 4 => fixed .tfence f
  | 5 => some (.brk f)
  | 6 => some (.rdtime f)
  | 7 => some (.imprintq f)
  | _ => none

/-- Major 0x28: the variant in b[6:5] (R220). -/
def ofConvert (c : BitVec 5) (f : RForm) : Instr :=
  match (f.b.extractLsb' 5 2).toNat with
  | 0 => .cvt c f
  | 1 => .cvti c f
  | 2 => .cvtq c f
  | _ => .dcvtq c f

/-- The instruction of an RF word, whose function is `fn`. -/
def ofR (maj : Nat) (fn : BitVec 5) (f : RForm) : Option Instr :=
  let n := fn.toNat
  match maj with
  | 0x03 => if fn.getLsbD 4 then some (.reservedHint (fn.extractLsb' 0 4) f) else ofControl n f
  | 0x04 => ofInteger 0 n f
  | 0x05 => ofInteger 1 n f
  | 0x07 => some (.cmp (fn.extractLsb' 4 1) (fn.extractLsb' 0 4) f)
  | 0x08 => ofMask n f
  | 0x18 => ofOrder n f
  | 0x19 =>
    let w := fn.extractLsb' 4 1
    let op := fn.extractLsb' 0 4
    if f.p.qual ≠ 0 then if op.toNat ≤ 10 then some (.amoQualified w op f) else none
    else ofAmo w op.toNat f
  | 0x1A => ofSamo n f
  | 0x20 => ofFloat 0 n f
  | 0x21 => ofFloat 1 n f
  | 0x22 => ofFloat 2 n f
  | 0x23 => ofFloat 3 n f
  | 0x24 => ofPacked n f
  | 0x25 => some (.fcmp (fn.extractLsb' 3 2) (fn.extractLsb' 0 3) f)
  | 0x28 => some (ofConvert fn f)
  | 0x29 => some (.cvts fn f)
  | 0x30 =>
    if fn.extractLsb' 3 2 = 2 then some (.reduce (fn.extractLsb' 0 3) f)
    else if fn.extractLsb' 3 2 = 3 then some (.scan (fn.extractLsb' 0 3) f)
    else ofCross n f
  | 0x34 => if n = 5 then if f.d = 116 then some (.tfragWrite f) else some (.tfragRead f) else ofMatrix n f
  | 0x35 => ofStereo n f
  | 0x38 => ofEngine n f
  | 0x39 => ofSchedule n f
  | 0x3A => ofSystem n f
  | _ => none

/-- The instruction of an IF word. -/
def ofI (maj : Nat) (f : IForm) : Option Instr :=
  match maj with
  | 0x06 => match f.p with
    | .w _ => some (.movl64 f)
    | _ => some (.movl f)
  | 0x3B => some (.getc f)
  | 0x3C => some (.setc f)
  | _ => none

/-- The instruction of an MF word: an O prefix makes the acquire or release form (R250, R257). -/
def ofM (maj : Nat) (f : MForm) : Option Instr :=
  match maj with
  | 0x10 => if f.p.isO then some (.ldGAcq f) else some (.ldG f)
  | 0x11 => if f.p.isO then some (.stGRel f) else some (.stG f)
  | 0x12 => some (.ldCons f)
  | 0x13 => some (.ldNc f)
  | 0x14 => some (.ldS f)
  | 0x15 => some (.stS f)
  | 0x16 => some (.ldY f)
  | 0x17 => some (.pf f)
  | _ => none

/-- The formats of Table 1 of R200, by major opcode. -/
inductive Format where
  | hdr | rf | imm | mf | bf | jf | px | sw
  deriving DecidableEq, Repr

/-- Table 6 of R218; an unlisted major reads as RF and is then in no function table. -/
def formatOf (maj : Nat) : Format :=
  match maj with
  | 0x00 => .hdr
  | 0x01 => .bf
  | 0x02 => .jf
  | 0x06 | 0x3B | 0x3C => .imm
  | 0x10 | 0x11 | 0x12 | 0x13 | 0x14 | 0x15 | 0x16 | 0x17 => .mf
  | 0x3E => .px
  | 0x3F => .sw
  | _ => .rf

/-- Whether C of an O prefix names a fourth register operand (Table 7 of R219, R272). -/
def takesC (maj fn : Nat) : Bool :=
  match maj with
  | 0x04 | 0x05 => fn == 5 || fn == 23 || fn == 24 || fn == 25 || fn == 30
  | 0x19 => fn % 16 == 7
  | 0x20 | 0x21 | 0x22 | 0x23 => fn == 3
  | 0x24 => fn == 2 || fn == 5
  | _ => false

/-- A reserved-hint slot (R218): its fields name nothing, so no literal word follows whatever they hold (log entry 9). -/
def hintWord (w : Word) : Bool := majorOf w == 3 && (fnOf w).getLsbD 4

/-- Whether a literal word follows (R203): a field of the word holds 127, or C does where it names a register (DEDUCED, log entry 9). -/
def needsLit (p : Pre) (w : Word) : Bool :=
  match formatOf (majorOf w) with
  | .rf => !hintWord w
    && (dOf w == 127 || aOf w == 127 || bOf w == 127 || (takesC (majorOf w) (fnOf w).toNat && p.c == 127))
  | .imm | .mf => dOf w == 127 || aOf w == 127
  | .jf => dOf w == 127
  | _ => false

/-- The instruction of a word that is no prefix, with its prefix and its literal. -/
def ofWord (p : Pre) (w lit : Word) : Option Instr :=
  let maj := majorOf w
  match formatOf maj with
  | .rf => ofR maj (fnOf w) ⟨p, dOf w, aOf w, bOf w, lit⟩
  | .imm => ofI maj ⟨p, dOf w, aOf w, w.extractLsb' 0 12, lit⟩
  | .mf => ofM maj ⟨p, dOf w, aOf w, w.extractLsb' 9 3, w.extractLsb' 0 9, lit⟩
  | .bf =>
    let f : BForm := ⟨p, w.extractLsb' 22 3, w.extractLsb' 21 1, w.extractLsb' 0 21⟩
    if w.getLsbD 25 then some (.brM f) else some (.br f)
  | .jf => some (.call ⟨p, dOf w, w.extractLsb' 0 19, lit⟩)
  | .sw => some (.sort ⟨p, w.extractLsb' 18 8, w.extractLsb' 11 7, w.extractLsb' 4 7, w.extractLsb' 0 4⟩)
  | .hdr | .px => none

/-! ### Decoding -/

/-- The instruction of word `w` with prefix `p`, and the words after it. -/
def decodeBody (p : Pre) (w : Word) (rest : List Word) : Except DecodeError (Instr × List Word) :=
  if majorOf w = 0 then .error .headerWord
  else if needsLit p w then
    match rest with
    | [] => .error .truncated
    | l :: rest' => match ofWord p w l with
      | some i => .ok (i, rest')
      | none => .error (.unlisted (majorOf w) (fnOf w).toNat)
  else match ofWord p w 0 with
    | some i => .ok (i, rest)
    | none => .error (.unlisted (majorOf w) (fnOf w).toNat)

/-- The instruction that a list of words begins with, and the words after it (R200 to R205). -/
def decode (ws : List Word) : Except DecodeError (Instr × List Word) :=
  match ws with
  | [] => .error .truncated
  | w :: rest =>
    if majorOf w = 0x3E then
      match decodePre w with
      | .error e => .error e
      | .ok p => match rest with
        | [] => .error .truncated
        | v :: rest' =>
          if majorOf v = 0 ∨ majorOf v = 0x3E ∨ majorOf v = 0x3F then .error .prefixPosition
          else decodeBody p v rest'
    else decodeBody .none w rest

/-- Four bytes as a little-endian word (R199). -/
def wordOfBytes (b0 b1 b2 b3 : Byte) : Word := b3 ++ b2 ++ b1 ++ b0

/-- The whole words of a byte list (R199). -/
def wordsOfBytes : List Byte → List Word
  | b0 :: b1 :: b2 :: b3 :: rest => wordOfBytes b0 b1 b2 b3 :: wordsOfBytes rest
  | _ => []

/-- The bytes of a word, lowest first. -/
def bytesOfWord (w : Word) : List Byte :=
  [w.extractLsb' 0 8, w.extractLsb' 8 8, w.extractLsb' 16 8, w.extractLsb' 24 8]

/-- The instruction that a list of bytes begins with. -/
def decodeBytes (bs : List Byte) : Except DecodeError (Instr × List Word) := decode (wordsOfBytes bs)

/-! ### Encoding -/

/-- Word, prefix in front, literal behind. -/
def withParts (p : Pre) (w lit : Word) : List Word :=
  encodePre p ++ w :: (if needsLit p w then [lit] else [])

/-- An RF instruction. -/
def encR (maj : BitVec 6) (fn : BitVec 5) (f : RForm) : List Word :=
  withParts f.p (maj ++ f.d ++ f.a ++ f.b ++ fn) f.lit

/-- An IF instruction. -/
def encI (maj : BitVec 6) (f : IForm) : List Word := withParts f.p (maj ++ f.d ++ f.a ++ f.imm) f.lit

/-- An MF instruction. -/
def encM (maj : BitVec 6) (f : MForm) : List Word := withParts f.p (maj ++ f.d ++ f.a ++ f.sz ++ f.off) f.lit

/-- `br` and `br.m`. -/
def encB (m : BitVec 1) (f : BForm) : List Word := withParts f.p (1#6 ++ m ++ f.mreg ++ f.neg ++ f.off) 0

/-- `call` with a target. -/
def encJ (f : JForm) : List Word := withParts f.p (2#6 ++ f.d ++ f.off) f.lit

/-- A sort word. -/
def encS (f : SForm) : List Word := withParts f.p (0x3F#6 ++ f.index ++ f.ha ++ f.hb ++ f.hc) 0

/-- The words of an instruction; no words for a step that is no instruction. -/
def encode : Instr → List Word
  | .br f => encB 0 f
  | .brM f => encB 1 f
  | .call f => encJ f
  | .jmp f => encR 3 0 f
  | .callReg f => encR 3 1 f
  | .ret f => encR 3 2 f
  | .reform => encR 3 3 noFields
  | .exit => encR 3 4 noFields
  | .nop => encR 3 5 noFields
  | .reservedHint h f => encR 3 (1#1 ++ h) f
  | .wbase f => encR 3 6 f
  | .yield => encR 3 7 noFields
  | .add w f => encR (2#5 ++ w) 0 f
  | .sub w f => encR (2#5 ++ w) 1 f
  | .mul w f => encR (2#5 ++ w) 2 f
  | .mulhS w f => encR (2#5 ++ w) 3 f
  | .mulhN w f => encR (2#5 ++ w) 4 f
  | .mad w f => encR (2#5 ++ w) 5 f
  | .neg w f => encR (2#5 ++ w) 6 f
  | .abs w f => encR (2#5 ++ w) 7 f
  | .minS w f => encR (2#5 ++ w) 8 f
  | .minN w f => encR (2#5 ++ w) 9 f
  | .maxS w f => encR (2#5 ++ w) 10 f
  | .maxN w f => encR (2#5 ++ w) 11 f
  | .and w f => encR (2#5 ++ w) 12 f
  | .or w f => encR (2#5 ++ w) 13 f
  | .xor w f => encR (2#5 ++ w) 14 f
  | .not w f => encR (2#5 ++ w) 15 f
  | .shl w f => encR (2#5 ++ w) 16 f
  | .shr w f => encR (2#5 ++ w) 17 f
  | .sar w f => encR (2#5 ++ w) 18 f
  | .rot w f => encR (2#5 ++ w) 19 f
  | .clz w f => encR (2#5 ++ w) 20 f
  | .popc w f => encR (2#5 ++ w) 21 f
  | .brev w f => encR (2#5 ++ w) 22 f
  | .bfeN w f => encR (2#5 ++ w) 23 f
  | .bfeS w f => encR (2#5 ++ w) 24 f
  | .bfi w f => encR (2#5 ++ w) 25 f
  | .sel w f => encR (2#5 ++ w) 26 f
  | .lea w f => encR (2#5 ++ w) 27 f
  | .mov w f => encR (2#5 ++ w) 28 f
  | .ext w f => encR (2#5 ++ w) 29 f
  | .dot4 f => encR 4 30 f
  | .movl f => encI 6 f
  | .movl64 f => encI 6 f
  | .cmp w c f => encR 7 (w ++ c) f
  | .mand f => encR 8 0 f
  | .mor f => encR 8 1 f
  | .mnot f => encR 8 2 f
  | .mmov f => encR 8 3 f
  | .ldG f => encM 16 f
  | .ldGAcq f => encM 16 f
  | .stG f => encM 17 f
  | .stGRel f => encM 17 f
  | .ldCons f => encM 18 f
  | .ldNc f => encM 19 f
  | .ldS f => encM 20 f
  | .stS f => encM 21 f
  | .ldY f => encM 22 f
  | .pf f => encM 23 f
  | .gdrain => encR 24 0 noFields
  | .fenceAcq f => encR 24 1 f
  | .fenceRel f => encR 24 2 f
  | .fenceAr f => encR 24 3 f
  | .amoAdd w f => encR 0x19 (w ++ 0#4) f
  | .amoMinS w f => encR 0x19 (w ++ 1#4) f
  | .amoMaxS w f => encR 0x19 (w ++ 2#4) f
  | .amoAnd w f => encR 0x19 (w ++ 3#4) f
  | .amoOr w f => encR 0x19 (w ++ 4#4) f
  | .amoXor w f => encR 0x19 (w ++ 5#4) f
  | .amoXchg w f => encR 0x19 (w ++ 6#4) f
  | .amoCas w f => encR 0x19 (w ++ 7#4) f
  | .amoFadd w f => encR 0x19 (w ++ 8#4) f
  | .amoMinN w f => encR 0x19 (w ++ 9#4) f
  | .amoMaxN w f => encR 0x19 (w ++ 10#4) f
  | .amoQualified w op f => encR 0x19 (w ++ op) f
  | .samoAdd f => encR 26 0 f
  | .samoMinS32 f => encR 26 1 f
  | .samoMaxS32 f => encR 26 2 f
  | .samoXchg f => encR 26 3 f
  | .fadd t f => encR (8#4 ++ t) 0 f
  | .fsub t f => encR (8#4 ++ t) 1 f
  | .fmul t f => encR (8#4 ++ t) 2 f
  | .fma t f => encR (8#4 ++ t) 3 f
  | .fmin t f => encR (8#4 ++ t) 4 f
  | .fmax t f => encR (8#4 ++ t) 5 f
  | .fclass t f => encR (8#4 ++ t) 6 f
  | .frnd t f => encR (8#4 ++ t) 7 f
  | .fscale t f => encR (8#4 ++ t) 8 f
  | .sqrt t f => encR (8#4 ++ t) 9 f
  | .exp2 t f => encR (8#4 ++ t) 10 f
  | .log2 t f => encR (8#4 ++ t) 11 f
  | .rcp t f => encR (8#4 ++ t) 12 f
  | .rsqrt t f => encR (8#4 ++ t) 13 f
  | .sin t f => encR (8#4 ++ t) 14 f
  | .cos t f => encR (8#4 ++ t) 15 f
  | .tanh t f => encR (8#4 ++ t) 16 f
  | .sigm t f => encR (8#4 ++ t) 17 f
  | .erf t f => encR (8#4 ++ t) 18 f
  | .haddF16x2 f => encR 36 0 f
  | .hmulF16x2 f => encR 36 1 f
  | .hfmaF16x2 f => encR 36 2 f
  | .haddBf16x2 f => encR 36 3 f
  | .hmulBf16x2 f => encR 36 4 f
  | .hfmaBf16x2 f => encR 36 5 f
  | .fcmp t c f => encR 0x25 (t ++ c) f
  | .cvt c f => encR 0x28 c f
  | .cvti c f => encR 0x28 c f
  | .cvtq c f => encR 0x28 c f
  | .dcvtq c f => encR 0x28 c f
  | .cvts c f => encR 0x29 c f
  | .bcast f => encR 48 0 f
  | .rdlane f => encR 48 1 f
  | .wrlane f => encR 48 2 f
  | .voteAny f => encR 48 3 f
  | .voteAll f => encR 48 4 f
  | .voteUni f => encR 48 5 f
  | .ballot f => encR 48 6 f
  | .shflIdx f => encR 48 7 f
  | .shflUp f => encR 48 8 f
  | .shflDown f => encR 48 9 f
  | .shflXor f => encR 48 10 f
  | .elect f => encR 48 11 f
  | .reduce o f => encR 0x30 (2#2 ++ o) f
  | .scan o f => encR 0x30 (3#2 ++ o) f
  | .tshape f => encR 52 0 f
  | .tld f => encR 52 1 f
  | .tst f => encR 52 2 f
  | .tzero f => encR 52 3 f
  | .tmov f => encR 52 4 f
  | .tfragRead f => encR 0x34 5 f
  | .tfragWrite f => encR 0x34 5 f
  | .wlatch f => encR 52 6 f
  | .mma f => encR 52 7 f
  | .tmask f => encR 52 8 f
  | .accld f => encR 52 9 f
  | .accst f => encR 52 10 f
  | .accscale f => encR 52 11 f
  | .accrd f => encR 52 12 f
  | .accadd f => encR 52 13 f
  | .tquant f => encR 52 14 f
  | .tdeq f => encR 52 15 f
  | .stbind f => encR 53 0 f
  | .dmma f => encR 53 1 f
  | .strefresh f => encR 53 2 f
  | .stinval f => encR 53 3 f
  | .stflush f => encR 53 4 f
  | .stquery f => encR 53 5 f
  | .tcload f => encR 56 0 f
  | .tcfence => encR 56 1 noFields
  | .tcread f => encR 56 2 f
  | .xcopy f => encR 56 3 f
  | .xpf f => encR 56 4 f
  | .xcancel f => encR 56 5 f
  | .xstat f => encR 56 6 f
  | .swinit f => encR 56 7 f
  | .swarrive f => encR 56 8 f
  | .swwait f => encR 56 9 f
  | .tbar => encR 57 0 noFields
  | .cbar => encR 57 1 noFields
  | .launch f => encR 57 2 f
  | .lwait f => encR 57 3 f
  | .waitw f => encR 57 4 f
  | .sleep f => encR 57 5 f
  | .trap f => encR 58 0 f
  | .eret => encR 58 1 noFields
  | .getfl f => encR 58 2 f
  | .clrfl f => encR 58 3 f
  | .tfence => encR 58 4 noFields
  | .brk f => encR 58 5 f
  | .rdtime f => encR 58 6 f
  | .imprintq f => encR 58 7 f
  | .getc f => encI 59 f
  | .setc f => encI 60 f
  | .sort f => encS f
  | .powerOn _ => []
  | .powerLoss => []
  | .thermalTrip _ => []
  | .clockStepDown _ _ => []
  | .clockStepUp _ _ => []
  | .thermWrite _ => []
  | .registerWrite _ _ _ => []
  | .flitReceive _ _ _ => []
  | .ackTimer _ _ => []
  | .ackReceive _ _ _ => []
  | .nakReceive _ _ _ => []
  | .replayTimeout _ _ => []
  | .replayLimitLost _ _ => []
  | .lossOfLight _ _ _ => []
  | .crcMonitorInterval => []
  | .fallbackReroute _ _ => []
  | .relayForward _ _ => []
  | .flitInject _ _ => []
  | .routeWrite _ _ _ => []
  | .admctlLoad _ => []
  | .spsplitWrite _ _ => []
  | .accessTableWrite _ _ _ _ => []
  | .tlbWalk _ _ _ _ => []
  | .leaseGrant _ => []
  | .leaseLapse _ _ => []
  | .leaseRenewalServe _ _ => []
  | .unmapLapseReached _ => []
  | .clusterShortenNotice _ _ => []
  | .clusterPurge _ _ => []
  | .unmapPurgeAcked _ => []
  | .unmapTablesAcked _ => []
  | .l1Evict _ _ _ _ => []
  | .l1FillReturn _ _ => []
  | .l2Evict _ _ => []
  | .galleyReply _ _ => []
  | .galleyTimeout _ => []
  | .loadReplyTimeout _ => []
  | .ldGStallRetry _ => []
  | .clauseStart _ => []
  | .groupAgeReached _ _ => []
  | .longOpComplete _ => []
  | .matrixOpComplete _ => []
  | .imprintThresholdFlush _ => []
  | .plateCacheEvict _ _ => []
  | .engineWrite _ => []
  | .xpfRange _ => []
  | .engineQueueRetry _ => []
  | .gets => []
  | .getx => []
  | .upg => []
  | .putx => []
  | .pute => []
  | .ncrd => []
  | .ncwr => []
  | .pwr => []
  | .zwr => []
  | .amo => []
  | .acqrd => []
  | .relrec => []
  | .pwb => []
  | .homeOpenQueued _ _ => []
  | .dramReadComplete _ _ _ => []
  | .fwds => []
  | .fwdx => []
  | .inv => []
  | .recallLine => []
  | .promote => []
  | .data => []
  | .gntx => []
  | .cmpl => []
  | .wback => []
  | .amor => []
  | .deny => []
  | .iack => []
  | .fdata => []
  | .promack => []
  | .vbump => []
  | .vnew => []
  | .vack => []
  | .vdone => []
  | .imprintPortWrite _ _ _ => []
  | .proofPublish => []
  | .plackWrite _ => []
  | .plcfgWrite _ => []
  | .assignTenantToAsid => []
  | .mapRange => []
  | .unmapRange => []
  | .configureLaunchQueue => []
  | .setHostPortTenant => []
  | .fresh => []
  | .restore => []
  | .checkpoint => []
  | .retire => []
  | .importRecord => []
  | .keyLoad => []
  | .tailPollTimer => []
  | .entryAccept _ _ => []
  | .kernelVerify _ => []
  | .dispatchChoose => []
  | .cohortAgeReserve _ => []
  | .dispctlWrite _ => []
  | .gangResume _ => []
  | .handlerEntry _ => []
  | .teamEnd _ => []
  | .launchEnd _ => []
  | .teamRelaunch _ => []
  | .divergenceRerun _ => []
  | .tentativeBufferFull _ => []
  | .teamRetire _ => []
  | .waitwReread _ => []
  | .sleepExpiry _ => []
  | .cxlMemrd _ _ => []
  | .cxlMemwr _ _ _ => []
  | .hostReadCompletion _ _ => []
  | .peerIngressRequest _ _ _ => []
  | .atomicCacheLapse _ _ _ => []
  | .linkFail _ => []
  | .linkFrameReceive _ _ => []
  | .keyRetireNotice _ _ => []
  | .keyCounterExhausted _ _ => []
  | .lkctlWrite _ _ => []
  | .hostAtomicopCompletion _ _ => []
  | .linkTrained _ _ _ => []

/-- `w` in `n` little-endian bytes. -/
def bytesOfNat : Nat → Nat → List Byte
  | 0, _ => []
  | n + 1, w => BitVec.ofNat 8 w :: bytesOfNat n (w / 256)

/-- The instruction the decoder reads from `w`, numbered as spec/opcode_table.json numbers an instruction's bits: the
`nbits` low bits, then zeros up to the longest instruction (a prefix, a word and a literal: 12 bytes) (DESIGN CHOICE, log entry 90). -/
def decodeTableWord (nbits w : Nat) : Option Instr :=
  match decodeBytes (bytesOfNat 12 (w % 2 ^ nbits)) with
  | .ok (i, _) => some i
  | .error _ => none

end Sys2Proof
end

