-- ==== Sys2Proof/Machine/Tab.lean ====
section
/-!
DEFINITION. Sparse tables: lists of keys and values, keys strictly rising. State holds its memories, register files
and queues in them (plain data, comparable).
-/

namespace Sys2Proof.Machine

/-- Keys and values, keys strictly rising. -/
abbrev Tab (α : Type) := List (Nat × α)

/-- The value at key `k`, if listed. -/
def Tab.find {α : Type} : Tab α → Nat → Option α
  | [], _ => none
  | (k', v) :: t, k => if k' = k then some v else Tab.find t k

/-- The value at key `k`; `d` where it is not listed. -/
def Tab.get {α : Type} (d : α) (t : Tab α) (k : Nat) : α := (Tab.find t k).getD d

/-- The table with `v` at key `k`. -/
def Tab.ins {α : Type} : Tab α → Nat → α → Tab α
  | [], k, v => [(k, v)]
  | (k', v') :: t, k, v =>
    if k < k' then (k, v) :: (k', v') :: t
    else if k = k' then (k, v) :: t
    else (k', v') :: Tab.ins t k v

/-- The table without key `k`. -/
def Tab.del {α : Type} : Tab α → Nat → Tab α
  | [], _ => []
  | (k', v') :: t, k => if k' = k then Tab.del t k else (k', v') :: Tab.del t k

/-- The table with `v` at `k`, where an unlisted key reads as `d`: writing `d` removes the entry. -/
def Tab.set {α : Type} [DecidableEq α] (d : α) (t : Tab α) (k : Nat) (v : α) : Tab α :=
  if v = d then Tab.del t k else Tab.ins t k v

/-- The table with `f` of the value at `k` in its place. -/
def Tab.upd {α : Type} (d : α) (t : Tab α) (k : Nat) (f : α → α) : Tab α := Tab.ins t k (f (Tab.get d t k))

/-- The table with `f` of the entry at `k` in its place, where there is one. -/
def Tab.change {α : Type} (t : Tab α) (k : Nat) (f : α → α) : Tab α := match Tab.find t k with
  | some v => Tab.ins t k (f v)
  | none => t

/-- Keys strictly rising. -/
def Tab.sorted {α : Type} : Tab α → Bool
  | [] => true
  | [_] => true
  | (k, _) :: (k', v') :: t => decide (k < k') && Tab.sorted ((k', v') :: t)

/-- The entries of a table with keys from `lo` to `lo + n − 1`. -/
def Tab.window {α : Type} (t : Tab α) (lo n : Nat) : Tab α :=
  t.filter (fun e => decide (lo ≤ e.1) && decide (e.1 < lo + n))

/-- Keys strictly rising and no entry equal to `d`: the one canonical form of a table whose unlisted keys read `d`. -/
def Tab.wf {α : Type} [DecidableEq α] (d : α) (t : Tab α) : Bool :=
  Tab.sorted t && t.all (fun e => decide (e.2 ≠ d))

end Sys2Proof.Machine
end

