-- ==== Sys2Proof/Machine/Parts.lean ====
section
/-!
DEFINITION. The pieces State is made of: threads, gang ids, teams, launches, cores, pairs, caches, homes, the fabric,
X0, X1 and the links. Each field names the rule of spec/ that gives it. Where a field has a value at team start, at
reset or after bring-up, it is the default written here.
-/

namespace Sys2Proof.Machine

/-! ### Threads and gangs (06, 14) -/

/-- What a WAITING thread awaits (Table 8 of R367). -/
inductive Await where
  | tbar (gen : Nat)
  | cbar (gen : Nat)
  /-- With the clause header and offset of the `swwait` (R325). -/
  | swwait (off : Nat) (gen : Word) (scope : BitVec 3) (hdr : Dword) (ofs : Nat)
  /-- Its address, the physical address of the latest read, the condition, the value, the scope and the lane that reads. -/
  | waitw (va : Dword) (pa : Nat) (cond : Nat) (val : Word) (scope : Nat) (lane : Nat)
  | lwait (tag : Dword) (dst : BitVec 7)
  | sleep (stop : Nat)
  deriving DecidableEq, Repr, Inhabited

/-- The thread states of Table 2 of R160. -/
inductive TState where
  | issuing | filed | parked | waiting | evicted | exited
  deriving DecidableEq, Repr, Inhabited

/-- A thread: its PC, window base, registers and saved state (R153, R169, R171, R372) (DESIGN CHOICE, log entry 3). -/
structure Thread where
  /-- The clause header its next clause starts at (R199). -/
  pc : Dword := 0
  /-- WBASE (R171). -/
  wbase : Nat := 0
  st : TState := .exited
  /-- When it was filed, for the age of its group (R162). -/
  filedAt : Nat := 0
  /-- x[0] to x[REGS − 1] (R169). -/
  x : Tab Word := []
  /-- After eviction the registers not restored hold free values from this count of the counter (R363). -/
  xFree : Option Nat := none
  /-- w0 to w3 (R166). -/
  w : Tab Word := []
  /-- m0 to m7 (R242). -/
  m : BitVec 8 := 0
  /-- Taint of x registers (keys 0–255) and w registers (256–259) (R145). -/
  taint : Tab Bool := []
  /-- The scope of its latest `ld.cons` (R145). -/
  consScope : BitVec 3 := 0
  /-- The record of a WAITING thread (R367). -/
  await : Option Await := none
  /-- EPC (R372). -/
  epc : Dword := 0
  /-- EWB (R372). -/
  ewb : Dword := 0
  /-- EADDR (R372). -/
  eaddr : Dword := 0
  /-- EW0 to EW3 (R372). -/
  ew : Tab Word := []
  /-- The count of compared stores in protected mode (R390). -/
  stores : Nat := 0
  /-- A cause this thread carries since a galley reply (R99). -/
  report : Option (BitVec 8) := none
  /-- The thread was WAITING when it was evicted (R168). -/
  wasWaiting : Bool := false
  deriving DecidableEq, Repr, Inhabited

/-- A cause a gang has stopped with: its code, the lowest home lane that raised it, the code of `trap` or `brk`,
whether the stop is inside a clause, and the address of each lane's stopped access (R369, R372). -/
structure Stop where
  cause : BitVec 8
  lane : Nat := 0
  code : BitVec 16 := 0
  ofsv : Bool := false
  addrs : List (Nat × Dword) := []
  /-- Where the stopped gang resumes (RPC). -/
  pc : Dword := 0
  deriving DecidableEq, Repr, Inhabited

/-- One instruction of a clause: the address of its (sort or instruction) word and its words after expansion. -/
structure Slot where
  addr : Dword
  words : List Word
  deriving DecidableEq, Repr, Inhabited

/-- An issuing gang (R163, R204 to R210). -/
structure Gang where
  uid : Nat := 0
  /-- ACTIVE: bit k for home lane k. -/
  active : BitVec 64 := 0
  /-- The address of the clause header. -/
  hdr : Dword := 0
  /-- The address of the word after the clause. -/
  next : Dword := 0
  /-- The instructions of the clause still to issue; empty between clauses. -/
  buf : List Slot := []
  /-- The clause offset of the first of them (R210). -/
  off : Nat := 0
  wait : BitVec 12 := 0
  fa : BitVec 4 := 0xF
  fb : BitVec 4 := 0xF
  /-- The gang yields after its clause (R209, R234). -/
  yh : Bool := false
  /-- When it last became a candidate (R368); while it waits at its header for the flags of WAIT it is none. -/
  since : Nat := 0
  blocked : Bool := false
  /-- How far a multi-part instruction has come (a release's write-backs, an atomic's RELREC). -/
  stage : Nat := 0
  /-- Requests the instruction still waits for. -/
  pend : List Nat := []
  /-- Lanes whose part of a store is done, one L1 tag at a time (R66). -/
  done : BitVec 64 := 0
  /-- The clause runs (its header was taken) rather than waits to start. -/
  running : Bool := false
  /-- Watchpoints are not checked on the next execution (R376). -/
  noWatch : Bool := false
  /-- Its clause holds a matrix or stereo instruction: no other gang of the gang id is drawn (R288). -/
  mx : Bool := false
  stop : Option Stop := none
  deriving DecidableEq, Repr, Inhabited

/-- The state shared by every gang of a gang id (R166, R208, R372), its threads, and its issuing gangs. -/
structure Gid where
  /-- Placement number of its team. -/
  team : Nat := 0
  teamId : Nat := 0
  launch : Nat := 0
  gid : Nat := 0
  core : Nat := 0
  kslot : Nat := 0
  /-- W, T and REGS (R153, R169). -/
  width : Nat := 16
  threads : Nat := 16
  regs : Nat := 32
  /-- Protected mode: lanes pair up (R388). -/
  prot : Bool := false
  lanes : List Thread := []
  /-- y0 to y15. -/
  y : Tab Word := []
  ytaint : Tab Bool := []
  /-- f0 to f11. -/
  flags : Tab Nat := []
  /-- GSTICKY (R196). -/
  sticky : Dword := 0
  /-- RNGSTATE (R186). -/
  rng : Dword := 0
  /-- GCAUSE (R369). -/
  gcause : Dword := 0
  /-- RPC, EACT and KS0 to KS3 (R372). -/
  rpc : Dword := 0
  eact : Dword := 0
  ks : Tab Dword := []
  /-- The gang that issues now. -/
  gang : Gang := {}
  /-- Its other issuing gangs. -/
  others : List Gang := []
  /-- Gangs held, stopped, with a cause of their own (R373). -/
  held : List Gang := []
  /-- Reports that wait for the gang id's next instruction (R247, R371). -/
  reports : List Stop := []
  /-- No group is drawn: a gang waits to enter its handler, or the gang id is a victim (R373, R380). -/
  frozen : Bool := false
  /-- The dispatcher asked for eviction (R363). -/
  preempt : Bool := false
  evicted : Bool := false
  /-- Since when each of its groups, by PC, is a candidate (R368). -/
  elig : List (Dword × Nat) := []
  /-- Outcome of the most recently completed command, and engine cycles of completed commands (R330). -/
  xdone : Nat := 0
  ecyc : Nat := 0
  deriving DecidableEq, Repr, Inhabited

/-! ### Teams and launches (13, 14) -/

/-- A lease record's state (R53). -/
inductive LeaseState where
  | pending | granted | renewing | revoking | ended
  deriving DecidableEq, Repr, Inhabited

/-- A lease record, as the MMP copies it (Table 7 of R53). -/
structure LeaseRec where
  vbase : Nat
  len : Nat
  /-- [0] R, [1] W, [2] X, [3] A. -/
  rights : BitVec 4
  st : LeaseState := .pending
  expiry : Nat := 0
  deriving DecidableEq, Repr, Inhabited

/-- The forme header and placement order (Table 5 of R354). -/
structure Forme where
  width : Nat := 64
  regs : Nat := 32
  threads : Nat := 64
  galley : Nat := 1
  matrix : Bool := false
  att : Bool := false
  scratch : Nat := 0
  spsteps : Nat := 0
  cohsz : Nat := 0
  order : List Nat := []
  code : Dword := 0
  tcimg : Dword := 0
  va : Dword := 0
  deriving DecidableEq, Repr, Inhabited

/-- How far an accepted entry has come (R355 to R357). -/
inductive LaunchPhase where
  | deps | leases | verify | ready | ending | complete
  deriving DecidableEq, Repr, Inhabited

/-- A divergence of primary and shadow (R389, R390): the store index and thread index, whether it was at a compared store, addresses
and data of primary and shadow, the pair, and whether the rerun has met the store and agreed. -/
structure Divergence where
  index : Nat
  thread : Nat
  store : Bool := true
  va0 : Dword := 0
  va1 : Dword := 0
  data0 : Dword := 0
  data1 : Dword := 0
  pair : Nat
  met : Bool := false
  deriving DecidableEq, Repr, Inhabited

/-- A team to place again: its id and its next run (R387), and for a protected team that diverged what its first run
recorded (R390). -/
structure Again where
  id : Nat := 0
  run : Nat := 0
  avoid : List Nat := []
  diverged : Option Divergence := none
  deriving DecidableEq, Repr, Inhabited

/-- An accepted launch (R353 to R366). -/
structure Launch where
  tag : Nat := 0
  queue : Nat := 0
  seq : Nat := 0
  prio : Nat := 0
  restart : Bool := false
  prot : Bool := false
  lper : Nat := 0
  asid : Nat := 0
  tenant : BitVec 12 := 0
  deps : List Nat := []
  forme : Forme := {}
  /-- Number of teams. -/
  teams : Nat := 1
  /-- DONE's physical address, translated at acceptance (R350). -/
  donePa : Option Nat := none
  /-- The dispatcher's access-table entry for DONE's block, while it stands (R350). -/
  doneEnt : Option (BitVec 128) := none
  yinit : List Word := []
  recs : List LeaseRec := []
  phase : LaunchPhase := .deps
  /-- Teams placed and retired so far. -/
  placed : Nat := 0
  retired : Nat := 0
  /-- Index into the order (R359). -/
  cursor : Nat := 0
  acceptedAt : Nat := 0
  /-- The order in which entries were accepted (R358). -/
  acceptNo : Nat := 0
  /-- When its next cohort became the next work (R361). -/
  cohortSince : Option Nat := none
  reserved : List Nat := []
  /-- The status it will complete with (R356); 0 unless a cause says otherwise. -/
  status : BitVec 32 := 0
  /-- A cause that ended it outside a gang's instruction (R247, R325): its code, gang id, team id and PC. -/
  endBy : Option (BitVec 8 × Nat × Nat × Dword) := none
  /-- The access-table entries made for its pages, and the masters they were made for (R74). -/
  ents : List (BitVec 128) := []
  masters : List Nat := []
  /-- Where its lease table stands in tenant-0 memory (R49, R53); 0 before the MMP copies the records. -/
  leaseTab : Nat := 0
  /-- Blocks of measured pages, from which W is removed (R410). -/
  measured : List (Nat × Nat) := []
  /-- Pairs whose victims make room for its next team or cohort (R362, R363). -/
  incoming : List Nat := []
  /-- Teams to place again (R387, R390). -/
  again : List Again := []
  deriving DecidableEq, Repr, Inhabited

/-- A resident team (R154, R360, R386). -/
structure Team where
  id : Nat := 0
  launch : Nat := 0
  pair : Nat := 0
  kslot : Nat := 0
  winBase : Nat := 0
  winSize : Nat := 0
  /-- TRUN.RUN and TRUN.RST (Table 7 of R386). -/
  run : Nat := 0
  rst : Bool := false
  /-- The tentative buffer: physical line, its held words, their mask and the
  pair-core bits of their writers (R385). -/
  held : Tab (Line × BitVec 32 × BitVec 32) := []
  /-- Generation of its barrier: completions of `tbar` (R338). -/
  barrier : Nat := 0
  /-- Its cohort (R361) and the generation of the cohort's barrier (R339). -/
  cohort : Nat := 0
  cbarrier : Nat := 0
  /-- A team- or launch-ending cause was taken (R366, R391). -/
  ending : Option Stop := none
  endGang : Nat := 0
  /-- Retirement has begun (R365). -/
  retiring : Bool := false
  /-- The divergence of this run, or the one that it repeats (R390), and the pairs it avoids (R387, R390). -/
  diverged : Option Divergence := none
  avoid : List Nat := []
  /-- The run that repeats a diverging one, and the address and data of its own store where they agree with neither lane. -/
  rerun : Bool := false
  rvals : Option (Dword × Dword) := none
  deriving DecidableEq, Repr, Inhabited

/-- Registers held for a launch on a core (R97, R164, R326, R372). -/
structure LaunchCore where
  /-- GALQ (Table 8 of R97). -/
  limit : Nat := 1
  split : Nat := 8
  quota : Nat := 1
  /-- BINCTL (Table 3 of R164). -/
  aged : Nat := 0
  age : Nat := 64
  tvec : Dword := 0
  wp0 : Dword := 0
  wp1 : Dword := 0
  /-- XFAULT0 and XFAULT1 (R326). -/
  xfault0 : Dword := 0
  xfault1 : Dword := 0
  deriving DecidableEq, Repr, Inhabited

/-! ### Outstanding operations of a core (08 R208) -/

/-- Where a result goes: a lane register, a w register, a y register, or GSTICKY (ORed in). -/
inductive Wr where
  | x (lane reg : Nat) (v : Word)
  | w (lane reg : Nat) (v : Word)
  | y (reg : Nat) (v : Word)
  | sticky (v : Dword)
  deriving DecidableEq, Repr, Inhabited

/-- A lane's part of a load: its address, its byte offset in the line, and the request that brings the line. -/
structure LaneLoad where
  lane : Nat
  ea : Dword
  pline : Nat
  req : Nat
  arrived : Bool := false
  /-- The lane's words stood in L1: it takes no line slot (R95). -/
  hit : Bool := false
  deriving DecidableEq, Repr, Inhabited

/-- What an outstanding operation is. -/
inductive OpKind where
  /-- A load that does not park (`ld.cons`, `ld.nc`, `ld.y`). -/
  | load
  /-- An `ld.g`: its galley entry (R94). -/
  | galley
  /-- `amo.*` (R260). -/
  | amo
  /-- A special-function, conversion or other operation whose results were computed at issue. -/
  | compute
  /-- A matrix or stereo operation (R289). -/
  | matrix
  /-- A `tcload` (R334). -/
  | engine
  /-- An `imprintq` (R348). -/
  | imprint
  deriving DecidableEq, Repr, Inhabited

/-- A long-latency operation in progress (R208), or a load that has not returned (R94, R251). -/
structure Op where
  gid : Nat
  kind : OpKind
  /-- The completion flag it counts in; 15 for none. -/
  flag : Nat := 15
  /-- Destination field and its registers (R225). -/
  dst : BitVec 7 := 116
  nregs : Nat := 1
  /-- SZ of a load (R243). -/
  sz : BitVec 3 := 4
  issued : Nat := 0
  /-- For a galley entry: the PC after the `ld.g` (R94). -/
  pc : Dword := 0
  /-- GALQ.SPLIT when it issued (R97). -/
  split : Nat := 0
  /-- Masks of R94. -/
  outstanding : BitVec 64 := 0
  arrived : BitVec 64 := 0
  /-- Lanes whose registers wait for the operation. -/
  lanes : BitVec 64 := 0
  loads : List LaneLoad := []
  /-- Acquire actions follow (R250): the scope. -/
  acq : BitVec 3 := 0
  /-- `ld.cons` taints (R251). -/
  cons : Bool := false
  /-- Results to write at completion. -/
  writes : List Wr := []
  /-- Metered multiply-accumulates, skipped blocks and cycles of a matrix operation (R303, R316). -/
  macs : Nat := 0
  metered : Bool := false
  region : BitVec 12 := 0
  skips : Nat := 0
  cycles : Nat := 0
  /-- Matrix state that waits for it: bits 0–7 tiles, 8–11 accumulators, 12 the latch, 13–16 bindings; and the same of
  the follower core, for a pair operation (R208, R289, R300). -/
  tiles : BitVec 17 := 0
  ftiles : BitVec 17 := 0
  /-- A matrix operation that waits for memory: its instruction, and the operands and shapes it took at issue. -/
  todo : Option Instr := none
  args : List Nat := []
  /-- Identifier of the instruction's gang. -/
  gang : Nat := 0
  /-- Of a `tcload`: its first entry, their count, and how many are written (R334). -/
  first : Nat := 0
  count : Nat := 0
  written : Nat := 0
  deriving DecidableEq, Repr, Inhabited

/-- A line or word request from a pair or engine into its chiplet's L2. -/
inductive ReqKind where
  /-- A merging fill of an L1 line (R85). -/
  | fill
  /-- A read that allocates nothing (`ld.nc`, NC pages). -/
  | bypass
  /-- A flush of an imprint count (R393). -/
  | flush
  /-- An acquire read at the home (ACQRD). -/
  | acquire
  /-- Write-back or direct write awaiting its completion (PUTX, PWR, NCWR, RELREC). -/
  | write
  /-- A prefetch into L2 (`pf`, `xpf`). -/
  | prefetch
  /-- An engine's read or ownership request. -/
  | engine
  /-- A cluster walker's read of a table line (R62). -/
  | walk
  deriving DecidableEq, Repr, Inhabited

/-- A request in flight on the die. -/
structure Req where
  kind : ReqKind
  core : Nat
  /-- The outstanding operation it belongs to, 0 for none. -/
  op : Nat := 0
  /-- The gang id and gang whose `pend` list names it. -/
  gid : Nat := 0
  asid : Nat := 0
  kslot : Nat := 0
  vline : Nat := 0
  pline : Nat := 0
  master : BitVec 12 := 0
  tenant : BitVec 12 := 0
  mask : LineMask := 0
  data : Line := 0
  /-- Class of the message a direct request sends (NCRD, NCWR, ACQRD, RELREC, AMO), 0 through the L2. -/
  cls : BitVec 8 := 0
  scope : BitVec 3 := 0
  acq : Bool := false
  /-- The target port of a direct request. -/
  target : Nat := 0
  lane : Nat := 0
  /-- An instruction fetch (R70, R73, R207). -/
  fetch : Bool := false
  /-- A denial is reported to the gang id: a write-back that its `dmma` caused (R308). -/
  report : Bool := false
  /-- Words of a write-through page (R126). -/
  wt : Bool := false
  /-- The request of the pair's other core for words of the same write-back, which asks after this one (R70); this one asked the
  home; it must ask for its own core. -/
  twin : Nat := 0
  asked : Bool := false
  mustAsk : Bool := false
  /-- A fill that an invalidation of clean words overtook: its data is not installed in L1. -/
  stale : Bool := false
  /-- What the reply brought, for a request of an engine or a matrix operation. -/
  reply : Option LineData := none
  deriving DecidableEq, Repr, Inhabited

/-! ### Matrix state (11) -/

/-- A stereo binding register (R309, R314). -/
structure Binding where
  bound : Bool := false
  /-- Address and ASID of the descriptor, which stands in the pair's plate cache (R308). -/
  va : Dword := 0
  asid : Nat := 0
  /-- The last-operation report (R314). -/
  report : Dword := 0
  deriving DecidableEq, Repr, Inhabited

/-- A core's tiles, accumulators, latch and their control registers (R287 to R303). -/
structure Mat where
  /-- Tile bytes, key 32768 t + 256 row + byte. -/
  tiles : Tab Byte := []
  /-- Accumulator elements, key 16384 acc + 128 row + column, as binary32. -/
  accs : Tab Word := []
  /-- TSHAPE0–7 and TTAG0–7 (R290). -/
  tshape : Tab Dword := []
  ttag : Tab Dword := []
  /-- Writes of TSHAPE that await the end of their clause: gang id, gang (0 while its clause is stopped for a handler), tile, value
  (R290). -/
  tspend : List (Nat × Nat × Nat × Dword) := []
  /-- Zero-block maps (R297); ZMV is a bit of TSHAPE. -/
  zmap : Tab (BitVec 256) := []
  /-- LATCH and LSHAPE (R299). -/
  latch : Dword := 0
  lshape : Dword := 0
  /-- The latched rows, key 256 row + byte, as their format stores them; in pair mode also the follower's half; and the
  TR they were latched with. -/
  lw : Tab Byte := []
  lw2 : Tab Byte := []
  ltr : Bool := false
  /-- MXSTAT (R303). -/
  mxstat : Dword := 0
  /-- sb0–sb3. -/
  sb : Tab Binding := []
  deriving DecidableEq, Repr, Inhabited

/-- A copy-engine command (12 R319 to R330). -/
structure Cmd where
  gid : Nat
  core : Nat
  flag : Nat := 15
  scope : BitVec 3 := 2
  /-- `xpf` rather than `xcopy`. -/
  pf : Bool := false
  /-- The 64 bytes of its descriptor as eight words (Table 2 of R319), and its synchronisation word. -/
  desc : List Dword := []
  sw : Nat := 0
  asid : Nat := 0
  tenant : BitVec 12 := 0
  kslot : Nat := 0
  launch : Nat := 0
  team : Nat := 0
  /-- The run it has come to, and the destination bytes of it written (source bytes of an `xpf`). -/
  run : Nat := 0
  off : Nat := 0
  /-- Requests of the write in progress: sources (stage 1), destination lines (stages 1 and 2), direct writes (stage 3). -/
  stage : Nat := 0
  srcs : List Nat := []
  dsts : List Nat := []
  /-- The bytes of the write in progress. -/
  bytes : List Byte := []
  /-- Conversion flags so far. -/
  flags : Nat := 0
  cancelled : Bool := false
  /-- It has started: commands of a core start in their order of issue (R327). -/
  started : Bool := false
  deriving DecidableEq, Repr, Inhabited

/-- A core: its issue slot, galley queue of stalls, matrix unit, imprint accumulator and engine. -/
structure Core where
  /-- The gang id and gang in the issue slot. -/
  slot : Option (Nat × Nat) := none
  /-- A gang that yielded, passed over for one choice (R209). -/
  yielded : Option (Nat × Nat) := none
  /-- Gangs stalled at an `ld.g`, oldest first, each with the line slots it needs (R96); and at an engine instruction (R327). -/
  galleyStalls : List (Nat × Nat × Nat) := []
  engineStalls : List (Nat × Nat) := []
  mat : Mat := {}
  /-- PREG, PTEN and PCNT (R392). -/
  preg : BitVec 12 := 0
  pten : BitVec 12 := 0
  pcnt : Nat := 0
  /-- SPCONF of each team on the core, key the team's placement number (R83). -/
  spconf : Tab Dword := []
  deriving DecidableEq, Repr, Inhabited

/-! ### Pairs (03) -/

/-- An L1 line: its tag, physical line, words, and their valid, dirty and pair-core bits (R64, R70, R84). -/
structure L1Line where
  asid : Nat
  kslot : Nat
  vline : Nat
  pline : Nat
  words : Line := 0
  valid : BitVec 32 := 0
  dirty : BitVec 32 := 0
  by1 : BitVec 32 := 0
  /-- WT and IREG of the page it was translated through. -/
  wt : Bool := false
  ireg : BitVec 12 := 0
  deriving DecidableEq, Repr, Inhabited

/-- A cached stereo plate (R307, R308): its descriptor, and the arrays where they are in the cache. -/
structure Plate where
  va : Dword
  asid : Nat
  pa : Nat
  desc : List Byte := []
  dirty : Bool := false
  /-- OPD, key 128 m + k; RES, key 256 m + n; as binary32. -/
  opd : Tab Word := []
  res : Tab Word := []
  /-- The arrays are in the cache, and hold words not written back. -/
  arrays : Bool := false
  adirty : Bool := false
  /-- The arrays are on their way into the cache: their place is taken. -/
  fetching : Bool := false
  /-- Physical lines of the arrays, by virtual line. -/
  lines : Tab Nat := []
  /-- The core and tenant of the elected thread that used it last. -/
  core : Nat := 0
  tenant : BitVec 12 := 0
  deriving DecidableEq, Repr, Inhabited

/-- A pair: scratchpad, L1, typecase banks, plates and RSEQ. -/
structure Pair where
  /-- Scratchpad bytes by byte address. -/
  scr : Tab Byte := []
  /-- Windows last owned: base, size and launch tag (R80). -/
  owners : List (Nat × Nat × Nat) := []
  /-- Where a change of STEPS has left the scratchpad undefined: the free counter then (R79). -/
  scrFree : Option Nat := none
  l1 : List L1Line := []
  /-- Typecase entries, key 256 slot + index (R211). -/
  bank : Tab (BitVec 128) := []
  /-- The launch that holds each kernel slot (R155). -/
  k0 : Option Nat := none
  k1 : Option Nat := none
  rseq : Word := 0
  plates : List Plate := []
  /-- Gang ids evicted, oldest first (R364). -/
  evictions : List Nat := []
  deriving DecidableEq, Repr, Inhabited

/-! ### Caching agents (04) -/

/-- L2 line states (Table 6 of R110). -/
inductive L2State where
  | i | s | e | o | m | isD | imD | smG | miB | eiB
  deriving DecidableEq, Repr, Inhabited

/-- An L2 line; the words of a local write that waits for ownership stand in `wdata`, `wmask`. -/
structure L2Line where
  st : L2State := .i
  wt : Bool := false
  /-- SM_G was entered from O: memory is stale. -/
  owned : Bool := false
  data : Line := 0
  poison : Bool := false
  /-- Requests (Req identifiers) that wait for the line to become stable. -/
  waiters : List Nat := []
  /-- Snoops deferred by a pin (R124), in arrival order: the number of local accesses that came before, the sender, the snoop. -/
  deferred : List (Nat × Nat × Msg) := []
  /-- Engine command that pins the line. -/
  pin : Option Nat := none
  deriving DecidableEq, Repr, Inhabited

/-- A transaction of a requester, found by its TAG (R102, R107): its class and line, and the request it serves. -/
structure Tx where
  cls : BitVec 8
  line : Nat
  target : Nat
  req : Nat := 0
  /-- For an atomic: the operation and lane. -/
  lane : Nat := 0
  issued : Nat := 0
  deriving DecidableEq, Repr, Inhabited

/-- A promotion in progress at an L2 (R121): its chiplet, the home it answers, the PROMOTE and the write-backs awaited. -/
structure Promotion where
  chip : Nat
  home : Nat
  m : Msg
  waits : List Nat
  mask : LineMask := 0
  data : Line := 0
  deriving DecidableEq, Repr, Inhabited

/-! ### Homes (04) -/

/-- Stable directory states (Table 2 of R104). -/
inductive DirState where
  | di | ds | dx | do
  deriving DecidableEq, Repr, Inhabited

/-- A directory entry (Table 1 of R104). -/
structure Dir where
  st : DirState := .di
  owner : Nat := 0
  sharers : BitVec 17 := 0
  lrscope : BitVec 3 := 0
  lrpair : BitVec 9 := 0
  lrseq : Word := 0
  deriving DecidableEq, Repr, Inhabited

/-- Transient states of a home (Table 8 of R111). -/
inductive HState where
  | hd | hda | ha | hf | hfa | hr | hp | hv
  deriving DecidableEq, Repr, Inhabited

/-- The open transaction of a line: its request and sender, state, and what it still awaits. -/
structure HomeTx where
  src : Nat
  m : Msg
  st : HState
  acks : Nat := 0
  needData : Bool := false
  needDram : Bool := false
  /-- The line data collected so far. -/
  data : Line := 0
  poison : Bool := false
  /-- KIND and IREG of the access entry that matched (R71). -/
  kind : BitVec 2 := 0
  ireg : BitVec 12 := 0
  /-- The response held back until HV ends, and its target; the tag of the VBUMP it waits for (R127). -/
  reply : Option (Nat × Msg) := none
  bump : Nat := 0
  /-- Former sharers kept (R112), and words a promotion merges. -/
  promMask : LineMask := 0
  promData : Line := 0
  promoting : Bool := false
  /-- PROMACK has arrived (R121). -/
  promGot : Bool := false
  evict : Bool := false
  deriving DecidableEq, Repr, Inhabited

/-! ### The fabric (01) -/

/-- A flit in the replay buffer: when it was last sent and how often it was replayed (R24, R27). -/
structure Sent where
  f : Flit
  at_ : Nat
  replays : Nat := 0
  deriving DecidableEq, Repr, Inhabited

/-- What is raised to the MMP's firmware and not yet taken: the fabric interrupt of a pair (R27) or of a port (R107), a table
error (R37). -/
inductive MmpNote where
  | lane (i j : Nat)
  | protocol (port : Nat)
  | tables
  deriving DecidableEq, Repr, Inhabited

/-- One ordered pair of ports: the sender at i and the receiver at j (R24 to R27, R36). -/
structure FPair where
  /-- Messages waiting at the source, in issue order. -/
  egress : List Msg := []
  /-- Flits of the message being sent that have no place in the replay buffer yet (R24). -/
  bodies : List (BitVec 2 × BitVec 256) := []
  /-- Flits of the pair that wait for a lane of it, and flits relayed over it, each from a time on (R30). -/
  own : List Flit := []
  through : List (Nat × Flit) := []
  /-- A relayed flit is the next to leave, where both wait (R30). -/
  turn : Bool := false
  /-- When its lanes have serialised what they carry (R22). -/
  wireUntil : Nat := 0
  nextSeq : BitVec 16 := 0
  replay : List Sent := []
  /-- Round robin over the healthy lanes. -/
  rr : Nat := 0
  /-- Lanes no longer used (R27). -/
  dropped : List Nat := []
  /-- Transactions of i open at j (R36). -/
  open_ : Nat := 0
  /-- PWBs (R122) and VNEWs (R128) of i open at j, counted apart. -/
  pwbs : Nat := 0
  vnews : Nat := 0
  /-- When the last flit of the pair is serialised, for BUSY (R35). -/
  busyUntil : Nat := 0
  /-- Receiver: next expected SEQ, flits accepted and not acknowledged, the message being received. -/
  expect : BitVec 16 := 0
  unacked : Nat := 0
  parts : List Flit := []
  deriving DecidableEq, Repr, Inhabited

/-! ### Translation (02) -/

/-- A cluster TLB entry (R62). -/
structure TlbEntry where
  launch : Nat
  asid : Nat
  lo : Nat
  hi : Nat
  pa : Nat
  rights : BitVec 4
  wt : Bool
  nc : Bool
  ireg : BitVec 12
  recIx : Nat
  expiry : Nat
  deriving DecidableEq, Repr, Inhabited

/-- A table walk of a cluster's walker (R50, R62): the lines the L2 has supplied, none for one that was denied or poisoned, the
request under way, and whether the walk ended in a page-table error. -/
structure Walk where
  cluster : Nat
  launch : Nat
  va : Nat
  right : BitVec 4
  got : Tab (Option Line) := []
  req : Nat := 0
  bad : Bool := false
  deriving DecidableEq, Repr, Inhabited

/-- An unmap in progress (R60). -/
structure Unmap where
  asid : Nat
  va : Nat
  len : Nat
  short : Nat
  /-- 0 waiting for the leases, 1 shorten notices out, 2 purge out, 3 tables out, 4 complete. -/
  phase : Nat := 0
  waits : Nat := 0
  frames : List (Nat × Nat) := []
  deriving DecidableEq, Repr, Inhabited

/-! ### X0 and X1 (13, 15, 16) -/

/-- A counter slot (R396). -/
inductive SlotState where
  | free | opened | closed
  deriving DecidableEq, Repr, Inhabited

/-- A counter slot (R396). -/
structure Counter where
  region : BitVec 12
  tenant : BitVec 12
  count : Nat := 0
  ceil : Nat := 0
  st : SlotState := .free
  deriving DecidableEq, Repr, Inhabited

/-- What waits for a record to be published (R397, R399): the record's kind and fields, and what happens after. -/
structure PubReq where
  kind : BitVec 8
  region : BitVec 12 := 0
  tenant : BitVec 12 := 0
  value : Nat := 0
  ceiling : Nat := 0
  aux : List Byte := []
  aux2 : List Byte := []
  /-- The mailbox command completes with it. -/
  mailbox : Bool := false
  /-- A launch whose attestation completes with it. -/
  launch : Option Nat := none
  deriving DecidableEq, Repr, Inhabited

/-- What a transaction of an I/O chiplet is for. -/
inductive IoKind where
  /-- The dispatcher writes an entry to sequence number `seq` of a queue (R340). -/
  | post (q seq : Nat)
  /-- The dispatcher or X1 writes a word: nothing follows. -/
  | word
  /-- The completion word of a launch is written (R356). -/
  | done (launch : Nat)
  /-- The dispatcher re-reads a queue's tail word (R351). -/
  | tail (q : Nat)
  /-- The dispatcher or X1 reads a line outside device memory for `owner`. -/
  | read (owner line : Nat)
  /-- A record of the proof log is written (R399). -/
  | record
  /-- A CXL.mem read or write of the host (R414). -/
  | memRd (half : Nat)
  | memWr
  /-- A device's read of host memory, or an atomic on it (R417, R418). -/
  | hostRead
  | hostAtomic
  | hostRmw
  /-- A request of this module sent to a peer over a link (R421). -/
  | peerOut (link : Nat)
  /-- A peer's request in this module (R422). -/
  | peerIn (link modid : Nat)
  /-- A peer's write or atomic held while the atomic cache is full (R423). -/
  | peerHeld (link modid : Nat)
  deriving DecidableEq, Repr, Inhabited

/-- A transaction at X0, X1 or a link chiplet (R340, R414 to R423). -/
structure IoOp where
  kind : IoKind
  /-- The requester's tag, its port, and the request. -/
  tag : Nat := 0
  src : Nat := 0
  m : Option Msg := none
  /-- Completions still awaited. -/
  left : Nat := 0
  issued : Nat := 0
  deriving DecidableEq, Repr, Inhabited

/-- An atomic-cache entry (R423). -/
structure AtomEntry where
  port : Nat
  modid : Nat
  tag : Nat
  reply : Option Msg := none
  expires : Nat := 0
  deriving DecidableEq, Repr, Inhabited

/-- What X0 sends on the host link (R414 to R418). -/
inductive HostTlp where
  | memRdData (tag : Nat) (data : BitVec 512) (poison : Bool)
  | memWrDone (tag : Nat)
  /-- PCI Express memory requests: 128 bytes read, bytes written, an AtomicOp (0 FetchAdd, 1 Swap, 2 CAS). -/
  | read (id bus : Nat)
  | write (bus : Nat) (data : Line) (mask : LineMask)
  | atomic (id bus op size : Nat) (a b : Dword)
  deriving DecidableEq, Repr, Inhabited

/-- A scale-up link: its transmitter and its receiver (R424, R425). -/
structure LinkState where
  key : Tab (BitVec 256) := []
  salt : Tab (BitVec 32) := []
  counter : Tab Nat := []
  rkey : Tab (BitVec 256) := []
  nextSeq : BitVec 16 := 0
  expect : BitVec 16 := 0
  replay : List LinkFrame := []
  exhausted : BitVec 2 := 0
  rsalt : Tab (BitVec 32) := []
  rvalid : BitVec 2 := 0
  /-- Frames waiting for a key slot, and what the link has sent: frames, ACKs and NAKs (SEQ), and retire notices. -/
  waiting : List (List Byte) := []
  out : List LinkFrame := []
  acks : List (Bool × BitVec 16) := []
  notices : List Nat := []
  deriving DecidableEq, Repr, Inhabited

end Sys2Proof.Machine
end

