-- ==== Sys2Proof/Machine/State.lean ====
section
/-!
DEFINITION. The state of the module, as plain data; the stops a step can end in; the state after reset.
-/

namespace Sys2Proof.Machine

/-- Why a step can stop with a fault. -/
inductive Fault where
  /-- Raised by `step`: an item of the agenda names an agent the package does not have (a port above 35, a core above
  1,023, a link above 11), which no rule of the spec describes. Safe: such an item is no event of the hardware. -/
  | noSuchAgent
  deriving DecidableEq, Repr

/-- Why a step can refuse. -/
inductive Refusal where
  /-- Raised by an arm of `exec` whose instruction has no meaning in this model. Safe: nothing is claimed of it. -/
  | notModelled (mnemonic : String)
  deriving DecidableEq, Repr

/-- The message being delivered: its sender, its target and itself (R23, R107). -/
structure Rx where
  src : Nat := 0
  dst : Nat := 0
  m : Msg := { cls := 0 }
  deriving DecidableEq, Repr, Inhabited

/-- What an item of the agenda does when it falls due. -/
inductive Due where
  /-- An event of the opcode table happens. -/
  | event (i : Instr)
  /-- A whole message reaches its target (R23): the row of its class acts on it. -/
  | deliver (r : Rx)
  /-- A gang of a gang id issues its next instruction (R207, R368). -/
  | issue (gid uid : Nat)
  /-- The MMP takes the command of the mailbox (R419). -/
  | mailbox
  deriving DecidableEq, Repr

/-- The state of the module. Tables are keyed by the number the spec gives a part: core, pair, chiplet, port, line.
A line key is PA[47:7], with the chiplet or port above bit 41 where each has its own. -/
structure State where
  /-- `ptime` in ns (R8). -/
  ptime : Nat
  /-- Power is applied (R446). -/
  powered : Bool
  /-- The model's own: what is to happen, and when at the earliest. -/
  agenda : List (Nat × Due)
  /-- The model's own: which due item goes first, and how much time passes, step by step. -/
  picks : List Nat
  ticks : List Nat
  /-- The model's own: a counter; each free value is an opaque constant applied to it. -/
  free : Nat
  /-- The model's own: the next identifier of an operation, request, gang or command. -/
  nextId : Nat
  /-- The model's own: the gang id whose gang issues in this step. -/
  cur : Nat
  /-- The message being delivered in this step. -/
  rx : Rx
  /-- The mailbox command area as the MMP copied it (R419). -/
  mbCopy : List Byte
  /-- Device memory, by physical address: bytes that differ from 0. -/
  mem : List Host.Cell
  /-- Writes to device memory made within the step, newest first; empty between steps. -/
  wr : List Host.Cell
  /-- Poisoned lines of device memory (R129). -/
  poison : Tab Bool
  /-- Step 5 of bring-up has loaded its tables (R442): unlisted table registers read as Daloz firmware loads them. -/
  tables : Bool
  /-- IHSEL (R41). -/
  ihsel : Dword
  /-- Registers of the management windows, key port × 2^30 + offset (R45). -/
  regs : Tab Dword
  /-- Access-table entries, key port × 2^15 + 8 × master + entry (R68). -/
  acc : Tab (BitVec 128)
  gids : Tab Gid
  teams : Tab Team
  launches : Tab Launch
  /-- Registers of a launch on a core, key 2 × core + kernel slot. -/
  lcs : Tab LaunchCore
  cores : Tab Core
  pairs : Tab Pair
  ops : Tab Op
  reqs : Tab Req
  cmds : Tab Cmd
  /-- Cluster TLBs (R62). -/
  tlbs : Tab (List TlbEntry)
  /-- Walks under way, and those that ended in an error, key a fresh identifier. -/
  walks : Tab Walk
  /-- L2 lines, key chiplet × 2^41 + line. -/
  l2 : Tab L2Line
  /-- Outstanding transactions, key port × 2^16 + TAG. -/
  txs : Tab Tx
  promotions : List Promotion
  /-- Directory, open transactions and queues of the homes, key line. -/
  dir : Tab Dir
  homeTx : Tab HomeTx
  homeQ : Tab (List Rx)
  /-- The promotion buffers (R122), and write-backs performed whose version bump is not complete (R127), key port × 2^16 + TAG of
  the VBUMP. -/
  pwbs : List Rx
  pwbWait : Tab Rx
  /-- Ordered pairs, key 64 × i + j. -/
  fab : Tab FPair
  /-- Admission shares in force (R37), key 64 × i + j. -/
  reqcap : Tab Nat
  /-- What the MMP's firmware has been told and has not yet acted on (R27, R37, R107). -/
  mmpNotes : List MmpNote
  unmaps : Tab Unmap
  /-- The tenant that holds, or last held, each 64 KiB frame (R49): tenant + 4096 while held. -/
  frames : Tab Nat
  /-- Last tail value seen of each queue (R351). -/
  tails : Tab Nat
  /-- Completed launches' status, key tag (R341). -/
  results : Tab (BitVec 32)
  /-- Tags of entries that could not be read, for which `lwait` returns 2 (R355). -/
  unread : List Nat
  /-- Entries complete but not yet passed by HEAD (R356). -/
  completed : List Nat
  counters : List Counter
  pubs : List PubReq
  signers : Tab (List Byte)
  imported : List (List Byte)
  /-- Epoch fuses blown (R402): they survive power loss. -/
  fuses : Nat
  /-- Pairs that firmware's list on the carrier flash names as suspect (R444): it survives power loss. -/
  suspects : List Nat
  /-- Bumps in progress or waiting: region, home, line, VACKs still awaited (R127). -/
  bumps : List (Nat × Nat × Nat × Nat)
  io : Tab IoOp
  atoms : List AtomEntry
  links : Tab LinkState
  /-- Versions of the imprint regions at X1 (R127, R296). -/
  vers : Tab Word
  /-- What X0 has sent on the host link, oldest first. -/
  hostOut : List HostTlp
  /-- Typecase old or new, launch posts and other counts: order of acceptance and of eviction. -/
  accepts : Nat
  deriving DecidableEq, Repr

/-- The module right after reset: without power for an instant, every register at its reset value, and the event of
power being applied due (R442). -/
def State.reset : State where
  ptime := 0
  powered := false
  agenda := [(0, .event (.powerOn {}))]
  picks := []
  ticks := []
  free := 0
  nextId := 1
  cur := 0
  rx := {}
  mbCopy := []
  mem := []
  wr := []
  poison := []
  tables := false
  ihsel := 0x0000FFFF00000000#64
  regs := []
  acc := []
  gids := []
  teams := []
  launches := []
  lcs := []
  cores := []
  pairs := []
  ops := []
  reqs := []
  cmds := []
  tlbs := []
  walks := []
  l2 := []
  txs := []
  promotions := []
  dir := []
  homeTx := []
  homeQ := []
  pwbs := []
  pwbWait := []
  fab := []
  reqcap := []
  mmpNotes := []
  unmaps := []
  frames := []
  tails := []
  results := []
  unread := []
  completed := []
  counters := []
  pubs := []
  signers := []
  imported := []
  fuses := 0
  suspects := []
  bumps := []
  io := []
  atoms := []
  links := []
  vers := []
  hostOut := []
  accepts := 0

end Sys2Proof.Machine
end

