-- ==== Sys2Proof/Machine/Ops.lean ====
section
/-!
DEFINITION. The named operations on the state: device memory, window registers, the agenda, gang ids and threads,
filing, taking a cause, handler entry and the return from it.
-/

namespace Sys2Proof.Machine

/-- What a meaning answers. -/
abbrev Out := Host.Outcome State Fault Refusal

/-! ### Device memory (R38, R102) -/

/-- A byte nothing has written reads 0 (log entry 2). -/
def Memory.wf (m : List Host.Cell) : Bool := Tab.wf (0 : Byte) m

/-- The byte at a physical address of device memory, the writes of this step included (DESIGN CHOICE, log entry 2). -/
def State.byte (s : State) (pa : Nat) : Byte :=
  match Tab.find s.wr pa with
  | some b => b
  | none => Tab.get 0 s.mem pa

/-- A byte of device memory is written. -/
def State.setByte (s : State) (pa : Nat) (b : Byte) : State := { s with wr := (pa, b) :: s.wr }

/-- The memory after a list of writes, newest first. -/
def Memory.applied (m : List Host.Cell) (wr : List Host.Cell) : List Host.Cell :=
  wr.foldr (fun c m => Tab.set (0 : Byte) m c.1 c.2) m

/-- The end of a step from `s`: the writes queued in `t` go into device memory, which keeps nothing without power (R446). A
meaning changes memory in no other way. -/
def finish (s t : State) : State := { t with mem := if t.powered then Memory.applied s.mem t.wr else [], wr := [] }

/-- Bytes as a little-endian number. -/
def natOfBytes : List Byte → Nat
  | [] => 0
  | b :: bs => b.toNat + 256 * natOfBytes bs

/-- `n` bytes of device memory from `pa`, lowest first: each is `State.byte`, found among the cells of the range. -/
def State.bytesAt (s : State) (pa n : Nat) : List Byte :=
  let cs := Tab.window s.mem pa n
  (List.range n).map (fun i => match Tab.find s.wr (pa + i) with
    | some b => b
    | none => Tab.get 0 cs (pa + i))

/-- Byte `k` of a line. -/
def lineByte (l : Line) (k : Nat) : Byte := l.extractLsb' (8 * k) 8

/-- A line from its 128 bytes, lowest first. -/
def lineOfBytes (bs : List Byte) : Line := BitVec.ofNat 1024 (natOfBytes bs)

/-- The line `ln` (PA[47:7]) of device memory. -/
def State.memLine (s : State) (ln : Nat) : Line := lineOfBytes (s.bytesAt (128 * ln) 128)

/-- The bits of a line that a byte mask enables. -/
def maskBits (m : LineMask) : Line :=
  BitVec.ofNat 1024 ((List.range 128).foldl (fun acc k => if m.getLsbD k then acc + 255 * 2 ^ (8 * k) else acc) 0)

/-- `old` with the bytes of `new` under `m` (R107). -/
def mergeLine (old new : Line) (m : LineMask) : Line :=
  let b := maskBits m
  (old &&& ~~~b) ||| (new &&& b)

/-- A 32-bit word mask as a byte mask (R87). -/
def byteMask (w : BitVec 32) : LineMask :=
  BitVec.ofNat 128 ((List.range 32).foldl (fun acc k => if w.getLsbD k then acc + 15 * 2 ^ (4 * k) else acc) 0)

/-- The bytes of a line under a mask are written to device memory. -/
def State.setMemLine (s : State) (ln : Nat) (l : Line) (m : LineMask) : State :=
  (List.range 128).foldl (fun s k => if m.getLsbD k then s.setByte (128 * ln + k) (lineByte l k) else s) s

/-- Every byte of a line. -/
def fullMask : LineMask := BitVec.allOnes 128

/-! ### Window registers (R14, R45) -/

/-- Key of a register of a port's management window. -/
def regKey (port off : Nat) : Nat := port * 2 ^ 30 + off

/-- X1's window, port 33. -/
def x1 : Nat := 33
/-- X0's window, port 32. -/
def x0 : Nat := 32

/-- The share of source `i` at target `j` in the default admission table (Table 5 of R37). -/
def defaultShare (i j : Nat) : Nat :=
  if 16 ≤ j ∧ j < 32 then
    if i < 16 then 96 else if i = 32 then 64 else if i = 33 then 32 else if 34 ≤ i ∧ i < 36 then 64 else 0
  else if j < 16 then if 16 ≤ i ∧ i < 32 then 48 else 0
  else if j = 32 then if i < 16 then 8 else if i < 32 then 48 else 0
  else if j = 33 then if i < 16 then 16 else if i < 32 then 8 else 0
  else if j < 36 then if i < 16 then 24 else 0
  else 0

/-- Four 16-bit entries of the Daloz bank map from slot `q` (R78). -/
def bmapWord (q : Nat) : Dword :=
  let e (q : Nat) := q % 32 + 32 * (q / 64) + 384 * (q / 32 % 2)
  BitVec.ofNat 64 (e q + e (q + 1) * 2 ^ 16 + e (q + 2) * 2 ^ 32 + e (q + 3) * 2 ^ 48)

/-- Eight entries of SLTAB from entry `g`, every slice active (R42). -/
def sltabWord (g : Nat) : Dword := BitVec.ofNat 64 ((List.range 8).foldl (fun a k => a + (g + k) % 32 * 2 ^ (8 * k)) 0)

/-- Whether an offset from the base of a table of ordered pairs, 8 bytes each, names one (R28). -/
def pairAt (d : Nat) : Bool := d % 8 == 0 && decide (d / 8 / 64 < 36) && decide (d / 8 % 64 < 36) && d / 8 / 64 != d / 8 % 64

/-- The value of a register that nothing has changed: its reset value (its own table in spec/), 0 but for ROUTE (R28),
THERM (R447), DISPCTL (R361), PLCFG (R399) and INCAP (R37); and, once bring-up has loaded its tables, what it loads:
every route in mode 0 with HOLD = 0, the default shares, BMAP, SLTAB and L2SACT (R28, R37, R42, R78, R442) (DESIGN CHOICE, log entry 4). -/
def regDefault (tables : Bool) (port off : Nat) : Dword :=
  if port = x1 then
    if 0x10000 ≤ off ∧ off < 0x14800 ∧ pairAt (off - 0x10000) = true then if tables then 0 else 0x10000#64
    else if tables = true ∧ 0x38000 ≤ off ∧ off < 0x3C800 ∧ pairAt (off - 0x38000) = true then
      BitVec.ofNat 64 (defaultShare ((off - 0x38000) / 8 / 64) ((off - 0x38000) / 8 % 64))
    else if off = 0x74008 then (8000#64) <<< 32
    else if off = 0x70000 then (4#64) <<< 8
    else if 0x3E000 ≤ off ∧ off < 0x3E000 + 8 * 36 ∧ off % 8 = 0 then
      let j := (off - 0x3E000) / 8
      if j < 16 then 1024#64 else if j < 32 then 2048#64 else if j = 32 then 1024#64 else 512#64
    else 0
  else if port = x0 then if off = 0x11000 then 100#64 else 0
  else if port < 16 ∧ tables = true then
    if 0x80000 ≤ off ∧ off < 0x90000 ∧ off % 8 = 0 ∧ off % 0x800 < 1536 then bmapWord (off % 0x800 / 2)
    else if 0xE8000 ≤ off ∧ off < 0xE8040 ∧ off % 8 = 0 then sltabWord (off - 0xE8000)
    else if off = 0xE8040 then 0xFFFFFFFF#64
    else 0
  else 0

/-- The value of a register. -/
def State.reg (s : State) (port off : Nat) : Dword := Tab.get (regDefault s.tables port off) s.regs (regKey port off)

/-- A register takes a value. -/
def State.setReg (s : State) (port off : Nat) (v : Dword) : State :=
  { s with regs := Tab.set (regDefault s.tables port off) s.regs (regKey port off) v }

/-- `v` with bits [hi:lo] replaced. -/
def setField (v : Dword) (hi lo : Nat) (x : Nat) : Dword :=
  let m := BitVec.ofNat 64 ((2 ^ (hi - lo + 1) - 1) * 2 ^ lo)
  (v &&& ~~~m) ||| (BitVec.ofNat 64 (x * 2 ^ lo) &&& m)

/-- Bits [hi:lo]. -/
def field (v : Dword) (hi lo : Nat) : Nat := v.toNat / 2 ^ lo % 2 ^ (hi - lo + 1)

/-! ### The agenda -/

/-- An item falls due at `t`. -/
def State.post (s : State) (t : Nat) (d : Due) : State := { s with agenda := s.agenda ++ [(t, d)] }

/-- An event happens next. -/
def State.soon (s : State) (i : Instr) : State := s.post s.ptime (.event i)

/-- An event happens `dt` ns from now. -/
def State.later (s : State) (dt : Nat) (i : Instr) : State := s.post (s.ptime + dt) (.event i)

/-- Whether an event is already on the agenda. -/
def State.awaits (s : State) (i : Instr) : Bool := s.agenda.any (fun e => e.2 == .event i)

/-- An event happens after `dt` ns, unless it is on the agenda. -/
def State.laterOnce (s : State) (dt : Nat) (i : Instr) : State := if s.awaits i then s else s.later dt i

/-- An event happens now, whatever is on the agenda for later. -/
def State.nowOnce (s : State) (i : Instr) : State :=
  if s.agenda.any (fun e => decide (e.1 ≤ s.ptime) && e.2 == .event i) then s else s.soon i

/-- An event happens next, unless it is on the agenda. -/
def State.soonOnce (s : State) (i : Instr) : State := if s.awaits i then s else s.soon i

/-- A fresh identifier. -/
def State.fresh (s : State) : Nat × State := (s.nextId, { s with nextId := s.nextId + 1 })

/-- The next value of the free counter; each user has the counts up to the next one to itself. -/
def State.tick (s : State) : Nat × State := (s.free, { s with free := s.free + 2 ^ 24 })

/-- The model's free choice among `n` cases: the next pick (DESIGN CHOICE, log entry 5). -/
def State.pick (s : State) (n : Nat) : Nat × State :=
  match s.picks with
  | [] => (0, s)
  | p :: ps => (p % n, { s with picks := ps })

/-- An item that happens without power: power is applied (R442). All others need it (R446). -/
def Due.unpowered : Due → Bool
  | .event (.powerOn _) => true
  | _ => false

/-- Something is raised to the MMP's firmware (R27, R37, R107). -/
def State.raiseMmp (s : State) (n : MmpNote) : State :=
  if s.mmpNotes.contains n then s else { s with mmpNotes := s.mmpNotes ++ [n] }

/-- The firmware takes it. -/
def State.clearMmp (s : State) (n : MmpNote) : State := { s with mmpNotes := s.mmpNotes.erase n }

/-! ### Parts of the state by number -/

/-- A pair of a core (R4). -/
def pairOf (core : Nat) : Nat := core / 2
/-- The compute chiplet of a pair (R4: 32 pairs to a chiplet). -/
def chipOf (pair : Nat) : Nat := pair / 32

/-- The gang id of a key. -/
def State.gid (s : State) (k : Nat) : Gid := Tab.get {} s.gids k
/-- A gang id that is resident changes. -/
def State.updGid (s : State) (k : Nat) (f : Gid → Gid) : State := { s with gids := Tab.change s.gids k f }
/-- The gang id whose gang issues. -/
def State.g (s : State) : Gid := s.gid s.cur
/-- The gang id whose gang issues changes. -/
def State.onGid (s : State) (f : Gid → Gid) : State := s.updGid s.cur f
/-- A team. -/
def State.team (s : State) (k : Nat) : Team := Tab.get {} s.teams k
/-- A team that is resident changes. -/
def State.updTeam (s : State) (k : Nat) (f : Team → Team) : State := { s with teams := Tab.change s.teams k f }
/-- A launch. -/
def State.launch (s : State) (k : Nat) : Launch := Tab.get {} s.launches k
/-- A launch the dispatcher holds changes. -/
def State.updLaunch (s : State) (k : Nat) (f : Launch → Launch) : State :=
  { s with launches := Tab.change s.launches k f }
/-- The registers of a launch on a core. -/
def State.lc (s : State) (core kslot : Nat) : LaunchCore := Tab.get {} s.lcs (2 * core + kslot)
/-- They change. -/
def State.updLc (s : State) (core kslot : Nat) (f : LaunchCore → LaunchCore) : State :=
  { s with lcs := Tab.upd {} s.lcs (2 * core + kslot) f }
/-- A core. -/
def State.core (s : State) (k : Nat) : Core := Tab.get {} s.cores k
/-- A core changes. -/
def State.updCore (s : State) (k : Nat) (f : Core → Core) : State := { s with cores := Tab.upd {} s.cores k f }
/-- A pair. -/
def State.pair (s : State) (k : Nat) : Pair := Tab.get {} s.pairs k
/-- A pair changes. -/
def State.updPair (s : State) (k : Nat) (f : Pair → Pair) : State := { s with pairs := Tab.upd {} s.pairs k f }

/-! ### Threads and gangs -/

/-- Thread of home lane `l`. -/
def Gid.lane (g : Gid) (l : Nat) : Thread := g.lanes.getD l {}

/-- Every thread changes, by home lane. -/
def Gid.mapLanes (g : Gid) (f : Nat → Thread → Thread) : Gid := { g with lanes := g.lanes.mapIdx f }

/-- Lane `l` is active in the gang that issues (R157). -/
def Gid.isActive (g : Gid) (l : Nat) : Bool := g.gang.active.getLsbD l && decide (l < g.lanes.length)

/-- The active lanes, ascending. -/
def Gid.actives (g : Gid) : List Nat := (List.range g.lanes.length).filter g.gang.active.getLsbD

/-- The lowest active home lane (R166). -/
def Gid.elected (g : Gid) : Nat := g.actives.headD 0

/-- Every thread of the issuing gang changes. -/
def Gid.mapActive (g : Gid) (f : Nat → Thread → Thread) : Gid :=
  g.mapLanes (fun l t => if g.gang.active.getLsbD l then f l t else t)

/-- The instruction at the head of the clause has issued: the next follows (R205). -/
def Gid.advance (g : Gid) : Gid :=
  { g with
    gang := { g.gang with
      buf := g.gang.buf.tail, off := g.gang.off + 1, stage := 0, pend := [], done := 0, noWatch := false } }

/-- The address of the instruction that issues. -/
def Gid.here (g : Gid) : Dword := match g.gang.buf with
  | [] => g.gang.next
  | sl :: _ => sl.addr

/-- A set of lanes as a mask. -/
def maskOf (ls : List Nat) : BitVec 64 := BitVec.ofNat 64 (ls.foldl (fun a l => a ||| 2 ^ l) 0)

/-- Threads are filed, each at its own PC (R161, R162). -/
def Gid.fileLanes (g : Gid) (now : Nat) (pc : Nat → Option Dword) : Gid :=
  g.mapLanes (fun l t => match pc l with
    | some p => { t with pc := p, st := .filed, filedAt := now, await := none }
    | none => t)

/-- The issuing gang ends: it gives its context back (R368). -/
def Gid.endGang (g : Gid) : Gid := { g with gang := {} }

/-- Every active lane is filed at its PC and the gang ends (R161). -/
def Gid.fileActive (g : Gid) (now : Nat) (pc : Nat → Dword) : Gid :=
  (g.fileLanes now (fun l => if g.isActive l then some (pc l) else none)).endGang

/-- The gang goes on at a clause header (R205): its clause has ended. -/
def Gid.continueAt (g : Gid) (now : Nat) (pc : Dword) : Gid :=
  { g.mapActive (fun _ t => { t with pc := pc }) with
    gang := { g.gang with
      hdr := pc, buf := [], off := 0, running := false, stage := 0, pend := [], done := 0, since := now, noWatch := false } }

/-! ### Taking a cause (14) -/

/-- Priority of a cause: 1 is the highest (Table 2 of R370). -/
def priority (c : BitVec 8) : Nat :=
  match c.toNat with
  | 0x1A => 1 | 0x19 => 2 | 0x18 => 3 | 0x14 => 4 | 0x13 => 5 | 0x10 => 6 | 0x11 => 7 | 0x09 => 8 | 0x0A => 9
  | 0x07 => 10 | 0x08 => 11 | 0x05 => 13 | 0x06 => 14 | 0x04 => 15 | 0x03 => 16 | 0x02 => 17 | 0x01 => 18
  | _ => 19

/-- What a cause ends (Table 2 of R370). -/
inductive Ends where
  | handler | team | launch | poison
  deriving DecidableEq, Repr

/-- The outcome column of Table 2 of R370. -/
def outcome (c : BitVec 8) : Ends :=
  match c.toNat with
  | 0x1A | 0x19 | 0x18 => .launch
  | 0x14 => .poison
  | 0x13 | 0x10 | 0x11 | 0x12 => .team
  | _ => .handler

/-- The higher of two causes; the first where they are equal (R371). -/
def worse (a b : Stop) : Stop := if priority b.cause < priority a.cause then b else a

/-- The highest of several causes, if any (R371). Among equal ones the lowest lane comes first. -/
def worst : List Stop → Option Stop
  | [] => none
  | a :: l => some (l.foldl worse a)

/-- INH of GCAUSE: a handler runs (R369) (DEDUCED, log entry 42). -/
def Gid.inHandler (g : Gid) : Bool := g.gcause.getLsbD 15

/-- The outcome of a stop in force: a handler cause inside a handler is the nested trap (R375), and one without a
handler ends the team (R370). -/
def State.resolve (s : State) (k : Nat) (st : Stop) : Stop × Ends :=
  let g := s.gid k
  match outcome st.cause with
  | .handler =>
    if g.inHandler then ({ st with cause := 0x12 }, .team)
    else if (s.lc g.core g.kslot).tvec.getLsbD 0 then (st, .handler)
    else (st, .team)
  | e => (st, e)

/-- The gang of gang id `k` that issues stops with a cause (R210, R373 step 1): it keeps its clause and offset, no
group of its gang id is drawn, and what the cause ends follows once the drains are complete. The first cause that ends a team or a
launch stands for it (R391). -/
def State.stopGang (s : State) (k : Nat) (st : Stop) : State :=
  let (st', e) := s.resolve k st
  let s := s.updGid k (fun g =>
    { g with frozen := true
             held := g.held ++ [{ g.gang with stop := some st' }]
             gang := {} })
  let g := s.gid k
  let s := match e with
    | .handler => s
    | _ => s.updTeam g.team (fun t => match t.ending with
      | some _ => t
      | none => { t with ending := some st', endGang := g.gid })
  match e with
  | .handler => s.soonOnce (.handlerEntry k)
  | .launch =>
    (s.updLaunch g.launch (fun l => match l.endBy with
      | some _ => l
      | none => { l with endBy := some (st'.cause, g.gid, g.teamId, st'.pc) })).soonOnce (.launchEnd g.launch)
  | .poison =>
    let t := s.team g.team
    if t.rst && decide (t.run < 2) then s.soonOnce (.teamRelaunch g.team) else s.soonOnce (.teamEnd g.team)
  | .team => s.soonOnce (.teamEnd g.team)

/-- A cause taken exactly at the instruction (R210): nothing of it has effect (DEDUCED, log entry 29). -/
def State.raiseExact (s : State) (c : BitVec 8) (lane : Nat) (addrs : List (Nat × Dword) := []) : State :=
  s.stopGang s.cur { cause := c, lane := lane, ofsv := true, addrs := addrs, pc := s.g.gang.hdr }

/-- A cause taken at the header (R207). -/
def State.raiseHeader (s : State) (k : Nat) (c : BitVec 8) (lane : Nat := 0) : State :=
  s.stopGang k { cause := c, lane := lane, pc := (s.gid k).gang.hdr }

/-- A cause taken after an instruction of R206: the saved PC is the next clause header. -/
def State.raiseAfter (s : State) (c : BitVec 8) (lane : Nat) (code : BitVec 16 := 0) : State :=
  let s := s.onGid (fun g => g.continueAt s.ptime g.gang.next)
  s.stopGang s.cur { cause := c, lane := lane, code := code, pc := s.g.gang.hdr }

/-! ### Handler entry and `eret` (R373, R376) -/

/-- GCAUSE at handler entry (Table 1 of R369). -/
def gcauseOf (st : Stop) (off : Nat) (resume : Bool) : Dword :=
  let v := BitVec.ofNat 64 (st.cause.toNat + (if st.ofsv then off * 2 ^ 8 + 2 ^ 14 else 0) + 2 ^ 15
    + (if resume then 2 ^ 16 else 0) + st.lane * 2 ^ 32)
  v ||| (st.code.zeroExtend 64 <<< 48)

/-- HPC of TVEC as an address (Table 3 of R372). -/
def hpcOf (tvec : Dword) : Dword := tvec &&& 0x01FF_FFFF_FFFF_FFFC#64

/-- Steps 4 and 5 of R373: the saved registers are written, taint is cleared and the threads of the stopped gang
start the handler's clause as one gang. `epc l` is the PC each thread saves. -/
def Gid.enter (g : Gid) (gg : Gang) (st : Stop) (rpc : Dword) (epc : Nat → Dword) (hpc : Dword) (resume : Bool)
    (now uid : Nat) : Gid :=
  let g1 := g.mapLanes (fun l t =>
    if gg.active.getLsbD l then
      { t with epc := epc l, ewb := BitVec.ofNat 64 t.wbase, eaddr := Tab.get 0 st.addrs l, ew := t.w,
               taint := [], st := .issuing, wasWaiting := t.st == .waiting, pc := hpc }
    else t)
  { g1 with gcause := gcauseOf st gg.off resume, rpc := rpc, eact := gg.active, ytaint := [], frozen := true,
            gang := { uid := uid, active := gg.active, hdr := hpc, since := now } }

/-- Writes of TSHAPE that gang `a` of a gang id made in its clause count as gang `b`'s from now on (R290). -/
def State.passShapes (s : State) (k a b : Nat) : State :=
  s.updCore (s.gid k).core (fun c => { c with mat := { c.mat with
    tspend := c.mat.tspend.map (fun w => if w.1 = k ∧ w.2.1 = a then (k, b, w.2.2) else w) } })

/-- A gang whose cause has the outcome "handler" enters its handler, once drained (R373): the handler's clause starts
`dt` ns from now. -/
def State.enterHandler (s : State) (k dt : Nat) : State :=
  match (s.gid k).held with
  | [] => s
  | gg :: rest =>
    let st := gg.stop.getD { cause := 0 }
    let (uid, s) := s.fresh
    let tvec := (s.lc (s.gid k).core (s.gid k).kslot).tvec
    let s := if st.ofsv then s.passShapes k gg.uid 0 else s
    (s.updGid k (fun g => { g with held := rest }.enter gg st st.pc (fun _ => st.pc) (hpcOf tvec) false (s.ptime + dt) uid)).later
      dt (.clauseStart (s.gid k).core)

/-- Whether `eret` keeps lane `l` in the gang (R167, R376 step 2). -/
def Gid.eretKeeps (g : Gid) (l : Nat) : Bool :=
  g.gang.active.getLsbD l && g.eact.getLsbD l && decide ((g.lane l).epc = g.rpc)

/-- The return from a handler on the gang id (R376 steps 1 to 3), the held gangs apart: WBASE from EWB; kept threads go
on at RPC, mid-clause where OFSV = 1; the others are filed at EPC. -/
def Gid.eret (g : Gid) (now : Nat) : Gid :=
  let keep := g.actives.filter g.eretKeeps
  let ofsv := g.gcause.getLsbD 14
  let off := field g.gcause 12 8
  let watch := decide (field g.gcause 7 0 = 5)
  let g1 := g.mapActive (fun l t =>
    let t := { t with wbase := t.ewb.toNat, w := if ofsv then t.ew else t.w }
    if g.eretKeeps l then { t with pc := g.rpc, st := .issuing }
    else { t with pc := t.epc, st := .filed, filedAt := now })
  { g1 with
    gcause := 0
    frozen := decide (g.held ≠ [])
    gang := if keep = [] then {} else
      { uid := g.gang.uid, active := maskOf keep, hdr := g.rpc, off := if ofsv then off else 0, since := now,
        noWatch := watch, stage := if ofsv then 1 else 0 } }

end Sys2Proof.Machine
end

