-- ==== Sys2Proof/Machine/Operands.lean ====
section
/-!
DEFINITION. Operands: reading and writing the registers a field names, at 32, 64 and 128 bits (06 R166, R170, R171,
09 R225, R226), and the taint of registers (05 R145).
-/

namespace Sys2Proof.Machine

/-- x[k] of a thread; where eviction has left it undefined, a free value (R363) (DESIGN CHOICE, log entry 85). -/
def Thread.xreg (t : Thread) (k : Nat) : Word :=
  Tab.get (match t.xFree with | none => 0 | some c => Config.freeWord (c + k)) t.x k

/-- The lane id special, halved in protected mode (R388). -/
def Gid.laneId (g : Gid) (l : Nat) : Nat := if g.prot then l / 2 else l

/-- The specials 116 to 125 (Table 4 of R170). -/
def Gid.special (g : Gid) (l : Nat) (n : Nat) : Word :=
  let half (x : Nat) := if g.prot then x / 2 else x
  BitVec.ofNat 32 (match n with
    | 117 => g.laneId l
    | 118 => g.gid
    | 119 => g.teamId
    | 120 => half g.width
    | 121 => g.core % 2
    | 122 => g.gid * half g.width + g.laneId l
    | 123 => half g.threads
    | 124 => g.core
    | 125 => g.kslot
    | _ => 0)

/-- The 32-bit operand of field `v` in lane `l`, with the instruction's literal (R170). -/
def Gid.word (g : Gid) (l : Nat) (v : BitVec 7) (lit : Word) : Word :=
  let n := v.toNat
  if n < 96 then (g.lane l).xreg ((g.lane l).wbase + n)
  else if n < 112 then Tab.get 0 g.y (n - 96)
  else if n < 116 then Tab.get 0 (g.lane l).w (n - 112)
  else if n = 127 then lit
  else g.special l n

/-- The 64-bit operand: a register pair, low word first, or a special or literal extended (R170, R225). -/
def Gid.dword (g : Gid) (l : Nat) (v : BitVec 7) (lit : Word) (signed : Bool := false) : Dword :=
  if v.toNat < 116 then g.word l (v + 1) lit ++ g.word l v lit
  else if signed then (g.word l v lit).signExtend 64
  else (g.word l v lit).zeroExtend 64

/-- The words of an operand of `n` registers, lowest first (R225) (DEDUCED, log entry 10). -/
def Gid.words (g : Gid) (l : Nat) (v : BitVec 7) (lit : Word) (n : Nat) : List Word :=
  if v.toNat < 116 then (List.range n).map (fun i => g.word l (v + BitVec.ofNat 7 i) lit)
  else g.word l v lit :: List.replicate (n - 1) 0

/-- The taint of the operand's registers (R145): literals and specials are never tainted. -/
def Gid.taintOf (g : Gid) (l : Nat) (v : BitVec 7) (n : Nat) : Bool :=
  let k := v.toNat
  (List.range n).any (fun i =>
    if k < 96 then Tab.get false (g.lane l).taint ((g.lane l).wbase + k + i)
    else if k < 112 then Tab.get false g.ytaint (k - 96 + i)
    else if k < 116 then Tab.get false (g.lane l).taint (256 + k - 112 + i)
    else false)

/-- Consecutive entries of a table from `k`. -/
def putFrom {α : Type} (t : Tab α) (k : Nat) : List α → Tab α
  | [] => t
  | v :: vs => putFrom (Tab.ins t k v) (k + 1) vs

/-- The thread with `vs` in the registers from field `n`, x or w, and their taint. -/
def Thread.put (t : Thread) (n : Nat) (vs : List Word) (taint : Bool) : Thread :=
  let tt := List.replicate vs.length taint
  if n < 96 then { t with x := putFrom t.x (t.wbase + n) vs, taint := putFrom t.taint (t.wbase + n) tt }
  else { t with w := putFrom t.w (n - 112) vs, taint := putFrom t.taint (256 + n - 112) tt }

/-- The destination `d` takes `vs l` in each active lane that `on` names; a y destination takes the value of the lowest
of them (R166); the zero operand discards it (R170, R226). -/
def Gid.putOn (g : Gid) (on : Nat → Bool) (d : BitVec 7) (vs : Nat → List Word) (taint : Nat → Bool) : Gid :=
  let n := d.toNat
  if n < 96 ∨ (112 ≤ n ∧ n < 116) then
    g.mapActive (fun l t => if on l then t.put n (vs l) (taint l) else t)
  else if n < 112 then
    match g.actives.filter on with
    | [] => g
    | l :: _ => { g with y := putFrom g.y (n - 96) (vs l),
                         ytaint := putFrom g.ytaint (n - 96) (List.replicate (vs l).length (taint l)) }
  else g

/-- Every active lane writes its words to `d`. -/
def Gid.putAll (g : Gid) (d : BitVec 7) (vs : Nat → List Word) (taint : Nat → Bool := fun _ => false) : Gid :=
  g.putOn (fun _ => true) d vs taint

/-- A 64-bit value as two words, lowest first (R225). -/
def splitD (v : Dword) : List Word := [v.extractLsb' 0 32, v.extractLsb' 32 32]

/-- A value as `n` words, lowest first. -/
def splitN (n : Nat) (v : Nat) : List Word := (List.range n).map (fun i => BitVec.ofNat 32 (v / 2 ^ (32 * i)))

/-- Words as one number, lowest first. -/
def joinW : List Word → Nat
  | [] => 0
  | w :: ws => w.toNat + 2 ^ 32 * joinW ws

/-- 1 or 2 registers: width 32 or 64 (R236). -/
def nregs (w : BitVec 1) : Nat := if w = 0 then 1 else 2

/-! ### Mask registers (R242) -/

/-- Bit of m`k` in lane `l`. -/
def Gid.mbit (g : Gid) (l : Nat) (k : Nat) : Bool := (g.lane l).m.getLsbD k

/-- `m` with bit `k` replaced. -/
def setBit8 (m : BitVec 8) (k : Nat) (b : Bool) : BitVec 8 :=
  (m &&& ~~~(1#8 <<< k)) ||| ((BitVec.ofBool b).zeroExtend 8 <<< k)

/-- Mask register `d` takes a bit in each active lane. -/
def Gid.putMask (g : Gid) (d : BitVec 7) (b : Nat → Bool) : Gid :=
  g.mapActive (fun l t => { t with m := setBit8 t.m d.toNat (b l) })

end Sys2Proof.Machine
end

