-- ==== Sys2Proof/Machine/Flags.lean ====
section
/-!
DEFINITION. The flags (07 R196): their bits, how an instruction raises them in GSTICKY, and their place in an AMOR message.
-/

namespace Sys2Proof.Machine

/-- The flag bits of GSTICKY (Table 8 of R196): NV, DZ, OF, UF, NX and SAT. -/
def flNV : Nat := 1
def flDZ : Nat := 2
def flOF : Nat := 4
def flUF : Nat := 8
def flNX : Nat := 16
def flSAT : Nat := 32

/-- NV where `b`. -/
def nvIf (b : Bool) : Nat := if b then flNV else 0

/-- The flags of the active lanes together. -/
def Gid.orFlags (g : Gid) (r : Nat → Nat) : Nat := g.actives.foldl (fun a l => a ||| r l) 0

/-- GSTICKY gains flags (R196). -/
def Gid.stick (g : Gid) (fl : Nat) : Gid := { g with sticky := g.sticky ||| BitVec.ofNat 64 fl }

/-- The AUX flags of an AMOR: invalid, overflow, underflow, inexact (Table 5 of R108). -/
def auxOfFlags (fl : Nat) : BitVec 4 :=
  BitVec.ofNat 4 (fl % 2 + fl / 4 % 2 * 2 + fl / 8 % 2 * 4 + fl / 16 % 2 * 8)

/-- The GSTICKY flags of an AMOR's AUX (R260). -/
def flagsOfAux (a : BitVec 4) : Nat :=
  (a.getLsbD 0).toNat * 1 + (a.getLsbD 1).toNat * 4 + (a.getLsbD 2).toNat * 8 + (a.getLsbD 3).toNat * 16

end Sys2Proof.Machine
end

