-- ==== Sys2Proof/Machine/Numbers.lean ====
section
/-!
DEFINITION. Number formats (07): exact values, rounding to the IEEE formats, arithmetic, conversions, the MX and YB
block formats, stochastic rounding and the special functions. A result is its bits with the flags it raises: bit 0 NV,
1 DZ, 2 OF, 3 UF, 4 NX, 5 SAT (Table 8 of R196).
-/

namespace Sys2Proof.Machine

/-- An exact value: (−1)^neg × m × 2^e, an infinity, or a NaN (R175). -/
inductive Num where
  | fin (neg : Bool) (m : Nat) (e : Int)
  | inf (neg : Bool)
  | nan (signalling : Bool)
  deriving DecidableEq, Repr, Inhabited

/-- An IEEE format: widths of its exponent and fraction fields (Table 1 of R175). -/
structure Fmt where
  eb : Nat
  fb : Nat
  deriving DecidableEq, Repr, Inhabited

def f64 : Fmt := ⟨11, 52⟩
def f32 : Fmt := ⟨8, 23⟩
def f16 : Fmt := ⟨5, 10⟩
def bf16 : Fmt := ⟨8, 7⟩

/-- The format of type code 0 to 3 (Table 9 of R220). -/
def fmtOf (t : Nat) : Fmt := match t with
  | 0 => f64
  | 1 => f32
  | 2 => f16
  | _ => bf16

def Fmt.bias (f : Fmt) : Nat := 2 ^ (f.eb - 1) - 1
def Fmt.bits (f : Fmt) : Nat := 1 + f.eb + f.fb
/-- The bits of +∞. -/
def Fmt.infBits (f : Fmt) : Nat := (2 ^ f.eb - 1) * 2 ^ f.fb
/-- The default NaN (Table 1 of R175). -/
def Fmt.nanBits (f : Fmt) : Nat := f.infBits + 2 ^ (f.fb - 1)
def Fmt.signBit (f : Fmt) : Nat := 2 ^ (f.eb + f.fb)

/-- A result and the flags it raises. -/
structure Rslt where
  bits : Nat
  flags : Nat := 0
  deriving DecidableEq, Repr, Inhabited

/-- The exact value of an encoding (R175). -/
def Fmt.decode (f : Fmt) (x : Nat) : Num :=
  let neg := x / f.signBit % 2 == 1
  let e := x / 2 ^ f.fb % 2 ^ f.eb
  let m := x % 2 ^ f.fb
  if e = 2 ^ f.eb - 1 then
    if m = 0 then .inf neg else .nan (m / 2 ^ (f.fb - 1) % 2 == 0)
  else if e = 0 then .fin neg m (1 - f.bias - f.fb)
  else .fin neg (2 ^ f.fb + m) ((e : Int) - f.bias - f.fb)

/-- The quotient of `m` by 2^k and whether it is to be rounded up under `rm` (Table 2 of R177). -/
def roundShift (rm : Nat) (neg : Bool) (m k : Nat) : Nat × Bool :=
  let q := m / 2 ^ k
  let r := m % 2 ^ k
  let up := match rm with
    | 0 => decide (2 ^ k < 2 * r) || (decide (2 * r = 2 ^ k) && q % 2 == 1)
    | 1 => false
    | 2 => neg && decide (r ≠ 0)
    | _ => !neg && decide (r ≠ 0)
  (if up && decide (k ≠ 0) then q + 1 else q, decide (r ≠ 0))

/-- A magnitude m × 2^e rounded to a code of `fb` fraction bits whose smallest step is 2^qmin: codes rise with the
magnitude, as IEEE encodings do. Answers the code and whether it is inexact. -/
def roundCode (fb : Nat) (qmin : Int) (rm : Nat) (neg : Bool) (m : Nat) (e : Int) : Nat × Bool :=
  if m = 0 then (0, false) else
    let q := max ((Nat.log2 m : Int) + e - fb) qmin
    let (mant, nx) := if q ≤ e then (m * 2 ^ (e - q).toNat, false) else roundShift rm neg m (q - e).toNat
    (((q - qmin) * 2 ^ fb).toNat + mant, nx)

/-- The lowest step of a format. -/
def Fmt.qmin (f : Fmt) : Int := 1 - f.bias - f.fb

/-- Whether a non-zero magnitude is tiny after rounding (R176). -/
def Fmt.tiny (f : Fmt) (rm : Nat) (neg : Bool) (m : Nat) (e : Int) : Bool :=
  let x := (Nat.log2 m : Int) + e
  let emin : Int := 1 - f.bias
  if emin ≤ x then false
  else if x < emin - 1 then true
  else
    let q := x - f.fb
    let mant := if q ≤ e then m * 2 ^ (e - q).toNat else (roundShift rm neg m (q - e).toNat).1
    decide (mant < 2 ^ (f.fb + 1))

/-- `round_ieee` of a finite value (R176, R177). -/
def Fmt.roundFin (f : Fmt) (rm : Nat) (neg : Bool) (m : Nat) (e : Int) : Rslt :=
  let sg := if neg then f.signBit else 0
  let (c, nx) := roundCode f.fb f.qmin rm neg m e
  if f.infBits ≤ c then
    let toInf := match rm with
      | 0 => true
      | 1 => false
      | 2 => neg
      | _ => !neg
    ⟨sg + (if toInf then f.infBits else f.infBits - 1), flOF + flNX⟩
  else ⟨sg + c, if nx then flNX + (if f.tiny rm neg m e then flUF else 0) else 0⟩

/-- `round_ieee`; a signalling NaN raises NV (R176). -/
def Fmt.round (f : Fmt) (rm : Nat) (v : Num) : Rslt :=
  match v with
  | .fin n m e => f.roundFin rm n m e
  | .inf n => ⟨(if n then f.signBit else 0) + f.infBits, 0⟩
  | .nan s => ⟨f.nanBits, if s then flNV else 0⟩

/-! ### Exact arithmetic -/

def Num.isNan : Num → Bool
  | .nan _ => true
  | _ => false
def Num.isSnan : Num → Bool
  | .nan s => s
  | _ => false
def Num.neg : Num → Num
  | .fin n m e => .fin (!n) m e
  | .inf n => .inf (!n)
  | .nan s => .nan s
def Num.isNeg : Num → Bool
  | .fin n _ _ => n
  | .inf n => n
  | .nan _ => false

/-- The signed integer of a finite value in units of 2^u, u ≤ e. -/
def scaled (neg : Bool) (m : Nat) (e u : Int) : Int :=
  let k : Int := (m * 2 ^ (e - u).toNat : Nat)
  if neg then -k else k

/-- The exact sum of finite values; `rm` fixes the sign of an exact zero (R176). -/
def addFin (rm : Nat) (n1 : Bool) (m1 : Nat) (e1 : Int) (n2 : Bool) (m2 : Nat) (e2 : Int) : Num :=
  let u := min e1 e2
  let t := scaled n1 m1 e1 u + scaled n2 m2 e2 u
  if t = 0 then
    .fin (if m1 = 0 ∧ m2 = 0 ∧ n1 = n2 then n1 else rm == 2) 0 u
  else .fin (decide (t < 0)) t.natAbs u

/-- The sum, and whether it is invalid (∞ − ∞). -/
def addNum (rm : Nat) (a b : Num) : Num × Bool :=
  match a, b with
  | .nan _, _ => (.nan false, false)
  | _, .nan _ => (.nan false, false)
  | .inf n, .inf n' => if n = n' then (.inf n, false) else (.nan false, true)
  | .inf n, _ => (.inf n, false)
  | _, .inf n => (.inf n, false)
  | .fin n1 m1 e1, .fin n2 m2 e2 => (addFin rm n1 m1 e1 n2 m2 e2, false)

/-- The product, and whether it is invalid (0 × ∞). -/
def mulNum (a b : Num) : Num × Bool :=
  match a, b with
  | .nan _, _ => (.nan false, false)
  | _, .nan _ => (.nan false, false)
  | .inf n, .inf n' => (.inf (n != n'), false)
  | .inf n, .fin n' m _ => if m = 0 then (.nan false, true) else (.inf (n != n'), false)
  | .fin n m _, .inf n' => if m = 0 then (.nan false, true) else (.inf (n != n'), false)
  | .fin n1 m1 e1, .fin n2 m2 e2 => (.fin (n1 != n2) (m1 * m2) (e1 + e2), false)


/-- A result with further flags. -/
def Rslt.with_ (r : Rslt) (fl : Nat) : Rslt := ⟨r.bits, r.flags ||| fl⟩

/-- `fadd` (R268). -/
def Fmt.add (f : Fmt) (rm : Nat) (x y : Nat) : Rslt :=
  let a := f.decode x
  let b := f.decode y
  let (v, bad) := addNum rm a b
  (f.round rm v).with_ (nvIf (bad || a.isSnan || b.isSnan))

/-- `fsub` (R268). -/
def Fmt.sub (f : Fmt) (rm : Nat) (x y : Nat) : Rslt :=
  let a := f.decode x
  let b := f.decode y
  let (v, bad) := addNum rm a b.neg
  (f.round rm v).with_ (nvIf (bad || a.isSnan || b.isSnan))

/-- `fmul` (R268). -/
def Fmt.mul (f : Fmt) (rm : Nat) (x y : Nat) : Rslt :=
  let a := f.decode x
  let b := f.decode y
  let (v, bad) := mulNum a b
  (f.round rm v).with_ (nvIf (bad || a.isSnan || b.isSnan))

/-- `ieee_fma` (R192, R198) (DEDUCED, log entry 19). -/
def Fmt.fma (f : Fmt) (rm : Nat) (x y z : Nat) : Rslt :=
  let a := f.decode x
  let b := f.decode y
  let c := f.decode z
  let (p, bad1) := mulNum a b
  let (v, bad2) := addNum rm p c
  (f.round rm v).with_ (nvIf (bad1 || (!bad1 && bad2) || a.isSnan || b.isSnan || c.isSnan))

/-- Whether `a` lies below `b`, −0 below +0 (R268); NaN is below nothing. -/
def numLt (a b : Num) : Bool :=
  match a, b with
  | .nan _, _ => false
  | _, .nan _ => false
  | .inf n, .inf n' => n && !n'
  | .inf n, _ => n
  | _, .inf n' => !n'
  | .fin n1 m1 e1, .fin n2 m2 e2 =>
    let u := min e1 e2
    let x := scaled n1 m1 e1 u
    let y := scaled n2 m2 e2 u
    decide (x < y) || (decide (x = 0 ∧ y = 0) && n1 && !n2)

/-- Equal as numbers, −0 and +0 too (R271). -/
def numEq (a b : Num) : Bool :=
  match a, b with
  | .inf n, .inf n' => n == n'
  | .fin n1 m1 e1, .fin n2 m2 e2 =>
    let u := min e1 e2
    decide (scaled n1 m1 e1 u = scaled n2 m2 e2 u)
  | _, _ => false

/-- `fmin` and `fmax` (R268). -/
def Fmt.minmax (f : Fmt) (wantMax : Bool) (x y : Nat) : Rslt :=
  let a := f.decode x
  let b := f.decode y
  let fl := nvIf (a.isSnan || b.isSnan)
  if a.isNan && b.isNan then ⟨f.nanBits, fl⟩
  else if a.isNan then ⟨y, fl⟩
  else if b.isNan then ⟨x, fl⟩
  else ⟨if numLt a b == wantMax then y else x, fl⟩

/-- `fclass` (Table 2 of R269). -/
def Fmt.classOf (f : Fmt) (x : Nat) : Nat :=
  match f.decode x with
  | .inf true => 2 ^ 0
  | .inf false => 2 ^ 7
  | .nan true => 2 ^ 8
  | .nan false => 2 ^ 9
  | .fin n m _ =>
    if m = 0 then (if n then 2 ^ 3 else 2 ^ 4)
    else if x / 2 ^ f.fb % 2 ^ f.eb = 0 then (if n then 2 ^ 2 else 2 ^ 5)
    else (if n then 2 ^ 1 else 2 ^ 6)

/-- `frnd` (R268): an integral value, never NX. -/
def Fmt.rnd (f : Fmt) (rm : Nat) (x : Nat) : Rslt :=
  match f.decode x with
  | .fin n m e =>
    if 0 ≤ e then ⟨x, 0⟩
    else ⟨(f.roundFin 1 n (roundShift rm n m (-e).toNat).1 0).bits, 0⟩
  | v => f.round rm v

/-- `fscale` (R268). -/
def Fmt.scale (f : Fmt) (rm : Nat) (x : Nat) (k : Int) : Rslt :=
  match f.decode x with
  | .fin n m e => f.roundFin rm n m (e + k)
  | v => f.round rm v

/-- The integer square root. -/
def isqrt (n : Nat) : Nat := Nat.sqrt n

/-- `sqrt` (R268, R195). -/
def Fmt.sqrt (f : Fmt) (rm : Nat) (x : Nat) : Rslt :=
  match f.decode x with
  | .nan s => ⟨f.nanBits, nvIf s⟩
  | .inf true => ⟨f.nanBits, flNV⟩
  | .inf false => ⟨f.infBits, 0⟩
  | .fin n m e =>
    if m = 0 then ⟨x, 0⟩
    else if n then ⟨f.nanBits, flNV⟩
    else
      let k := 2 * f.fb + 8 + (e % 2).toNat
      let w := m * 2 ^ k
      let r := isqrt w
      let sticky := if r * r = w then 0 else 1
      f.roundFin rm false (2 * r + sticky) ((e - k) / 2 - 1)

/-- The condition of `fcmp` and its flags (Table 10 of R220, R271). -/
def Fmt.cmp (f : Fmt) (c : Nat) (x y : Nat) : Bool × Nat :=
  let a := f.decode x
  let b := f.decode y
  let un := a.isNan || b.isNan
  let eq := numEq a b
  let lt := numLt a b && !eq
  let gt := numLt b a && !eq
  let sn := nvIf (a.isSnan || b.isSnan)
  match c with
  | 0 => (eq, sn)
  | 1 => (!eq, sn)
  | 2 => (lt, nvIf un)
  | 3 => (lt || eq, nvIf un)
  | 4 => (gt, nvIf un)
  | 5 => (gt || eq, nvIf un)
  | 6 => (un, sn)
  | _ => (!un, sn)

/-! ### Integer types and conversions (R178, R179, R276) -/

/-- Width and signedness of an integer type code 16 to 23 (Table 9 of R220). -/
def intWidth (c : Nat) : Nat := 8 * 2 ^ (c % 4)
def intSigned (c : Nat) : Bool := c < 20
def intMin (c : Nat) : Int := if intSigned c then -(2 ^ (intWidth c - 1)) else 0
def intMax (c : Nat) : Int := if intSigned c then 2 ^ (intWidth c - 1) - 1 else 2 ^ intWidth c - 1

/-- The number an integer operand holds in its low bits. -/
def intRead (c : Nat) (x : Nat) : Int :=
  let n := intWidth c
  let v := x % 2 ^ n
  if intSigned c ∧ 2 ^ (n - 1) ≤ v then (v : Int) - 2 ^ n else v

/-- The bits an integer is written with: extended to 32 bits, by sign for s types (R266). -/
def intWrite (c : Nat) (q : Int) : Nat := (q % 2 ^ (max 32 (intWidth c))).toNat

/-- Saturation to a type's range. -/
def intClamp (c : Nat) (q : Int) : Int × Bool :=
  if q < intMin c then (intMin c, true) else if intMax c < q then (intMax c, true) else (q, false)

/-- `cvt_f2i` (R179). -/
def cvtF2I (v : Num) (c rm : Nat) : Rslt :=
  match v with
  | .nan _ => ⟨0, flNV + flSAT⟩
  | .inf n => ⟨intWrite c (if n then intMin c else intMax c), flNV + flSAT⟩
  | .fin n m e =>
    let (q, nx) := if 0 ≤ e then (m * 2 ^ e.toNat, false) else roundShift rm n m (-e).toNat
    let (k, sat) := intClamp c (if n then -(q : Int) else q)
    ⟨intWrite c k, if sat then flNV + flSAT else if nx then flNX else 0⟩

/-- `cvt_i2f` (R179). -/
def cvtI2F (c : Nat) (x : Nat) (f : Fmt) (rm : Nat) : Rslt :=
  let v := intRead c x
  f.roundFin rm (decide (v < 0)) v.natAbs 0

/-- Between integer types (R276). -/
def cvtI2I (cs cd : Nat) (x : Nat) : Rslt :=
  let (k, sat) := intClamp cd (intRead cs x)
  ⟨intWrite cd k, if sat then flSAT else 0⟩

/-! ### Block formats (R180 to R185) -/

/-- An element format of type code 4 to 6: exponent bits, fraction bits, bias, largest code, emax (Table 3). -/
structure Elem where
  eb : Nat
  fb : Nat
  bias : Nat
  top : Nat
  emax : Int
  deriving DecidableEq, Repr, Inhabited

/-- e4m3, e5m2, e2m1 (Table 3 of R180). -/
def elemOf (c : Nat) : Elem := match c with
  | 4 => ⟨4, 3, 7, 0x7E, 8⟩
  | 5 => ⟨5, 2, 15, 0x7B, 15⟩
  | _ => ⟨2, 1, 1, 0x7, 2⟩

def Elem.qmin (f : Elem) : Int := 1 - f.bias - f.fb

/-- The value of an element code, its sign apart (R180). -/
def Elem.mag (f : Elem) (c : Nat) : Nat × Int :=
  let e := c / 2 ^ f.fb
  let m := c % 2 ^ f.fb
  if e = 0 then (m, f.qmin) else (2 ^ f.fb + m, (e : Int) - f.bias - f.fb)

/-- `mx_decode` of one element under a scale byte (R180, R182). -/
def mxDecode (c : Nat) (scale elem : Nat) : Num :=
  let f := elemOf c
  let w := 1 + f.eb + f.fb
  let neg := elem / 2 ^ (w - 1) % 2 == 1
  let mag := elem % 2 ^ (w - 1)
  if scale = 0xFF then .nan false
  else if c = 4 ∧ mag = 0x7F then .nan false
  else if c = 5 ∧ mag = 0x7C then .inf neg
  else if c = 5 ∧ 0x7D ≤ mag then .nan false
  else let (m, e) := f.mag mag; .fin neg m (e + scale - 127)

/-- m of a YB code 7 to 9 (Table 4 of R183). -/
def ybM (c : Nat) : Nat := match c with
  | 7 => 2
  | 8 => 4
  | _ => 7

/-- `yb_decode` of one element (R184). -/
def ybDecode (c : Nat) (e mu elem : Nat) : Num :=
  let m := ybM c
  if e = 0xFF then .nan false
  else
    let mag := elem % 2 ^ m
    .fin (decide (mag ≠ 0) && elem / 2 ^ m % 2 == 1) mag ((e : Int) - 127 - mu - (m - 1))

/-- Elements in a block of type code 4 to 9 (R277). -/
def blockLen (c : Nat) : Nat := if c ≤ 6 then 32 else 16

/-- The larger magnitude of a list, as (m, e), or infinity. -/
def maxMag (vs : List Num) : Num :=
  vs.foldl (fun a v =>
    let v' : Num := match v with
      | .fin _ m e => .fin false m e
      | .inf _ => .inf false
      | x => x
    if numLt a v' then v' else a) (.fin false 0 0)

/-- floor(log2) of a non-zero finite magnitude. -/
def floorLog (m : Nat) (e : Int) : Int := (Nat.log2 m : Int) + e

/-- Clamp an integer. -/
def clampI (x lo hi : Int) : Int := if x < lo then lo else if hi < x then hi else x

/-- The scale byte of an MX block (R182): 0xFF where an element is NaN. -/
def mxScale (c : Nat) (vs : List Num) : Nat :=
  if vs.any Num.isNan then 0xFF
  else match maxMag vs with
    | .fin _ m e => if m = 0 then 0 else (clampI (floorLog m e - (elemOf c).emax) (-127) 127 + 127).toNat
    | _ => 254

/-- The code of one element of an MX block, sign included, with its flags (R182). -/
def mxElem (c scale : Nat) (v : Num) : Rslt :=
  let f := elemOf c
  let sg := 2 ^ (f.eb + f.fb)
  if scale = 0xFF then ⟨0, 0⟩
  else match v with
    | .fin n m e =>
      let (q, nx) := roundCode f.fb f.qmin 0 false m (e + 127 - scale)
      let (tm, te) := f.mag f.top
      let above := numLt (.fin false tm te) (.fin false m (e + 127 - scale))
      let q' := if above then f.top else q
      ⟨(if n && decide (q' ≠ 0) then sg else 0) + q',
        (if above then flSAT + flNX else 0) ||| (if nx then flNX else 0)⟩
    | .inf n => ⟨(if n then sg else 0) + f.top, flSAT + flNX⟩
    | .nan _ => ⟨0, 0⟩

/-- The exponent byte of a YB block (R185). -/
def ybExp (vs : List Num) : Nat :=
  if vs.any Num.isNan then 0xFF
  else match maxMag vs with
    | .fin _ m e => if m = 0 then 0 else (clampI (floorLog m e + 127) 0 254).toNat
    | _ => 254

/-- Bit k of the micro-exponent byte (R185): the pair lies below 2^(E − 128). -/
def ybMuBit (e : Nat) (a b : Num) : Bool := numLt (maxMag [a, b]) (.fin false 1 ((e : Int) - 128))

/-- The micro-exponent byte of a block. -/
def ybMu (e : Nat) (vs : List Num) : Nat :=
  if e = 0xFF then 0
  else (List.range 8).foldl (fun acc k =>
    if ybMuBit e (vs.getD (2 * k) (.fin false 0 0)) (vs.getD (2 * k + 1) (.fin false 0 0)) then acc + 2 ^ k else acc) 0

/-- The code of one element of a YB block with its flags (R185). -/
def ybElem (c e mu : Nat) (v : Num) : Rslt :=
  let m := ybM c
  let top := 2 ^ m - 1
  if e = 0xFF then ⟨0, 0⟩
  else match v with
    | .fin n k x =>
      let u := x - ((e : Int) - 127 - mu - (m - 1))
      let (q, nx) := if 0 ≤ u then (k * 2 ^ u.toNat, false) else roundShift 0 false k (-u).toNat
      let q' := if top < q then top else q
      ⟨(if n && decide (q' ≠ 0) then 2 ^ m else 0) + q',
        (if top < q then flSAT + flNX else 0) ||| (if nx then flNX else 0)⟩
    | .inf n => ⟨(if n then 2 ^ m else 0) + top, flSAT + flNX⟩
    | .nan _ => ⟨0, 0⟩

/-- One encoded block: scale, micro-exponents and element codes, with the flags (R182, R185). -/
structure Block where
  scale : Nat
  mu : Nat
  elems : List Nat
  flags : Nat
  deriving DecidableEq, Repr, Inhabited

/-- `mx_encode` or `yb_encode` by type code. -/
def encodeBlock (c : Nat) (vs : List Num) : Block :=
  let nan := nvIf (vs.any Num.isNan)
  if c ≤ 6 then
    let s := mxScale c vs
    let rs := vs.map (mxElem c s)
    ⟨s, 0, rs.map Rslt.bits, rs.foldl (fun a r => a ||| r.flags) nan⟩
  else
    let e := ybExp vs
    let mu := ybMu e vs
    let rs := vs.mapIdx (fun i v => ybElem c e (mu / 2 ^ (i / 2) % 2) v)
    ⟨e, mu, rs.map Rslt.bits, rs.foldl (fun a r => a ||| r.flags) nan⟩

/-- A block element's value by type code; `i` is its index in the block. -/
def blockDecode (c scale mu elem i : Nat) : Num :=
  if c ≤ 6 then mxDecode c scale elem else ybDecode c scale (mu / 2 ^ (i / 2) % 2) elem

/-! ### Stochastic rounding (R186, R187) -/

/-- `rng_next`: the new state and the draw. -/
def rngNext (s : Dword) : Dword × Dword :=
  let s := s ^^^ (s >>> 12)
  let s := s ^^^ (s <<< 25)
  let s := s ^^^ (s >>> 27)
  (s, s * 0x2545F4914F6CDD1D#64)

/-- A written state of 0 is stored as the constant of R186. -/
def rngStore (v : Dword) : Dword := if v = 0 then 0x9E3779B97F4A7C15#64 else v

/-- RNGSTATE at team start (R186). -/
def rngReset (team gid : Nat) : Dword := rngStore (0x9E3779B97F4A7C15#64 ^^^ BitVec.ofNat 64 (team * 2 ^ 16 + gid))

/-- `sround` of a magnitude to codes of step 2^qmin with `fb` fraction bits and largest code `top`, by draw `g`
(24 bits). Answers code and flags; a YB element has no fraction steps beyond 1. -/
def sroundCode (fb : Nat) (qmin : Int) (top : Nat) (topMag : Nat × Int) (g : Nat) (m : Nat) (e : Int) : Rslt :=
  if numLt (.fin false topMag.1 topMag.2) (.fin false m e) then ⟨top, flSAT⟩
  else if m = 0 then ⟨0, 0⟩
  else
    let q := max ((Nat.log2 m : Int) + e - fb) qmin
    if q ≤ e then ⟨((q - qmin) * 2 ^ fb).toNat + m * 2 ^ (e - q).toNat, 0⟩
    else
      let k := (q - e).toNat
      let lo := ((q - qmin) * 2 ^ fb).toNat + m / 2 ^ k
      let r := m % 2 ^ k
      if r = 0 then ⟨lo, 0⟩
      else ⟨if g < r * 2 ^ 24 / 2 ^ k then lo + 1 else lo, flNX⟩

/-! ### Special functions (R194, R195) -/

/-- ln 2 in units of 2^-160. -/
def ln2Fix : Nat := 1013035739299659071135698605846798551586536899366
/-- 2 / √π in units of 2^-160. -/
def erfFix : Nat := 1649128000240172121335468122222580532118151184855
/-- The fixed point of the series below: units of 2^-160. -/
def one160 : Int := 2 ^ 160

/-- Products in fixed point. -/
def fmul160 (a b : Int) : Int := a * b / one160

/-- e^x for |x| < 1 by its series, in fixed point. -/
def expSeries (x : Int) : Int :=
  ((List.range 60).foldl (fun (acc : Int × Int) (k : Nat) =>
    let t := fmul160 acc.2 x / ((k : Int) + 1)
    (acc.1 + t, t)) (one160, one160)).1

/-- A finite value in fixed point, truncated. -/
def toFix (neg : Bool) (m : Nat) (e : Int) : Int :=
  let k := e + 160
  let v : Int := if 0 ≤ k then (m * 2 ^ k.toNat : Nat) else (m / 2 ^ (-k).toNat : Nat)
  if neg then -v else v

/-- 2^x of a fixed-point x: a fixed-point significand in [1, 2) and an exponent. -/
def exp2Fix (x : Int) : Int × Int :=
  let n := x / one160
  (expSeries (fmul160 (x - n * one160) ln2Fix), n)

/-- ln of a fixed-point significand in [1, 2), by 2 artanh((m − 1)/(m + 1)). -/
def lnSeries (m : Int) : Int :=
  let z := (m - one160) * one160 / (m + one160)
  let z2 := fmul160 z z
  2 * ((List.range 55).foldl (fun (acc : Int × Int) (k : Nat) =>
    (acc.1 + acc.2 / (2 * (k : Int) + 1), fmul160 acc.2 z2)) (0, z)).1

/-- sin r and cos r of a fixed-point |r| < 4. -/
def sinCosFix (r : Int) : Int × Int :=
  let s := (List.range 80).foldl (fun (acc : Int × Int × Int) (k : Nat) =>
    let (sn, cs, t) := acc
    let t' := fmul160 t r / ((k : Int) + 1)
    match k % 4 with
    | 0 => (sn + t', cs, t')
    | 1 => (sn, cs - t', t')
    | 2 => (sn - t', cs, t')
    | _ => (sn, cs + t', t')) (0, one160, one160)
  (s.1, s.2.1)

/-- e^x of a fixed-point x with |x| < 200, in fixed point (of a value below 2^300). -/
def expFix (x : Int) : Int :=
  let (m, n) := exp2Fix (x * one160 / ln2Fix)
  if 0 ≤ n then m * 2 ^ n.toNat else m / 2 ^ (-n).toNat

/-- erf of a fixed-point |x| < 7 by its series. -/
def erfSeries (x : Int) : Int :=
  let x2 := fmul160 x x
  let s := (List.range 240).foldl (fun (acc : Int × Int) (n : Nat) =>
    (acc.1 + acc.2 / (2 * (n : Int) + 1), -(fmul160 acc.2 x2) / ((n : Int) + 1))) (0, x)
  fmul160 s.1 erfFix

/-- An f32 encoding as an integer that rises with the value. -/
def ord32 (b : Nat) : Int := if b < 2 ^ 31 then b else -((b : Int) - 2 ^ 31)

/-- Its inverse. -/
def unord32 (k : Int) : Nat := if 0 ≤ k then k.toNat else (2 ^ 31 - k).toNat

/-- One f32 among those between two dyadic bounds v ± w, in units of 2^u: which one is the position `p`. -/
def pickBetween (v w u : Int) (p : Nat) : Nat :=
  let lo := ord32 (f32.roundFin 3 (decide (v - w < 0)) (v - w).natAbs u).bits
  let hi := ord32 (f32.roundFin 2 (decide (v + w < 0)) (v + w).natAbs u).bits
  if lo ≤ hi then unord32 (lo + (p % (hi - lo + 1).toNat : Nat)) else unord32 lo

/-- One ulp of f32 at a value in units of 2^u, in those units (R194). -/
def ulp32 (v u : Int) : Int :=
  let x := max ((Nat.log2 v.natAbs : Int) + u - 23) (-149)
  if u ≤ x then 2 ^ (x - u).toNat else 0

/-- The result of a special function whose exact value is near `v` in units of 2^u: an f32 within `k` ulp, or within
2^-ab where that is larger; which one is a free value. NX is raised, UF where it is tiny, OF where it overflows. -/
def freeNear (fn : Nat) (x : Nat) (v u : Int) (k : Nat) (ab : Option Nat) : Rslt :=
  let w0 := (k : Int) * ulp32 v u
  let w1 : Int := match ab with
    | some n => if u + n ≤ 0 then 2 ^ (-(u + n)).toNat else 0
    | none => 0
  let b := pickBetween v (max w0 w1 - 2 ^ 20) u (Config.special fn 1 x)
  ⟨b, flNX + (if b % 2 ^ 31 < 2 ^ 23 then flUF else 0)⟩

/-- The f32 whose rank is the highest from `lo` to `hi` that a monotonic function has reached at operand `x` (R194): any table of
thresholds gives a function that never falls, and every such function has its table. -/
def risingPick (fn x : Nat) (lo hi : Int) : Nat :=
  unord32 ((List.range (hi - lo).toNat).foldl (fun (c : Int) k =>
    let r := lo + (k + 1 : Nat)
    if Config.rises fn r ≤ ord32 x then r else c) lo)

/-- The ranks of the f32 within `k` ulp of `v` in units of 2^u, narrowed so that neither end falls where the ulp changes. -/
def risingBounds (v u : Int) (k : Nat) : Int × Int :=
  let w := (k : Int) * ulp32 v u - 2 ^ 20
  let edge := (2 : Int) ^ Nat.log2 v.natAbs
  let half := (k : Int) * ulp32 v u / 2
  let lo := if 0 ≤ v then max (v - w) (edge - half) else v - w
  let hi := if 0 ≤ v then v + w else min (v + w) (half - edge)
  (ord32 (f32.roundFin 3 (decide (lo < 0)) lo.natAbs u).bits, ord32 (f32.roundFin 2 (decide (hi < 0)) hi.natAbs u).bits)

/-- The result of `exp2` or `log2` near `v` in units of 2^u: an f32 within 2 ulp that lies between the stated results `below` and
`above` of the neighbouring exact cases, chosen so that the function never falls (R194). -/
def freeRising (fn x : Nat) (v u : Int) (below above : Int) : Rslt :=
  let (lo, hi) := risingBounds v u 2
  let b := risingPick fn x (max lo below) (min hi above)
  ⟨b, flNX + (if b % 2 ^ 31 < 2 ^ 23 then flUF else 0)⟩

/-- The rank of a stated result (−1)^n × m × 2^e of f32. -/
def rank32 (n : Bool) (m : Nat) (e : Int) : Int := ord32 (f32.roundFin 0 n m e).bits

/-- Whether an integer is a power of two. -/
def isPow2 (m : Nat) : Bool := decide (m ≠ 0) && decide (2 ^ Nat.log2 m = m)

/-- 2π as R194 gives it, m × 2^e. -/
def twoPi : Nat × Int := match f64.decode 0x401921FB54442D18 with
  | .fin _ m e => (m, e)
  | _ => (0, 0)

/-- x − P × n in fixed point (R194). -/
def reduceTwoPi (neg : Bool) (m : Nat) (e : Int) : Int :=
  let u := min e twoPi.2
  let x := scaled neg m e u
  let p := scaled false twoPi.1 twoPi.2 u
  let fl := (2 * x + p) / (2 * p)
  let n := if (2 * x + p) % (2 * p) = 0 ∧ fl % 2 ≠ 0 then fl - 1 else fl
  let r := x - p * n
  toFix (decide (r < 0)) r.natAbs u

/-- The f32 special functions (R194, R195): fn 10 exp2 to 18 erf, by the number of the function field. -/
def special32 (fn : Nat) (x : Nat) : Rslt :=
  let one := 0x3F800000
  let inf := 0x7F800000
  let sg := 0x80000000
  let nan := f32.nanBits
  match f32.decode x with
  | .nan s => ⟨nan, nvIf s⟩
  | .inf n =>
    match fn with
    | 10 => if n then ⟨0, 0⟩ else ⟨inf, 0⟩
    | 11 => if n then ⟨nan, flNV⟩ else ⟨inf, 0⟩
    | 12 => if n then ⟨sg, 0⟩ else ⟨0, 0⟩
    | 13 => if n then ⟨nan, flNV⟩ else ⟨0, 0⟩
    | 14 => ⟨nan, flNV⟩
    | 15 => ⟨nan, flNV⟩
    | 17 => if n then ⟨0, 0⟩ else ⟨one, 0⟩
    | _ => if n then ⟨sg + one, 0⟩ else ⟨one, 0⟩
  | .fin n m e =>
    if m = 0 then
      match fn with
      | 10 => ⟨one, 0⟩
      | 11 => ⟨sg + inf, flDZ⟩
      | 12 => ⟨(if n then sg else 0) + inf, flDZ⟩
      | 13 => ⟨(if n then sg else 0) + inf, flDZ⟩
      | 15 => ⟨one, 0⟩
      | 17 => ⟨0x3F000000, 0⟩
      | _ => ⟨x, 0⟩
    else
      let v := toFix n m e
      match fn with
      | 10 =>
        let whole := decide (0 ≤ e) || m % 2 ^ (-e).toNat == 0
        if !numLt (.fin n m e) (.fin false 128 0) then ⟨inf, flOF + flNX⟩
        else if numLt (.fin n m e) (.fin true 151 0) then ⟨risingPick 0 x (-1) 1, flUF + flNX⟩
        else if whole && !numLt (.fin n m e) (.fin true 149 0) then
          f32.roundFin 0 false 1 (if 0 ≤ e then scaled n m e 0 else scaled n (m / 2 ^ (-e).toNat) 0 0)
        else
          let (y, k) := exp2Fix v
          let below : Int := scaled n m e (min e 0) / 2 ^ (-(min e 0)).toNat
          if below < -149 then ⟨risingPick 0 x (-1) 1, flUF + flNX⟩
          else freeRising 0 x y (k - 160) (rank32 false 1 below) (rank32 false 1 (below + 1))
      | 11 =>
        if n then ⟨nan, flNV⟩
        else if isPow2 m then
          let k := (Nat.log2 m : Int) + e
          f32.roundFin 0 (decide (k < 0)) k.natAbs 0
        else
          let l := Nat.log2 m
          let y := lnSeries ((m : Int) * one160 / 2 ^ l) * one160 / ln2Fix + ((l : Int) + e) * one160
          let below := (l : Int) + e
          freeRising 1 x y (-160) (rank32 (decide (below < 0)) below.natAbs 0) (rank32 (decide (below + 1 < 0)) (below + 1).natAbs 0)
      | 12 =>
        if isPow2 m then f32.roundFin 0 n 1 (-(e + Nat.log2 m))
        else
          let y : Int := 2 ^ (Nat.log2 m + 200) / m
          let u : Int := -(Nat.log2 m + 200 : Nat) - e
          if numLt (.fin false (2 ^ 24 - 1) 104) (.fin false y.natAbs u) then
            ⟨(if n then sg else 0) + inf, flOF + flNX⟩
          else freeNear 2 x (if n then -y else y) u 1 none
      | 13 =>
        if n then ⟨nan, flNV⟩
        else
          let l := Nat.log2 m
          if isPow2 m ∧ ((l : Int) + e) % 2 = 0 then f32.roundFin 0 false 1 (-(((l : Int) + e) / 2))
          else
            let k := (e % 2).toNat
            let y := isqrt (2 ^ (600 + 2 * (l / 2)) / (m * 2 ^ k))
            freeNear 3 x y (-((e - k) / 2) - 300 - (l / 2 : Nat)) 1 none
      | 14 => freeNear 4 x (sinCosFix (reduceTwoPi n m e)).1 (-160) 0 (some 22)
      | 15 => freeNear 5 x (sinCosFix (reduceTwoPi n m e)).2 (-160) 0 (some 22)
      | 16 =>
        let a := if 40 * one160 < v then 40 * one160 else if v < -40 * one160 then -40 * one160 else v
        let t := expFix (2 * a)
        freeNear 6 x ((t - one160) * one160 / (t + one160)) (-160) 2 (some 24)
      | 17 =>
        let a := if 160 * one160 < v then 160 * one160 else if v < -160 * one160 then -160 * one160 else v
        freeNear 7 x (one160 * one160 / (one160 + expFix (-a))) (-160) 2 (some 24)
      | _ =>
        let a := if 7 * one160 < v then 7 * one160 else if v < -7 * one160 then -7 * one160 else v
        freeNear 8 x (erfSeries a) (-160) 3 (some 24)

/-- A special function in f32, f16 or bf16 (type 1 to 3): the f32 result of the operand, rounded (R194). -/
def specialFn (t fn : Nat) (x : Nat) : Rslt :=
  let f := fmtOf t
  let x32 := (f32.round 0 (f.decode x)).bits
  let r := special32 fn (match f.decode x with | .nan s => if s then 0x7FA00000 else f32.nanBits | _ => x32)
  if t = 1 then r else (f.round 0 (f32.decode r.bits)).with_ r.flags

end Sys2Proof.Machine
end

