-- ==== Sys2Proof/Machine/Blocks.lean ====
section
/-!
DEFINITION. Block formats as bytes in memory and in tiles (07 R181, R183), and the in-flight conversions of the copy
engines (12 R321).
-/

namespace Sys2Proof.Machine

/-- Bits of an element code of a block format (R181, Table 4 of R183). -/
def elemBits (c : Nat) : Nat := match c with
  | 4 | 5 => 8
  | 6 => 4
  | 7 => 3
  | 8 => 5
  | _ => 8

/-- Bytes of a block: the scale, the micro-exponents of a YB block, and the elements. -/
def blockBytes (c : Nat) : Nat := (if c ≤ 6 then 1 else 2) + blockLen c * elemBits c / 8

/-- A block as bytes (R181, R183). -/
def packBlock (c : Nat) (b : Block) : List Nat :=
  let v := (b.elems.mapIdx (fun i e => e % 2 ^ elemBits c * 2 ^ (elemBits c * i))).foldl (· + ·) 0
  let body := (List.range (blockLen c * elemBits c / 8)).map (fun i => v / 2 ^ (8 * i) % 256)
  if c ≤ 6 then b.scale % 256 :: body else b.scale % 256 :: b.mu % 256 :: body

/-- The element values of a packed block. -/
def unpackBlock (c : Nat) (bs : List Nat) : List Num :=
  let head := if c ≤ 6 then 1 else 2
  let v := ((bs.drop head).mapIdx (fun i b => b * 2 ^ (8 * i))).foldl (· + ·) 0
  let scale := bs.headD 0
  let mu := if c ≤ 6 then 0 else bs.getD 1 0
  (List.range (blockLen c)).map (fun i => blockDecode c scale mu (v / 2 ^ (elemBits c * i) % 2 ^ elemBits c) i)

/-- Bytes of one value of an IEEE type code. -/
def ieeeBytes (c : Nat) : Nat := match c with
  | 0 => 8
  | 1 => 4
  | _ => 2

/-- A little-endian number of listed bytes. -/
def natOfList : List Nat → Nat
  | [] => 0
  | b :: bs => b + 256 * natOfList bs

/-- The bytes of a number, lowest first. -/
def listOfNat (n v : Nat) : List Nat := (List.range n).map (fun i => v / 2 ^ (8 * i) % 256)

/-- A list in pieces of `n`. -/
def pieces {α : Type} (n : Nat) : Nat → List α → List (List α)
  | 0, _ => []
  | _, [] => []
  | k + 1, l => l.take n :: pieces n k (l.drop n)

/-! ### Conversions in flight (Table 3 of R321) -/

/-- One unit of a conversion: source elements, source bytes and destination bytes; none where Table 3 has no such pair. -/
def cvtUnit (cvt : Bool) (s d : Nat) : Option (Nat × Nat × Nat) :=
  if cvt = false then some (1, 1, 1)
  else if s = 1 ∧ (d = 2 ∨ d = 3) then some (1, 4, 2)
  else if (s = 2 ∨ s = 3) ∧ d = 1 then some (1, 2, 4)
  else if s = 1 ∧ 4 ≤ d ∧ d ≤ 9 then some (blockLen d, 4 * blockLen d, blockBytes d)
  else if 4 ≤ s ∧ s ≤ 9 ∧ 1 ≤ d ∧ d ≤ 3 then some (blockLen s, blockBytes s, blockLen s * ieeeBytes d)
  else none

/-- The destination bytes of one unit and the flags raised, with round to nearest even. -/
def convertUnit (cvt : Bool) (s d : Nat) (bs : List Nat) : List Nat × Nat :=
  if cvt = false then (bs, 0)
  else if s < 4 then
    let vals := (pieces (ieeeBytes s) bs.length bs).map (fun w => (fmtOf s).decode (natOfList w))
    if d < 4 then
      let rs := vals.map ((fmtOf d).round 0)
      (rs.flatMap (fun r => listOfNat (ieeeBytes d) r.bits), rs.foldl (fun a r => a ||| r.flags) 0)
    else
      let b := encodeBlock d vals
      (packBlock d b, b.flags)
  else
    let rs := (unpackBlock s bs).map ((fmtOf d).round 0)
    (rs.flatMap (fun r => listOfNat (ieeeBytes d) r.bits), rs.foldl (fun a r => a ||| r.flags) 0)

/-- Element sizes ES and ED of Table 3. -/
def cvtSizes (cvt : Bool) (s d : Nat) : Nat × Nat :=
  if cvt = false then (1, 1) else (if s < 4 then ieeeBytes s else 1, if d < 4 then ieeeBytes d else 1)

end Sys2Proof.Machine
end

