-- ==== Sys2Proof/Machine/Fabric.lean ====
section
/-!
DEFINITION. The fabric (01): flits and their check sums, admission, link retry, routes, fallback and the registers that
hold them.
-/

namespace Sys2Proof.Machine

/-! ### Flits (R22, R23, R107) -/

/-- One step of the CRC over a bit, most significant bit first (R22; log entry 6). -/
def crcBit (c : BitVec 32) (b : Bool) : BitVec 32 :=
  if c.getLsbD 31 != b then (c <<< 1) ^^^ 0x04C11DB7#32 else c <<< 1

/-- The CRC of a byte, high bit first. -/
def crcByte (c : BitVec 32) (x : Byte) : BitVec 32 :=
  (List.range 8).foldl (fun c i => crcBit c (x.getLsbD (7 - i))) c

/-- CRC-32 over the body and trailer bits [63:32] (R22). -/
def flitCrc (f : Flit) : BitVec 32 :=
  let top : BitVec 32 := f.src ++ f.dst ++ f.kind ++ 0#2 ++ f.seq
  let bytes := (List.range 32).map (fun k => f.body.extractLsb' (8 * k) 8)
    ++ (List.range 4).map (fun k => top.extractLsb' (8 * k) 8)
  bytes.foldl crcByte 0xFFFFFFFF#32

/-- The header flit body of a message (Table 3 of R107). -/
def headerBody (m : Msg) : BitVec 256 :=
  let lo : BitVec 64 := 0#4 ++ m.tag ++ m.tenant ++ m.master ++ m.aux ++ m.scope ++ BitVec.ofBool m.poison
    ++ BitVec.ofBool m.acq ++ m.ndata ++ m.cls
  let hi : BitVec 64 := 0#14 ++ m.pair ++ m.line
  m.mask ++ hi ++ lo

/-- The message a header flit begins (Table 3 of R107). -/
def ofHeader (b : BitVec 256) : Msg where
  cls := b.extractLsb' 0 8
  ndata := b.extractLsb' 8 3
  acq := b.getLsbD 11
  poison := b.getLsbD 12
  scope := b.extractLsb' 13 3
  aux := b.extractLsb' 16 4
  master := b.extractLsb' 20 12
  tenant := b.extractLsb' 32 12
  tag := b.extractLsb' 44 16
  line := b.extractLsb' 64 41
  pair := b.extractLsb' 105 9
  mask := b.extractLsb' 128 128

/-- A flit with its CRC. -/
def mkFlit (i j : Nat) (kind : BitVec 2) (seq : BitVec 16) (body : BitVec 256) (lane : Nat) : Flit :=
  let f : Flit := ⟨body, BitVec.ofNat 6 i, BitVec.ofNat 6 j, kind, seq, 0, lane⟩
  { f with crc := flitCrc f }

/-- The bodies of a message's flits: header, then data (R23). -/
def msgBodies (m : Msg) : List (BitVec 2 × BitVec 256) :=
  (0#2, headerBody m) :: (List.range m.ndata.toNat).map (fun k => (1#2, m.data.extractLsb' (256 * k) 256))

/-- The message of a header flit and its data flits (R23). -/
def msgOfFlits : List Flit → Msg
  | [] => { cls := 0 }
  | h :: ds => { ofHeader h.body with data := ds.foldr (fun f (d : Line) => (d <<< 256) ||| f.body.zeroExtend 1024) 0 }

/-- Table 4 of R108. -/
def knownClass (c : BitVec 8) : Bool :=
  let n := c.toNat
  (1 ≤ n && n ≤ 0x0D) || (0x20 ≤ n && n ≤ 0x24) || (0x40 ≤ n && n ≤ 0x48) || (0x60 ≤ n && n ≤ 0x63)

/-- Classes that open a transaction at their target and are counted for admission (R36, R108, R128). -/
def countedClass (c : BitVec 8) : Bool := c.toNat < 0x40 || c.toNat == 0x60 || c.toNat == 0x61

/-- Classes whose arrival ends a transaction the receiver opened (R36). -/
def answerClass (c : BitVec 8) : Bool := (0x40 ≤ c.toNat && c.toNat < 0x60) || c.toNat == 0x62 || c.toNat == 0x63

/-! ### Routes (R28 to R31) -/

/-- Offset of ROUTE_i_j, CRCERR_i_j, REQCAP_i_j and FBTAB_i_j in X1's window. -/
def routeOff (i j : Nat) : Nat := 0x10000 + (64 * i + j) * 8
def crcOff (i j : Nat) : Nat := 0x30000 + (64 * i + j) * 8
def capOff (i j : Nat) : Nat := 0x38000 + (64 * i + j) * 8
def fbOff (i j : Nat) : Nat := 0x48000 + (64 * i + j) * 8

/-- An ordered pair of two different ports of the package (R20). -/
def isPair (i j : Nat) : Bool := decide (i < 36) && decide (j < 36) && i != j

def State.route (s : State) (i j : Nat) : Dword := s.reg x1 (routeOff i j)
def routeMode (r : Dword) : Nat := field r 1 0
def routeCsel (r : Dword) : Nat := field r 2 2
def routeRelay (r : Dword) : Nat := field r 13 8
def routeHold (r : Dword) : Bool := r.getLsbD 16

/-- An ordered pair of ports. -/
def State.pairState (s : State) (i j : Nat) : FPair := Tab.get {} s.fab (64 * i + j)
def State.updFab (s : State) (i j : Nat) (f : FPair → FPair) : State := { s with fab := Tab.upd {} s.fab (64 * i + j) f }

/-- The share of i at j in force (R37). -/
def State.share (s : State) (i j : Nat) : Nat := Tab.get (if s.tables then defaultShare i j else 0) s.reqcap (64 * i + j)

/-- The pair whose lanes carry the flits of i→j from their source: in mode 2 its first leg (R21, R30). -/
def State.firstLeg (s : State) (i j : Nat) : Nat × Nat :=
  if routeMode (s.route i j) = 2 then (i, routeRelay (s.route i j)) else (i, j)

/-- The lanes of a pair in mode 0 or 1, 0–7 α and 8–15 β (R21, R28), those given up apart (R27); a pair in mode 2 uses none of
its own (R30). -/
def State.ownLanes (s : State) (i j : Nat) : List Nat :=
  let r := s.route i j
  let all := match routeMode r with
    | 0 => List.range 16
    | 1 => if routeCsel r = 0 then List.range 8 else (List.range 8).map (· + 8)
    | _ => []
  all.filter (fun l => !(s.pairState i j).dropped.contains l)

/-- The lanes that carry the flits of i→j from their source: those of its first leg. -/
def State.lanes (s : State) (i j : Nat) : List Nat := s.ownLanes (s.firstLeg i j).1 (s.firstLeg i j).2

/-- BUSY (R28, R35): a flit of the pair is in serialisation at i, or stands in a relay's forwarding buffer. -/
def State.busy (s : State) (i j : Nat) : Bool :=
  decide (s.ptime < (s.pairState i j).busyUntil)
  || s.fab.any (fun e => e.1 / 64 != i && e.2.through.any (fun x => x.2.src.toNat == i && x.2.dst.toNat == j))

/-- Pairs relayed through port `k` (R37). -/
def State.relayUse (s : State) (k : Nat) : Nat :=
  (List.range 36).foldl (fun a i => (List.range 36).foldl (fun a j =>
    if i ≠ j ∧ routeMode (s.route i j) = 2 ∧ routeRelay (s.route i j) = k then a + 1 else a) a) 0

/-- Whether some relayed pair uses the leg i→j (R29). -/
def State.isLeg (s : State) (i j : Nat) : Bool :=
  (List.range 36).any (fun d => d != i && d != j && routeMode (s.route i d) == 2 && routeRelay (s.route i d) == j)
  || (List.range 36).any (fun o => o != i && o != j && routeMode (s.route o j) == 2 && routeRelay (s.route o j) == i)

/-- Whether a write that changes MODE, CSEL or RELAY is accepted (R29); the lost bits tested are those that the same write
leaves (DESIGN CHOICE, log entry 94). -/
def State.routeAccepts (s : State) (i j : Nat) (v : Dword) : Bool :=
  let r := s.route i j
  let alost := v.getLsbD 32
  let blost := v.getLsbD 33
  let k := routeRelay v
  routeHold r && routeHold v && !s.busy i j && routeMode v != 3
    && (routeMode v != 0 || (!alost && !blost))
    && (routeMode v != 1 || (if routeCsel v = 0 then !alost else !blost))
    && (routeMode v != 2 ||
        (decide (k < 36) && k != i && k != j && decide (routeMode (s.route i k) < 2)
          && decide (routeMode (s.route k j) < 2) && decide (s.relayUse k < 16) && !s.isLeg i j))

/-- The fields a route change sets. -/
def routeFields (v : Dword) : Nat × Nat × Nat := (routeMode v, routeCsel v, routeRelay v)

/-- A flit of a pair's stream, new, replayed or control, waits for a lane of its first leg (R24, R30). -/
def State.offer (s : State) (i j : Nat) (f : Flit) : State :=
  if routeMode (s.route i j) = 2 then
    let k := routeRelay (s.route i j)
    (s.updFab i k (fun p => { p with through := p.through ++ [(s.ptime, f)] })).nowOnce (.flitInject i k)
  else (s.updFab i j (fun p => { p with own := p.own ++ [f] })).nowOnce (.flitInject i j)

/-- The flits of a stream that still wait for a lane at its source no longer do, control flits apart: a replay sends them again. -/
def State.withdraw (s : State) (i j : Nat) : State :=
  let stays (f : Flit) : Bool := f.kind == 2#2 || f.src.toNat != i || f.dst.toNat != j
  let s := s.updFab i j (fun p => { p with own := p.own.filter stays })
  if routeMode (s.route i j) = 2 then
    s.updFab i (routeRelay (s.route i j)) (fun p => { p with through := p.through.filter (fun x => stays x.2) })
  else s

/-- Every unacknowledged flit of a pair is sent again, oldest first, over the healthy lanes (R24, R27, R35). -/
def State.replayAll (s : State) (i j : Nat) : State :=
  let old := (s.pairState i j).replay
  let s := (s.withdraw i j).updFab i j (fun p =>
    { p with replay := p.replay.map (fun x => { x with at_ := s.ptime, replays := x.replays + 1 }) })
  let s := old.foldl (fun (s : State) x => s.offer i j x.f) s
  if old.any (fun x => x.replays + 1 == 16) then s.soonOnce (.replayLimitLost i j) else s

/-- The value of ROUTE_i_j after a write of `v` (R28, R29): lost bits, HOLD and REJ are written; MODE, CSEL and RELAY
only where the change is accepted, and EPOCH then counts it; a refusal sets REJ. -/
def State.routeWrite (s : State) (i j : Nat) (v : Dword) : State :=
  let r := s.route i j
  let base := setField (setField (setField r 33 33 (field v 33 33)) 32 32 (field v 32 32)) 16 16 (field v 16 16)
  let base := if v.getLsbD 18 then setField base 18 18 0 else base
  if routeFields v = routeFields r then s.setReg x1 (routeOff i j) base
  else if s.routeAccepts i j v then
    let n := setField (setField (setField base 1 0 (routeMode v)) 2 2 (routeCsel v)) 13 8 (routeRelay v)
    (s.setReg x1 (routeOff i j) (setField n 31 24 ((field r 31 24 + 1) % 256))).replayAll i j
  else s.setReg x1 (routeOff i j) (setField base 18 18 1)

/-- ROUTE_WRITE (R29). With HOLD cleared, waiting messages go on; a write that changes a lost bit starts the firmware's
action of R33. No port has a route to itself or to a port the package does not have (R20, R28). -/
def execRouteWrite (i j : Nat) (v : BitVec 64) (s : State) : Out :=
  .next (
    if isPair i j then
      let t := (s.routeWrite i j v).nowOnce (.flitInject i j)
      if field (t.route i j) 33 32 = field (s.route i j) 33 32 then t else t.soonOnce (.fallbackReroute i j)
    else s)

/-! ### Sending (R36) -/

/-- A message waits at its source for its target, in issue order (R36). -/
def State.send (s : State) (i j : Nat) (m : Msg) : State :=
  let m := { m with ndata := if m.cls.toNat = 0x04 ∨ m.cls.toNat = 0x07 ∨ m.cls.toNat = 0x08 ∨ m.cls.toNat = 0x0D
      ∨ m.cls.toNat = 0x40 then 4 else if m.cls.toNat = 0x0A ∨ m.cls.toNat = 0x44 then 1 else m.ndata }
  -- a unit of an I/O chiplet reaches another of its own without the fabric
  if i = j then s.post s.ptime (.deliver ⟨i, j, m⟩)
  else (s.updFab i j (fun p => { p with egress := p.egress ++ [m] })).nowOnce (.flitInject i j)

/-- How a message is counted for admission: not at all, with the requests and snoops (R36), with the PWBs (R122), or with
the VNEWs (R128). -/
inductive Count where
  | free | open_ | pwb | vnew
  deriving DecidableEq, Repr

/-- The count that a message sent is under. -/
def countOf (c : BitVec 8) : Count :=
  if c = 0x0D then .pwb else if c = 0x61 then .vnew else if countedClass c then .open_ else .free

/-- A count of a pair goes up or down. -/
def FPair.bump (p : FPair) (c : Count) (f : Nat → Nat) : FPair :=
  match c with
  | .free => p
  | .open_ => { p with open_ := f p.open_ }
  | .pwb => { p with pwbs := f p.pwbs }
  | .vnew => { p with vnews := f p.vnews }

/-- The bound on outstanding messages from i to j: 16 PWBs (R122), 64 VNEWs (R128), the share in force otherwise; responses
are never counted (DEDUCED, log entry 33). -/
def State.admits (s : State) (i j : Nat) (m : Msg) : Bool :=
  match countOf m.cls with
  | .free => true
  | .open_ => decide ((s.pairState i j).open_ < s.share i j)
  | .pwb => decide ((s.pairState i j).pwbs < 16)
  | .vnew => decide ((s.pairState i j).vnews < 64)

/-- The oldest message that does not wait for admission (R36). What waits keeps its order: nothing that is counted passes an
earlier message of its own line. -/
def State.nextOut (s : State) (i j : Nat) (held : List (BitVec 41)) : List Msg → Option Msg
  | [] => none
  | m :: ms =>
    if s.admits i j m && (countOf m.cls == .free || !held.contains m.line) then some m
    else s.nextOut i j (m.line :: held) ms

/-- A pair that carries no part of a message takes the next one from its source (R36). -/
def State.takeMessage (s : State) (i j : Nat) : State :=
  let p := s.pairState i j
  if p.bodies ≠ [] then s
  else match s.nextOut i j [] p.egress with
    | none => s
    | some m => s.updFab i j (fun p =>
        { p.bump (countOf m.cls) (· + 1) with egress := p.egress.erase m, bodies := msgBodies m })

/-- The next flit of a stream takes its SEQ, enters the replay buffer and waits for a lane (R23, R24). -/
def State.numberFlit (s : State) (i j : Nat) (b : BitVec 2 × BitVec 256) : State :=
  let f := mkFlit i j b.1 (s.pairState i j).nextSeq b.2 0
  (s.updFab i j (fun p =>
    { p with nextSeq := p.nextSeq + 1, replay := p.replay ++ [{ f := f, at_ := s.ptime }] })).offer i j f

/-- A message's flits enter the stream, as many as the replay buffer has room for (R24). -/
def State.enterFlits (s : State) (i j : Nat) : State :=
  let p := s.pairState i j
  let n := 512 - p.replay.length
  let s := (p.bodies.take n).foldl (fun (s : State) b => s.numberFlit i j b) s
  let s := s.updFab i j (fun p => { p with bodies := p.bodies.drop n })
  if p.bodies = [] ∨ s.awaits (.replayTimeout i j) then s else s.later 1001 (.replayTimeout i j)

/-- The next `n` flits of a leg's sender: relayed ones (marked true) and its own alternate where both wait (R30). -/
def alternate : Nat → Bool → List Flit → List Flit → List (Bool × Flit)
  | 0, _, _, _ => []
  | _ + 1, _, [], [] => []
  | n + 1, _, o :: os, [] => (false, o) :: alternate n true os []
  | n + 1, _, [], r :: rs => (true, r) :: alternate n false [] rs
  | n + 1, true, o :: os, r :: rs => (true, r) :: alternate n false (o :: os) rs
  | n + 1, false, o :: os, r :: rs => (false, o) :: alternate n true os (r :: rs)

/-- A flit leaves on a lane of the leg i→k (R22, R24): it is there one hop later, at its target or at its relay (R30, R43). At its
source the replay buffer keeps its lane, and its pair is busy while it is serialised. -/
def State.emit (s : State) (i k : Nat) (f : Flit) : State :=
  let j := f.dst.toNat
  let s := if f.src.toNat = i then
      s.updFab i j (fun p => { p with
        busyUntil := s.ptime + 5
        replay := p.replay.map (fun x => if x.f.seq = f.seq ∧ f.kind ≠ 2#2 then { x with f := f, at_ := s.ptime } else x) })
    else s
  s.later 25 (if j = k then .flitReceive f.src.toNat j f else .relayForward k f)

/-- The lanes of a pair take the flits that wait for them, one each, dealt in turn, every 5 ns (R21, R22, R24). -/
def State.serialise (s : State) (i k : Nat) : State :=
  let p := s.pairState i k
  let ls := s.ownLanes i k
  let ready := p.through.filter (fun x => decide (x.1 ≤ s.ptime))
  let out := alternate ls.length p.turn p.own (ready.map (·.2))
  if p.own = [] ∧ p.through = [] then s
  else if s.ptime < p.wireUntil then
    if s.agenda.any (fun e => decide (e.1 ≤ p.wireUntil) && e.2 == .event (.flitInject i k)) then s
    else s.post p.wireUntil (.event (.flitInject i k))
  else if out = [] then s
  else
    let n := (out.filter (fun x => x.1)).length
    let s := s.updFab i k (fun p => { p with
      own := p.own.drop (out.length - n)
      through := ready.drop n ++ p.through.filter (fun x => decide (s.ptime < x.1))
      turn := !(out.getLastD (true, (mkFlit 0 0 0 0 0 0))).1
      rr := p.rr + out.length
      wireUntil := s.ptime + 5 })
    (out.mapIdx (fun q x => { x.2 with lane := ls.getD ((p.rr + q) % max 1 ls.length) 0 })).foldl
      (fun (s : State) f => s.emit i k f) (s.later 5 (.flitInject i k))

/-- The oldest message of a pair that does not wait for admission enters the pair's stream, and the pair's lanes take the flits
that wait for them (R24, R36). With HOLD = 1 nothing new enters; replay and control go on (R28). -/
def State.inject (s : State) (i j : Nat) : State :=
  let s := if routeHold (s.route i j) then s else (s.takeMessage i j).enterFlits i j
  let s := s.serialise i j
  let p := s.pairState i j
  if routeHold (s.route i j) || p.egress.isEmpty || !p.bodies.isEmpty || (s.nextOut i j [] p.egress).isNone
    || s.awaits (.flitInject i j) then s
  else s.later 5 (.flitInject i j)

/-- FLIT_INJECT (R36). -/
def execFlitInject (i j : Nat) (s : State) : Out := .next (s.inject i j)

/-- A control flit on the reverse pair: 1 ACK, 2 NAK (R25); it takes that pair's route and lanes (R30). -/
def State.control (s : State) (j i : Nat) (kind : Nat) (seq : BitVec 16) : State :=
  s.offer j i (mkFlit j i 2#2 0 (BitVec.ofNat 256 (kind + seq.toNat * 2 ^ 16)) 0)

/-! ### Receiving (R23 to R25) -/

/-- The CRC error counter of a colour counts up, saturating (R32). -/
def State.crcError (s : State) (i j : Nat) (beta : Bool) : State :=
  let v := s.reg x1 (crcOff i j)
  let (hi, lo) := if beta then (63, 32) else (31, 0)
  let n := field v hi lo
  s.setReg x1 (crcOff i j) (setField v hi lo (if n = 0xFFFFFFFF then n else n + 1))

/-- A flit the receiver discards without delivery (R23). -/
def badFlit (j : Nat) (f : Flit) : Bool :=
  f.crc != flitCrc f || f.kind == 3#2 || f.dst.toNat != j
    || (f.kind == 0#2 && decide (4 < (f.body.extractLsb' 8 3).toNat))

/-- The count that an answer from i ends at j: that of the message it answers. -/
def State.countEnded (s : State) (j : Nat) (m : Msg) : Count :=
  if m.cls = 0x62 then .vnew
  else match Tab.find s.txs (j * 2 ^ 16 + m.tag.toNat) with
    | some t => if t.cls = 0x0D then .pwb else .open_
    | none => .open_

/-- PROTERR of a port counts up, saturating, and the fabric interrupt is raised to the MMP (R107). -/
def State.protocolError (s : State) (j : Nat) : State :=
  let v := field (s.reg j 0x50010) 31 0
  (s.setReg j 0x50010 (BitVec.ofNat 64 (if v = 0xFFFFFFFF then v else v + 1))).raiseMmp (.protocol j)

/-- A whole message of i→j arrives (R23): an answer lowers the count of the transaction it ends (R36); an unlisted
class is counted in PROTERR, raised to the MMP and dropped (R107). -/
def State.arrive (s : State) (i j : Nat) (m : Msg) : State :=
  if knownClass m.cls then
    let s := if answerClass m.cls then
        (s.updFab j i (fun p => p.bump (s.countEnded j m) (· - 1))).nowOnce (.flitInject j i) else s
    s.post s.ptime (.deliver ⟨i, j, m⟩)
  else s.protocolError j

/-- An accepted flit joins the message being received; the last one completes it. -/
def State.accept (s : State) (i j : Nat) (f : Flit) : State :=
  let p := s.pairState i j
  let parts := p.parts ++ [f]
  let need := match parts with
    | [] => 1
    | h :: _ => (ofHeader h.body).ndata.toNat + 1
  let whole := decide (need ≤ parts.length)
  let un := p.unacked + 1
  let s := s.updFab i j (fun p =>
    { p with expect := p.expect + 1, parts := if whole then [] else parts, unacked := if 64 ≤ un then 0 else un })
  let s := if whole then s.arrive i j (msgOfFlits parts) else s
  if 64 ≤ un then s.control j i 1 f.seq
  else if s.awaits (.ackTimer i j) then s else s.later 200 (.ackTimer i j)

/-- FLIT_RECEIVE (R23 to R25): a control flit acknowledges or asks for a replay; a bad flit is counted and dropped; the
next one expected is accepted; a duplicate is dropped silently; any other is answered with NAK. -/
def execFlitReceive (i j : Nat) (f : Flit) (s : State) : Out :=
  .next (
    if badFlit j f then s.crcError i j (decide (8 ≤ f.lane))
    else if f.kind = 2#2 then
      let seq := f.body.extractLsb' 16 16
      match (f.body.extractLsb' 0 8).toNat with
      | 1 => s.soon (.ackReceive i j seq)
      | 2 => s.soon (.nakReceive i j seq)
      | _ => s
    else
      let p := s.pairState i j
      if f.seq = p.expect then s.accept i j f
      else if (p.expect - f.seq).toNat ≤ 32768 then s
      else s.control j i 2 p.expect)

/-- ACK_TIMER (R24): a cumulative ACK of what has been accepted. -/
def execAckTimer (i j : Nat) (s : State) : Out :=
  let p := s.pairState i j
  .next (if p.unacked = 0 then s
    else (s.updFab i j (fun p => { p with unacked := 0 })).control j i 1 (p.expect - 1))

/-- An ACK of flits of j→i up to `seq` (R25). -/
def State.acked (s : State) (i j : Nat) (seq : BitVec 16) : State :=
  (s.updFab j i (fun p =>
    { p with replay := p.replay.filter (fun x => decide (0 < (x.f.seq - seq).toNat ∧ (x.f.seq - seq).toNat < 32768)) }))
    |>.nowOnce (.flitInject j i)

/-- REPLAY_TIMEOUT (R24): the oldest unacknowledged flit is more than 1 µs old. -/
def execReplayTimeout (i j : Nat) (s : State) : Out :=
  .next (match (s.pairState i j).replay with
    | [] => s
    | x :: _ =>
      if x.at_ + 1000 < s.ptime then (s.replayAll i j).later 1001 (.replayTimeout i j)
      else s.post (x.at_ + 1001) (.event (.replayTimeout i j)))

/-- A colour of a pair is lost: its bit is set, the fabric interrupt is raised to the MMP (R27), and the firmware reroutes the
pair (R32, R33). -/
def State.loseColour (s : State) (i j : Nat) (beta : Bool) : State :=
  let b := if beta then 33 else 32
  ((s.setReg x1 (routeOff i j) (setField (s.route i j) b b 1)).raiseMmp (.lane i j)).soonOnce (.fallbackReroute i j)

/-- REPLAY_LIMIT_LOST (R27): a flit replayed 16 times gives up the lane that last carried it, which in mode 2 is a lane of the
pair's first leg (DEDUCED, log entry 95). -/
def execReplayLimitLost (i j : Nat) (s : State) : Out :=
  .next (match (s.pairState i j).replay.find? (fun x => decide (16 ≤ x.replays)) with
    | none => s
    | some x =>
      let (a, b) := s.firstLeg i j
      let s := s.updFab a b (fun p => { p with dropped := x.f.lane :: p.dropped })
      let s := s.updFab i j (fun p => { p with replay := p.replay.map (fun y => { y with replays := 0 }) })
      s.loseColour i j (decide (8 ≤ x.f.lane)))

/-- LOSS_OF_LIGHT (R32) (DEDUCED, log entry 91). -/
def execLossOfLight (i j : Nat) (beta : Bool) (s : State) : Out := .next (s.loseColour i j beta)

/-- CRC_MONITOR_INTERVAL (R32): counters above 64 lose their colour; each is zeroed. -/
def execCrcMonitorInterval (s : State) : Out :=
  let keys := s.regs.filterMap (fun e =>
    let off := e.1 % 2 ^ 30
    if e.1 / 2 ^ 30 = x1 ∧ 0x30000 ≤ off ∧ off < 0x34800 then some ((off - 0x30000) / 8) else none)
  let s := keys.foldl (fun (s : State) k =>
    let (i, j) := (k / 64, k % 64)
    let v := s.reg x1 (crcOff i j)
    let s := if 64 < field v 31 0 then s.loseColour i j false else s
    let s := if 64 < field v 63 32 then s.loseColour i j true else s
    s.setReg x1 (crcOff i j) 0) s
  .next (s.later 100000 .crcMonitorInterval)

/-- The candidates of FBTAB_i_j, in order (R33). -/
def candidates (v : Dword) : List Nat :=
  ((List.range 4).map (fun n => (field v (8 * n + 7) (8 * n + 7), field v (8 * n + 5) (8 * n)))).takeWhile (fun c => c.1 == 1)
    |>.map (fun c => c.2)

/-- The route of R33 for a pair with candidate `k`, as a written value with HOLD = 1. -/
def fallbackValue (r : Dword) (k : Nat) : Dword :=
  let r := setField (setField r 16 16 1) 18 18 1
  match r.getLsbD 32, r.getLsbD 33 with
  | false, false => setField r 1 0 0
  | true, false => setField (setField r 1 0 1) 2 2 1
  | false, true => setField (setField r 1 0 1) 2 2 0
  | true, true => setField (setField r 1 0 2) 13 8 k

/-- A held pair that is not busy takes the route of Table 4 of R33, trying the relay candidates in order, and is released;
nothing where no candidate is accepted (R34). -/
def State.reroute (s : State) (i j : Nat) : Option State :=
  let r := s.route i j
  let tries := if r.getLsbD 32 && r.getLsbD 33 then candidates (s.reg x1 (fbOff i j)) else [0]
  match tries.find? (fun k => routeFields (fallbackValue r k) == routeFields r || s.routeAccepts i j (fallbackValue r k)) with
  | some k =>
    let s := s.routeWrite i j (fallbackValue r k)
    some ((s.routeWrite i j (setField (s.route i j) 16 16 0)).nowOnce (.flitInject i j))
  | none => none

/-- FALLBACK_REROUTE (R33, R34): the pair is held, and once it is not busy it is rerouted; where no candidate is accepted the
fabric has failed. -/
def execFallbackReroute (i j : Nat) (s : State) : Out :=
  let s := s.clearMmp (.lane i j)
  let r := s.route i j
  .next (
    if !routeHold r || s.busy i j then
      (s.routeWrite i j (setField r 16 16 1)).later 5 (.fallbackReroute i j)
    else match s.reroute i j with
      | some s => s
      | none => s.setReg x1 0x74000 (setField (s.reg x1 0x74000) 3 3 1))

/-- RELAY_FORWARD (R30): the relay checks the CRC and forwards good flits: 20 ns later (R43) they wait, in its forwarding buffer,
for a lane of the second leg. -/
def execRelayForward (k : Nat) (f : Flit) (s : State) : Out :=
  .next (if f.crc != flitCrc f then s
    else (s.updFab k f.dst.toNat (fun p => { p with through := p.through ++ [(s.ptime + 20, f)] })).later 20 (.flitInject k f.dst.toNat))

/-- The sum of the staged shares at a target over all sources (R37). -/
def State.stagedSum (s : State) (j : Nat) : Nat :=
  (List.range 36).foldl (fun a i => a + field (s.reg x1 (capOff i j)) 15 0) 0

/-- ADMCTL_LOAD (R37): the staged table is loaded where every target's sum fits; else ERR is set and the MMP
reports a table error. Ignored once READY. -/
def execAdmctlLoad (v : BitVec 64) (s : State) : Out :=
  .next (
    if !v.getLsbD 0 || (s.reg x1 0x74000).getLsbD 0 then s
    else if (List.range 36).all (fun j => decide (s.stagedSum j ≤ field (s.reg x1 (0x3E000 + 8 * j)) 15 0)) then
      let caps := (List.range 36).flatMap (fun i => (List.range 36).map (fun j => (64 * i + j, field (s.reg x1 (capOff i j)) 15 0)))
      { (s.setReg x1 0x3E400 0).clearMmp .tables with reqcap := caps }
    else (s.setReg x1 0x3E400 2#64).raiseMmp .tables)

end Sys2Proof.Machine
end

