-- ==== Sys2Proof/Machine/Homes.lean ====
section
/-!
DEFINITION. Access tables and denials (02 R67 to R73), the interleave (01 R38 to R40), and the homes: directory,
transactions, memory-side atomics, release records and promotion, version bumps (04 R102 to R129).
-/

namespace Sys2Proof.Machine

/-! ### Physical addresses (R38 to R45) -/

/-- MEMVAR (R41). -/
def State.memvar (s : State) : Nat := field s.ihsel 1 0

/-- The active memory chiplets, ascending (R40). -/
def State.memActive (s : State) : List Nat := (List.range 16).filter (fun k => s.ihsel.getLsbD (32 + k))

/-- The active capacity in bytes (Table 6 of R39); nothing where MEMVAR is 3. -/
def State.capacity (s : State) : Nat :=
  match s.memvar with
  | 0 => 16 * 96 * 2 ^ 30
  | 1 => 15 * 96 * 2 ^ 30
  | 2 => 14 * 96 * 2 ^ 30
  | _ => 0

/-- Bits of F (R38). -/
def hashF (pa : Nat) : Nat :=
  (List.range 9).foldl (fun a j => a ^^^ (pa / 2 ^ (12 + 4 * j) % 16)) 0

/-- The slot of a granule (R38). -/
def slotOf (pa : Nat) : Nat := (pa / 256 % 16) ^^^ hashF pa

/-- The entry of the slot table (R40), as an index into the active chiplets. -/
def slotTable (n b s : Nat) : Nat := if s < n then (s + b) % n else (b * (16 - n) + s - n) % n

/-- The size of a slot piece (Table 6 of R39). -/
def pieceSize (n : Nat) : Nat := if n = 16 then 96 * 2 ^ 30 else 6 * 2 ^ 30

/-- The home chiplet of a device physical address, as its port 16 to 31 (R39). -/
def State.homeOf (s : State) (pa : Nat) : Nat :=
  let hs := s.memActive
  let n := hs.length
  let b := pa / (16 * pieceSize n)
  16 + hs.getD (slotTable n b (slotOf pa)) 0

/-- The offset of an address within its home (R39). -/
def State.localOf (s : State) (pa : Nat) : Nat :=
  let n := s.memActive.length
  let p := pieceSize n
  let b := pa / (16 * p)
  let me := slotTable n b (slotOf pa)
  let before := (List.range b).foldl (fun a b' => a + (List.range 16).countP (fun t => slotTable n b' t == me)) 0
    + (List.range (slotOf pa)).countP (fun t => slotTable n b t == me)
  p * before + (pa - 16 * p * b) / 4096 * 256 + pa % 256

/-- What a physical address names (Table 1 of R45). -/
inductive Space where
  | device | host | peer | window | reserved
  deriving DecidableEq, Repr

/-- Table 1 of R45. -/
def spaceOf (pa : Nat) : Space :=
  if pa < 0x018000000000 then .device
  else if pa < 0x800000000000 then .reserved
  else if pa < 0xC00000000000 then .host
  else if pa < 0xE00000000000 then .peer
  else if pa < 0xF00000000000 then .reserved
  else if pa < 0xF00900000000 then .window
  else .reserved

/-- PEERMAP of peer `p` (R420), as X2 holds it. -/
def State.peermap (s : State) (p : Nat) : Dword := s.reg 34 (0x20000 + 8 * p)

/-- The link a peer access takes (R421): by PA[10:7] among the set bits of LINKS; none where LINKS is empty (DESIGN CHOICE, log
entry 75). -/
def State.linkFor (s : State) (pa : Nat) : Option Nat :=
  let m := s.peermap (pa / 2 ^ 41 % 16)
  let ls := (List.range 12).filter (fun l => m.getLsbD (16 + l))
  if m.getLsbD 0 then ls[pa / 128 % 16 % max 1 ls.length]? else none

/-- The port a physical address is sent to. -/
def State.targetOf (s : State) (pa : Nat) : Nat :=
  match spaceOf pa with
  | .device => s.homeOf pa
  | .host => x0
  | .peer => match s.linkFor pa with
    | some l => if l < 6 then 34 else 35
    | none => 34
  | .window => (pa - 0xF00000000000) / 2 ^ 30
  | .reserved => x1

/-! ### Access tables (R67 to R73) -/

/-- The kind of a request for the checks of Table 11 and the CLASS of ATDENY (R71, R73). -/
inductive Ask where
  | read | write | amo | fetch | zero
  deriving DecidableEq, Repr

def Ask.code : Ask → Nat
  | .read => 0
  | .write => 1
  | .amo => 2
  | .fetch => 3
  | .zero => 4

/-- Whether an entry grants the rights of Table 11. -/
def grants (e : BitVec 128) (k : Ask) : Bool :=
  let kind := (e.extractLsb' 6 2).toNat
  let r := e.getLsbD 1
  let w := e.getLsbD 2
  let a := e.getLsbD 3
  let ws := e.getLsbD 4
  let sp := e.getLsbD 5
  let extra := match kind with
    | 1 => match k with
      | .read | .fetch => true
      | _ => ws
    | 2 => sp
    | 0 => true
    | _ => false
  extra && match k with
    | .read | .fetch => r
    | .write | .zero => w
    | .amo => w && a

/-- Frames of 64 KiB that the MMP keeps together for its tables from the ASID table on (R49; log entry 7). -/
def tablePool : Nat := 65536

/-- An access-table entry with its fields (Table 9 of R68): blocks `lo` to `hi`, and the rights R, W, A, WS, SP. -/
def mkEntry (lo hi : Nat) (tenant : BitVec 12) (kind : Nat) (ireg : BitVec 12) (r w a ws sp : Bool) : BitVec 128 :=
  BitVec.ofNat 128 (hi % 2 ^ 32 * 2 ^ 96 + lo % 2 ^ 32 * 2 ^ 32 + ireg.toNat * 2 ^ 20 + tenant.toNat * 2 ^ 8 + kind % 4 * 2 ^ 6
    + sp.toNat * 2 ^ 5 + ws.toNat * 2 ^ 4 + a.toNat * 2 ^ 3 + w.toNat * 2 ^ 2 + r.toNat * 2 + 1)

/-- What an access table holds before anything changes it (R74): at every target, the host port's access to the registers of its window
(R412); and from step 7 of bring-up on, at every home, R for the walkers on the MMP's tables, with tenant 0, and at every target what
the MMP's firmware needs: R and W on what the target serves, with tenant 0 (DESIGN CHOICE, log entries 56 and 113). -/
def State.accDefault (s : State) (port master e : Nat) : BitVec 128 :=
  let t := s.reg x1 0x40000
  if e ≠ 0 ∨ port < 16 ∨ 36 ≤ port then 0
  else if master = 2193 then
    mkEntry (0xF0000000 + 0x4000 * port) (0xF0003FFF + 0x4000 * port) 0 0 0 true true false false false
  else if t.getLsbD 0 = false then 0
  else if port < 32 ∧ 2048 ≤ master ∧ master < 2176 then
    mkEntry (field t 47 18 * 4) (field t 47 18 * 4 + tablePool - 1) 0 0 0 true false false false false
  else if master = 2194 then
    if port < 32 then mkEntry 0 0x17FFFFF 0 0 0 true true false false false
    else if port = x0 then mkEntry 0x80000000 0xBFFFFFFF 0 0 0 true true false false false
    else if port = x1 then 0
    else mkEntry 0xC0000000 0xDFFFFFFF 0 0 0 true true false false false
  else 0

/-- Entry `e` of a master at a target. -/
def State.accEntry (s : State) (port master e : Nat) : BitVec 128 :=
  Tab.get (s.accDefault port master e) s.acc (port * 2 ^ 15 + 8 * master + e)

/-- An entry takes a value. -/
def State.setAcc (s : State) (port master e : Nat) (v : BitVec 128) : State :=
  { s with acc := Tab.set (s.accDefault port master e) s.acc (port * 2 ^ 15 + 8 * master + e) v }

/-- An entry as the checks see it: without W while it covers a page of measured code or of a measured image (R410). -/
def State.inForce (s : State) (e : BitVec 128) : BitVec 128 :=
  if s.launches.any (fun l => l.2.measured.any (fun b =>
      decide (b.1 ≤ (e.extractLsb' 96 32).toNat) && decide ((e.extractLsb' 32 32).toNat ≤ b.2))) then e &&& ~~~4#128
  else e

/-- The entry that permits a request: the lowest that matches it in every respect (R67). -/
def State.permits (s : State) (port master : Nat) (tenant : BitVec 12) (pa : Nat) (k : Ask) : Option (BitVec 128) :=
  if 2208 ≤ master then none else
    ((List.range 8).map (s.accEntry port master)).find? (fun e =>
      e.getLsbD 0 && e.extractLsb' 8 12 == tenant
        && decide ((e.extractLsb' 32 32).toNat ≤ pa / 2 ^ 16) && decide (pa / 2 ^ 16 ≤ (e.extractLsb' 96 32).toNat)
        && grants (s.inForce e) k)

/-- A denial is recorded and counted at its target (R72, R73). -/
def State.recordDenial (s : State) (port : Nat) (k : Ask) (master pa : Nat) : State :=
  let d := s.reg port 0x50000
  let n := field (s.reg port 0x50008) 31 0
  let s := s.setReg port 0x50008 (setField (s.reg port 0x50008) 31 0 (if n = 0xFFFFFFFF then n else n + 1))
  if d.getLsbD 63 then s
  else s.setReg port 0x50000 (BitVec.ofNat 64 (2 ^ 63 + k.code * 2 ^ 60 + master % 4096 * 2 ^ 48 + pa % 2 ^ 48))

/-- KIND and IREG of an entry (Table 9 of R68). -/
def kindOf (e : BitVec 128) : BitVec 2 := e.extractLsb' 6 2
def iregOf (e : BitVec 128) : BitVec 12 := e.extractLsb' 20 12

/-! ### Atomics (R115, R116) -/

/-- The operands of an AMO data flit (Table 9 of R115). -/
structure AmoArgs where
  opa : Dword
  opb : Dword
  op : Nat
  type : Nat
  off : Nat
  deriving DecidableEq, Repr

def amoArgs (d : Line) : AmoArgs :=
  ⟨d.extractLsb' 0 64, d.extractLsb' 64 64, (d.extractLsb' 128 8).toNat, (d.extractLsb' 136 8).toNat,
    (d.extractLsb' 144 8).toNat⟩

/-- The data flit of an AMO. -/
def amoFlit (a : AmoArgs) : Line :=
  (BitVec.ofNat 8 a.off ++ BitVec.ofNat 8 a.type ++ BitVec.ofNat 8 a.op ++ a.opb ++ a.opa).zeroExtend 1024

/-- Operand size of a TYPE in bytes. -/
def amoSize (t : Nat) : Nat := if t = 0 ∨ t = 1 ∨ t = 4 then 4 else 8

/-- A legal OP, TYPE and OFF (R115, R116): none reserved, OFF a multiple of the size; FADD of an integer TYPE and MIN or MAX of
f32 or f64, which no instruction sends, are answered as reserved ones are (DESIGN CHOICE, log entry 96). -/
def amoLegal (a : AmoArgs) : Bool :=
  decide (a.op ≤ 8) && decide (a.type ≤ 5) && decide (a.off < 128) && a.off % amoSize a.type == 0
    && (a.op != 8 || decide (4 ≤ a.type)) && ((a.op != 1 && a.op != 2) || decide (a.type < 4))

/-- New value and flags of the memory-side operation on `n`-bit values (R116). -/
def amoNew (n op type : Nat) (old a b : Nat) : Nat × Nat :=
  let signed := type = 1 ∨ type = 3
  let lt (x y : Nat) : Bool :=
    if signed then decide ((BitVec.ofNat n x).toInt < (BitVec.ofNat n y).toInt) else decide (x < y)
  match op with
  | 0 => ((old + a) % 2 ^ n, 0)
  | 1 => (if lt a old then a else old, 0)
  | 2 => (if lt old a then a else old, 0)
  | 3 => (old &&& a, 0)
  | 4 => (old ||| a, 0)
  | 5 => (old ^^^ a, 0)
  | 6 => (a, 0)
  | 7 => (if old = a then b else old, 0)
  | _ =>
    let r := (if type = 4 then f32 else f64).add 0 old a
    (r.bits, r.flags)

/-- The operation on a line: the new line, the old value, the flags and whether the value changed (R116, R127). -/
def amoLine (l : Line) (x : AmoArgs) : Line × Nat × Nat × Bool :=
  let n := 8 * amoSize x.type
  let old := l.toNat / 2 ^ (8 * x.off) % 2 ^ n
  let (new, fl) := amoNew n x.op x.type old (x.opa.toNat % 2 ^ n) (x.opb.toNat % 2 ^ n)
  let m : LineMask := BitVec.ofNat 128 ((2 ^ amoSize x.type - 1) * 2 ^ x.off)
  (mergeLine l (BitVec.ofNat 1024 (new * 2 ^ (8 * x.off))) m, old, fl, decide (new ≠ old))

/-! ### The directory and open transactions (R102 to R112) -/

def State.dirOf (s : State) (ln : Nat) : Dir := Tab.get {} s.dir ln
/-- An entry in state DI without a live release record is none (R104). -/
def State.setDir (s : State) (ln : Nat) (d : Dir) : State :=
  { s with dir := if d.st = .di ∧ d.lrscope = 0 then Tab.del s.dir ln else Tab.ins s.dir ln d }
def State.updDir (s : State) (ln : Nat) (f : Dir → Dir) : State := s.setDir ln (f (s.dirOf ln))

/-- Sharer bit of a port: C0–C15, and X0 as bit 16 (Table 1 of R104). -/
def sharerBit (p : Nat) : BitVec 17 := if p = x0 then 0x10000#17 else 1#17 <<< p
/-- The port of a sharer bit. -/
def sharerPorts (b : BitVec 17) : List Nat :=
  ((List.range 17).filter b.getLsbD).map (fun k => if k = 16 then x0 else k)

def State.openTx (s : State) (ln : Nat) (t : HomeTx) : State := { s with homeTx := Tab.ins s.homeTx ln t }
def State.closeTx (s : State) (ln : Nat) : State := { s with homeTx := Tab.del s.homeTx ln }

/-- The line data with its poison mark (DESIGN CHOICE, log entry 92). -/
def State.isPoisoned (s : State) (ln : Nat) : Bool := Tab.get false s.poison ln

/-- A response that echoes the request's TAG and LINE (R107). -/
def answer (m : Msg) (cls : BitVec 8) : Msg := { cls := cls, tag := m.tag, line := m.line }

/-- A transaction ends: the next queued request on the line opens (R102). -/
def State.endTx (s : State) (h ln : Nat) : State := (s.closeTx ln).soon (.homeOpenQueued h ln)

/-- A snoop to a caching agent (R108). -/
def snoop (m : Msg) (cls : BitVec 8) (ln : Nat) : Msg := { cls := cls, tag := m.tag, line := BitVec.ofNat 41 ln }

/-- INV to each of several ports. -/
def State.invalidateAll (s : State) (h ln : Nat) (m : Msg) (ps : List Nat) : State :=
  ps.foldl (fun (s : State) p => s.send h p (snoop m 0x22 ln)) s

/-- Time of a DRAM read at the home (Table 9 of R43). -/
def dramNs : Nat := 145

/-- A transaction enters a state that reads DRAM. -/
def State.readDram (s : State) (h ln : Nat) : State :=
  let (k, s) := s.pick 2
  s.later dramNs (.dramReadComplete h ln (k == 1))

/-- The line is granted to a reader or writer: DATA with its grant, and the new directory state (Table 7 of R111). -/
def State.grantData (s : State) (h ln : Nat) (t : HomeTx) (grant : Nat) (wt : Bool) : State :=
  let m : Msg := { answer t.m 0x40 with aux := BitVec.ofNat 4 (grant + if wt then 8 else 0), data := t.data, poison := t.poison }
  (s.send h t.src m).endTx h ln

/-- The requester joins the sharers unless it reads without caching (R112). -/
def joins (m : Msg) : Bool := m.cls.toNat = 0x01 || m.cls.toNat = 0x02 || m.cls.toNat = 0x03

/-- The smallest tag a port has free (R107). -/
def State.newTag (s : State) (port : Nat) : Nat :=
  ((List.range (s.txs.length + 1)).find? (fun t => (Tab.find s.txs (port * 2 ^ 16 + t)).isNone)).getD 0

/-- A transaction of a port is kept under a tag. -/
def State.keepTx (s : State) (port tag : Nat) (t : Tx) : State := { s with txs := Tab.ins s.txs (port * 2 ^ 16 + tag) t }

/-- A read (GETS, or GETX and UPG of a weight line, NCRD, ACQRD) whose data stand in `t` is answered from memory:
the directory follows the rows of Table 7 for DI and DS. -/
def State.finishRead (s : State) (h ln : Nat) (t : HomeTx) : State :=
  let d := s.dirOf ln
  let k1 := t.kind = 1
  if joins t.m then
    if t.src = x0 ∨ k1 = true ∨ d.st ≠ .di then
      (s.setDir ln { d with st := if d.st = .do then .do else .ds, sharers := d.sharers ||| sharerBit t.src }).grantData
        h ln t 1 k1
    else (s.setDir ln { d with st := .dx, owner := t.src, sharers := 0 }).grantData h ln t 2 false
  else s.grantData h ln t 0 false

/-- VBUMP of a region under a tag of the home (R127): the region stands in the low bits of MASK (DESIGN CHOICE, log entry 77). -/
def State.vbump (s : State) (h ln tag : Nat) (ireg : BitVec 12) : State :=
  (s.keepTx h tag { cls := 0x60, line := ln, target := x1, issued := s.ptime }).send h x1
    { cls := 0x60, line := BitVec.ofNat 41 ln, mask := BitVec.ofNat 128 ireg.toNat, tag := BitVec.ofNat 16 tag }

/-- A version bump of a weight region, if the write modified a KIND 1 line (R127): the reply waits for VDONE. The message is `vbump`'s,
with the region in the low bits of MASK (DESIGN CHOICE, log entry 77). -/
def State.bumpOrReply (s : State) (h ln : Nat) (t : HomeTx) (modified : Bool) (reply : Msg) : State :=
  if t.kind = 1 ∧ modified = true then
    let tag := s.newTag h
    (s.openTx ln { t with st := .hv, reply := some (t.src, reply), bump := tag }).vbump h ln tag t.ireg
  else (s.send h t.src reply).endTx h ln

/-- Bytes are written at the home (R113): a whole line clears its poison (R129). -/
def State.writeHome (s : State) (ln : Nat) (d : Line) (m : LineMask) : State :=
  let s := s.setMemLine ln d m
  if m = fullMask then { s with poison := Tab.del s.poison ln } else s

/-- A home-performed operation once no cache holds the line (R113): NCWR and PWR write the enabled bytes, AMO performs
its operation; the state becomes DI. -/
def State.performAtHome (s : State) (h ln : Nat) (t : HomeTx) : State :=
  let s := s.updDir ln (fun d => { d with st := .di, sharers := 0, owner := 0 })
  let old := s.memLine ln
  if t.evict then (s.setDir ln {}).endTx h ln
  else if t.m.cls.toNat = 0x0A then
    if s.isPoisoned ln then
      (s.send h t.src { answer t.m 0x44 with poison := true }).endTx h ln
    else
      let (new, v, fl, changed) := amoLine old (amoArgs t.m.data)
      let s := s.setMemLine ln new fullMask
      s.bumpOrReply h ln t changed { answer t.m 0x44 with aux := auxOfFlags fl, data := BitVec.ofNat 1024 v }
  else
    (s.writeHome ln t.m.data t.m.mask).bumpOrReply h ln t (decide (t.m.mask ≠ 0)) (answer t.m 0x42)

/-- A request that needs every cached copy back first: RECALL to the owner, INV to the sharers (R113). -/
def State.recallAll (s : State) (h ln : Nat) (t : HomeTx) : State :=
  let d := s.dirOf ln
  let hasOwner := d.st = .dx ∨ d.st = .do
  let shs := sharerPorts d.sharers
  if ¬hasOwner ∧ shs = [] then s.performAtHome h ln t
  else
    let s := if hasOwner then s.send h d.owner (snoop t.m 0x23 ln) else s
    let s := s.invalidateAll h ln t.m shs
    s.openTx ln { t with st := .hr, acks := shs.length, needData := decide hasOwner }

/-- GETX, or an upgrade whose requester no longer holds the line, by directory state (Table 7). -/
def State.serveGetx (s : State) (h ln : Nat) (t : HomeTx) : State :=
  let d := s.dirOf ln
  let others := (sharerPorts d.sharers).filter (· != t.src)
  match d.st with
  | .di => (s.openTx ln { t with st := .hd, needDram := true }).readDram h ln
  | .ds =>
    let s := s.invalidateAll h ln t.m others
    (s.openTx ln { t with st := if others = [] then .hd else .hda, acks := others.length, needDram := true }).readDram h ln
  | .dx => (s.send h d.owner (snoop t.m 0x21 ln)).openTx ln { t with st := .hf, needData := true }
  | .do =>
    let s := (s.send h d.owner (snoop t.m 0x21 ln)).invalidateAll h ln t.m others
    s.openTx ln { t with st := if others = [] then .hf else .hfa, needData := true, acks := others.length }

/-- A read, by directory state (Table 7): from DRAM where no owner holds the line, else forwarded. -/
def State.serveRead (s : State) (h ln : Nat) (t : HomeTx) : State :=
  let d := s.dirOf ln
  match d.st with
  | .di => (s.openTx ln { t with st := .hd, needDram := true }).readDram h ln
  | .ds => (s.openTx ln { t with st := .hd, needDram := true }).readDram h ln
  | .dx => (s.send h d.owner (snoop t.m 0x20 ln)).openTx ln { t with st := .hf, needData := true }
  | .do => (s.send h d.owner (snoop t.m 0x20 ln)).openTx ln { t with st := .hf, needData := true }

/-- An upgrade (Table 7): granted where the requester still holds the line, as it does in DX when its L2 asks for the words of the
second core of a pair (R70) (DEDUCED, log entry 97). -/
def State.serveUpg (s : State) (h ln : Nat) (t : HomeTx) : State :=
  let d := s.dirOf ln
  let isOwner := (d.st = .do ∨ d.st = .dx) ∧ d.owner = t.src
  let isSharer := (d.st = .ds ∨ d.st = .do) ∧ d.sharers &&& sharerBit t.src ≠ 0
  if isOwner ∨ isSharer then
    let inv := ((sharerPorts d.sharers).filter (· != t.src)) ++ (if d.st = .do ∧ d.owner ≠ t.src then [d.owner] else [])
    if inv = [] then
      ((s.setDir ln { d with st := .dx, owner := t.src, sharers := 0 }).send h t.src (answer t.m 0x41)).endTx h ln
    else (s.invalidateAll h ln t.m inv).openTx ln { t with st := .ha, acks := inv.length }
  else s.serveGetx h ln t

/-- PUTX and PUTE (Table 7): only the owner's is taken. -/
def State.servePut (s : State) (h ln : Nat) (t : HomeTx) : State :=
  let d := s.dirOf ln
  let dirty := t.m.cls.toNat = 0x04
  let cls : BitVec 8 := if dirty then 0x43 else 0x42
  let owns := d.owner = t.src ∧ (d.st = .dx ∨ (dirty ∧ d.st = .do))
  if owns then
    let s := if dirty then
        let s := s.setMemLine ln t.m.data fullMask
        { s with poison := Tab.set false s.poison ln t.m.poison }
      else s
    let st : DirState := if d.st = .do ∧ d.sharers ≠ 0 then .ds else .di
    ((s.setDir ln { d with st := st, owner := 0, sharers := if st = .ds then d.sharers else 0 }).send h t.src
      (answer t.m cls)).endTx h ln
  else (s.send h t.src { answer t.m cls with aux := 1 }).endTx h ln

/-- The pair of a requesting master, if it has one: cores and their engines (R120). -/
def pairOfMaster (m : BitVec 12) : Option Nat :=
  let n := m.toNat
  if n < 1024 then some (n / 2) else if n < 2048 then some ((n - 1024) / 2) else none

/-- Whether an acquire must promote the line's record first (R120). -/
def State.mustPromote (s : State) (ln : Nat) (m : Msg) : Bool :=
  let d := s.dirOf ln
  m.acq && decide (3 ≤ m.scope.toNat) && d.lrscope == 1 && pairOfMaster m.master != some d.lrpair.toNat

/-- Whether a release record displaces another pair's team record (R119). -/
def State.mustDisplace (s : State) (ln : Nat) (m : Msg) : Bool :=
  let d := s.dirOf ln
  m.cls.toNat == 0x0C && d.lrscope == 1 && d.lrpair != m.pair

/-- The home asks the recorded pair's die to write back (R121 step 1). -/
def State.promote (s : State) (h ln : Nat) (t : HomeTx) : State :=
  let d := s.dirOf ln
  (s.openTx ln { t with st := .hp, promoting := true }).send h (chipOf d.lrpair.toNat)
    { cls := 0x24, line := BitVec.ofNat 41 ln, pair := d.lrpair, mask := d.lrseq.zeroExtend 128, tag := t.m.tag }

/-- An open request is served (R111, R113, R119, R125), once any promotion it needs is done. -/
def State.serve (s : State) (h ln : Nat) (t : HomeTx) : State :=
  match t.m.cls.toNat with
  | 0x01 => s.serveRead h ln t
  | 0x02 => if t.kind = 1 then s.serveRead h ln t else s.serveGetx h ln t
  | 0x03 => if t.kind = 1 then s.serveRead h ln t else s.serveUpg h ln t
  | 0x04 => s.servePut h ln t
  | 0x05 => s.servePut h ln t
  | 0x06 => s.serveRead h ln t
  | 0x0B => s.serveRead h ln t
  | 0x09 => (s.send h t.src (answer t.m 0x42)).endTx h ln
  | 0x0C =>
    ((s.updDir ln (fun d => { d with lrscope := t.m.scope, lrpair := t.m.pair, lrseq := t.m.mask.extractLsb' 0 32 })).send
      h t.src (answer t.m 0x42)).endTx h ln
  | _ => s.recallAll h ln t

/-- The directory set of a line at its home (R104) (DESIGN CHOICE, log entry 25). -/
def State.dirSet (s : State) (ln : Nat) : Nat × Nat := (s.homeOf (128 * ln), s.localOf (128 * ln) / 128 % 262144)

/-- A class that leaves its line with a directory entry (R104, R111, R119): only these need a way. -/
def takesWay (c : BitVec 8) : Bool := c == 0x01 || c == 0x02 || c == 0x03 || c == 0x0C

/-- The request that an eviction of a line is, from its home to itself (R106). -/
def evictionOf (h ln : Nat) : Rx := ⟨h, h, { cls := 0, line := BitVec.ofNat 41 ln }⟩

/-- KIND and IREG of a line as the entries of a pair's cores have them (R71, R106): those that a promotion of the pair's words
applies where no request does (DEDUCED, log entry 98). -/
def State.kindFor (s : State) (h pair ln : Nat) : BitVec 2 × BitVec 12 :=
  let pa := 128 * ln
  let es := [2 * pair, 2 * pair + 1].flatMap (fun m => (List.range 8).map (s.accEntry h m))
  match es.find? (fun e => e.getLsbD 0 && decide ((e.extractLsb' 32 32).toNat ≤ pa / 2 ^ 16)
      && decide (pa / 2 ^ 16 ≤ (e.extractLsb' 96 32).toNat)) with
  | some e => (kindOf e, iregOf e)
  | none => (0, 0)

/-- An eviction opens (R106): a line that has no entry any more is free already; a team's record is promoted first. -/
def State.openEviction (s : State) (h ln : Nat) : State :=
  let d := s.dirOf ln
  let k := s.kindFor h d.lrpair.toNat ln
  let t : HomeTx := { src := h, m := (evictionOf h ln).m, st := .hr, evict := true, kind := k.1, ireg := k.2 }
  if (Tab.find s.dir ln).isNone then s.endTx h ln
  else if d.lrscope = 1 then s.promote h ln t
  else s.recallAll h ln t

/-- A line that cannot open a request now: a transaction is open, or earlier arrivals wait (R102, R122). -/
def State.lineBusy (s : State) (ln : Nat) : Bool :=
  (Tab.find s.homeTx ln).isSome || (Tab.get [] s.homeQ ln != []) || s.pwbs.any (fun r => r.m.line.toNat == ln)

/-- A request joins the queue of its line (R102). -/
def State.queueRequest (s : State) (r : Rx) : State := { s with homeQ := Tab.upd [] s.homeQ r.m.line.toNat (· ++ [r]) }

/-- Lines of a set whose eviction is under way or waits. -/
def State.leaving (s : State) (ln : Nat) : Bool :=
  (match Tab.find s.homeTx ln with
    | some t => t.evict
    | none => false) || (Tab.get [] s.homeQ ln).any (fun r => r.m.cls == 0)

/-- Where the set of a line that needs a way has none free, ways that opening requests will take included, the home evicts an
entry of its own choice (R104, R106): a transaction on the victim line, queued there. -/
def State.makeRoom (s : State) (h ln : Nat) : State :=
  let set := s.dirSet ln
  if (Tab.find s.dir ln).isSome ∨ s.dir.length + s.homeTx.length < 16 then s
  else
    let held := (s.dir.filter (fun e => s.dirSet e.1 == set)).map (·.1)
    let opening := (s.homeTx.filter (fun e => takesWay e.2.m.cls && s.dirSet e.1 == set && !held.contains e.1)).map (·.1)
    let stay := held.filter (fun v => !s.leaving v)
    if stay.length + opening.length < 16 ∨ stay = [] then s
    else
      let (k, s) := s.pick stay.length
      let v := stay.getD k 0
      if s.lineBusy v then s.queueRequest (evictionOf h v) else s.openEviction h v

/-- A request opens on its line (R102): a promotion first where R119 or R120 requires one. -/
def State.openRequest (s : State) (h : Nat) (r : Rx) (kind : BitVec 2) (ireg : BitVec 12) : State :=
  let ln := r.m.line.toNat
  let t : HomeTx := { src := r.src, m := r.m, st := .hd, kind := kind, ireg := ireg }
  let s := if takesWay r.m.cls then s.makeRoom h ln else s
  if s.mustPromote ln r.m || s.mustDisplace ln r.m then s.promote h ln t
  else s.serve h ln t

/-- What a request class asks of the access table (R71); PUTX and PUTE are exempt (R67). A RELREC asks for a write (DESIGN CHOICE,
log entry 99). -/
def askOf (cls : Nat) : Option Ask :=
  match cls with
  | 0x01 | 0x06 | 0x0B => some .read
  | 0x02 | 0x03 | 0x07 | 0x08 | 0x0C | 0x0D => some .write
  | 0x09 => some .zero
  | 0x0A => some .amo
  | _ => none

/-- The kind of a denied request as ATDENY names it (R73): the read of an instruction fetch is class 3 (DEDUCED, log entry 100). -/
def State.askedAs (s : State) (k : Ask) (r : Rx) : Ask :=
  match Tab.find s.txs (r.src * 2 ^ 16 + r.m.tag.toNat) with
  | some t => if k = .read ∧ (Tab.get { kind := .fill, core := 0 } s.reqs t.req).fetch = true then .fetch else k
  | none => k

/-- A denial answers the requester (R72). -/
def State.deny (s : State) (port : Nat) (k : Ask) (r : Rx) : State :=
  (s.recordDenial port (s.askedAs k r) r.m.master.toNat (128 * r.m.line.toNat)).send port r.src (answer r.m 0x45)

/-- A request arrives at a home: it is checked (R103), and opened, or queued while its line has a transaction or earlier arrivals
wait (R102). -/
def State.request (s : State) (r : Rx) : State :=
  let h := r.dst
  let ln := r.m.line.toNat
  let pa := 128 * ln
  match askOf r.m.cls.toNat with
  | none => if s.lineBusy ln then s.queueRequest r else s.openRequest h r 0 0
  | some k =>
    match s.permits h r.m.master.toNat r.m.tenant pa k with
    | none => s.deny h k r
    | some e =>
      if r.m.cls.toNat = 0x0A ∧ amoLegal (amoArgs r.m.data) = false then
        (s.protocolError h).send h r.src (answer r.m 0x45)
      else if s.lineBusy ln then s.queueRequest r
      else s.openRequest h r (kindOf e) (iregOf e)

/-- The access entry that a PWB matches: its KIND and IREG (R71). -/
def State.pwbEntry (s : State) (r : Rx) : BitVec 128 :=
  (s.permits r.dst r.m.master.toNat r.m.tenant (128 * r.m.line.toNat) .write).getD 0

/-- The words of a PWB are written in HP, no cache holding the line (R122): a weight line's version is bumped
and the answer waits for VDONE; else CMPL is sent. -/
def State.pwbInHp (s : State) (r : Rx) : State :=
  let ln := r.m.line.toNat
  let s := s.writeHome ln r.m.data r.m.mask
  if kindOf (s.pwbEntry r) = 1 ∧ r.m.mask ≠ 0 then
    let tag := s.newTag r.dst
    { s with pwbWait := Tab.ins s.pwbWait (r.dst * 2 ^ 16 + tag) r }.vbump r.dst ln tag (iregOf (s.pwbEntry r))
  else s.send r.dst r.src (answer r.m 0x42)

/-- A line in HP goes back to memory before its words are written (R113, R121 step 5): RECALL to the owner and INV to every
sharer. -/
def State.recallInHp (s : State) (h ln : Nat) (t : HomeTx) : State :=
  let d := s.dirOf ln
  let hasOwner := d.st = .dx ∨ d.st = .do
  let shs := sharerPorts d.sharers
  let s := if hasOwner then s.send h d.owner (snoop t.m 0x23 ln) else s
  (s.invalidateAll h ln t.m shs).openTx ln { t with acks := shs.length, needData := decide hasOwner }

/-- What a promotion was for goes on (R121 step 7; R106). -/
def State.afterPromotion (s : State) (h ln : Nat) (t : HomeTx) : State :=
  if t.evict then s.recallAll h ln t else s.serve h ln t

/-- The promoted words are merged, the record is cleared and the waiting request is served (R121 steps 5 to 7). -/
def State.endPromotion (s : State) (h ln : Nat) (t : HomeTx) : State :=
  let s := if t.promMask = 0 then s else s.writeHome ln t.promData t.promMask
  let s := s.updDir ln (fun d => { d with lrscope := 0, lrpair := 0, lrseq := 0 })
  let t' := { t with promoting := false, promGot := false, promMask := 0, promData := 0, acks := 0, needData := false, data := 0 }
  if t.kind = 1 ∧ t.promMask ≠ 0 then
    let tag := s.newTag h
    (s.openTx ln { t' with st := .hv, bump := tag }).vbump h ln tag t.ireg
  else s.afterPromotion h ln t'

/-- A transaction in HP whose recalls are answered goes on (R121, R122): promotion write-backs that wait for the line, and the
words of PROMACK, are written once no cache holds it. -/
def State.stepHp (s : State) (h ln : Nat) (t : HomeTx) : State :=
  let mine := s.pwbs.filter (fun r => r.m.line.toNat == ln)
  let d := s.dirOf ln
  let writes := decide (mine ≠ [] ∨ (t.promGot = true ∧ t.promMask ≠ 0))
  if t.acks ≠ 0 ∨ t.needData = true then s.openTx ln t
  else if writes ∧ (d.st = .dx ∨ d.st = .do ∨ d.sharers ≠ 0) then s.recallInHp h ln t
  else
    let s := if writes then s.updDir ln (fun d => { d with st := .di, owner := 0 }) else s
    let s := mine.foldl (fun (s : State) r => s.pwbInHp r) { s with pwbs := s.pwbs.filter (fun r => r.m.line.toNat != ln) }
    if t.promGot then s.endPromotion h ln t else s.openTx ln t

/-- An answer to a recall in HP has come; after the last one no cache holds the line. -/
def State.answeredInHp (s : State) (h ln : Nat) (t : HomeTx) : State :=
  let s := if t.acks = 0 ∧ t.needData = false then s.updDir ln (fun d => { d with st := .di, owner := 0, sharers := 0 }) else s
  s.stepHp h ln t

/-- A PWB is applied at once where its line has no open transaction, or one in HP, every copy recalled first;
else it waits in the promotion buffer (R122). -/
def State.applyPwb (s : State) (r : Rx) : State :=
  let h := r.dst
  let ln := r.m.line.toNat
  let e := s.pwbEntry r
  match Tab.find s.homeTx ln with
  | none => s.recallAll h ln { src := r.src, m := r.m, st := .hr, kind := kindOf e, ireg := iregOf e }
  | some t =>
    let s := { s with pwbs := s.pwbs ++ [r] }
    if t.st = .hp then s.stepHp h ln t else s

/-- HOME_OPEN_QUEUED (R102, R122): waiting promotion write-backs of the line come first, then the oldest request. -/
def execHomeOpenQueued (home line : Nat) (s : State) : Out :=
  .next (
    if (Tab.find s.homeTx line).isSome then s
    else match s.pwbs.find? (fun r => r.m.line.toNat == line) with
      | some r => ({ s with pwbs := s.pwbs.erase r }).applyPwb r
      | none => match Tab.get [] s.homeQ line with
        | [] => s
        | r :: rest =>
          let s := { s with homeQ := if rest = [] then Tab.del s.homeQ line else Tab.ins s.homeQ line rest }
          let e := match askOf r.m.cls.toNat with
            | some k => (s.permits home r.m.master.toNat r.m.tenant (128 * line) k).getD 0
            | none => 0
          if r.m.cls = 0 then s.openEviction home line else s.openRequest home r (kindOf e) (iregOf e))

/-- Everything a transaction awaited has arrived (R111): it responds and writes the new stable state. -/
def State.settleTx (s : State) (h ln : Nat) (t : HomeTx) : State :=
  if t.acks ≠ 0 ∨ t.needData = true ∨ t.needDram = true then s.openTx ln t
  else
    match t.st with
    | .hr => s.performAtHome h ln t
    | .ha =>
      ((s.updDir ln (fun d => { d with st := .dx, owner := t.src, sharers := 0 })).send h t.src (answer t.m 0x41)).endTx h ln
    | .hp => s.openTx ln t
    | .hv => s.openTx ln t
    | _ =>
      if (t.m.cls.toNat = 0x02 ∨ t.m.cls.toNat = 0x03) ∧ t.kind ≠ 1 then
        (s.updDir ln (fun d => { d with st := .dx, owner := t.src, sharers := 0 })).grantData h ln t 3 false
      else s.finishRead h ln t

/-- ECCCNT of a chiplet counts errors corrected and errors it could only detect, saturating (R383). -/
def State.countErrors (s : State) (port cor unc : Nat) : State :=
  let v := s.reg port 0x50020
  let sat (n : Nat) : Nat := min n 0xFFFFFFFF
  s.setReg port 0x50020 (BitVec.ofNat 64 (sat (field v 63 32 + unc) * 2 ^ 32 + sat (field v 31 0 + cor)))

/-- DRAM_READ_COMPLETE (R111, R129): the data of an open transaction arrive, poisoned where DRAM could not correct
them; whether an error was corrected is the hardware's (R383) (DESIGN CHOICE, log entry 92). -/
def execDramReadComplete (home line : Nat) (bad : Bool) (s : State) : Out :=
  .next (
    match Tab.find s.homeTx line with
    | none => s
    | some t =>
      if t.needDram then
        let (cor, s) := s.pick 2
        let s := s.countErrors home cor bad.toNat
        let s := if bad then { s with poison := Tab.ins s.poison line true } else s
        s.settleTx home line { t with needDram := false, data := s.memLine line, poison := s.isPoisoned line }
      else s)

/-- GETS (R111). -/
def execGets (s : State) : Out := .next (s.request s.rx)
/-- GETX (R111). -/
def execGetx (s : State) : Out := .next (s.request s.rx)
/-- UPG (R111). -/
def execUpg (s : State) : Out := .next (s.request s.rx)
/-- PUTX (R111). -/
def execPutx (s : State) : Out := .next (s.request s.rx)
/-- PUTE (R111). -/
def execPute (s : State) : Out := .next (s.request s.rx)
/-- RELREC (R119). -/
def execRelrec (s : State) : Out := .next (s.request s.rx)
/-- PWR (R113, R126). -/
def execPwr (s : State) : Out := .next (s.request s.rx)

/-- PWB (R122): checked as a write, then applied at once or when the open transaction lets it. -/
def execPwb (s : State) : Out :=
  .next (
    let r := s.rx
    match s.permits r.dst r.m.master.toNat r.m.tenant (128 * r.m.line.toNat) .write with
    | none => s.deny r.dst .write r
    | some _ => s.applyPwb r)

/-- The open transaction that an answer is for, by its LINE and TAG (R102). -/
def State.txOf (s : State) (m : Msg) : Option HomeTx :=
  match Tab.find s.homeTx m.line.toNat with
  | some t => if t.m.tag = m.tag then some t else none
  | none => none

/-- IACK (R111): an invalidation is acknowledged. -/
def execIack (s : State) : Out :=
  .next (
    let ln := s.rx.m.line.toNat
    match s.txOf s.rx.m with
    | none => s
    | some t =>
      let t := { t with acks := t.acks - 1 }
      if t.st = .hp then s.answeredInHp s.rx.dst ln t else s.settleTx s.rx.dst ln t)

/-- FDATA (R112): the owner's answer to FWDS, FWDX or RECALL. An owner that held no copy leaves the line as from DS. -/
def execFdata (s : State) : Out :=
  .next (
    let m := s.rx.m
    let h := s.rx.dst
    let ln := m.line.toNat
    match s.txOf m with
    | none => s
    | some t =>
      let kept := (m.aux.extractLsb' 0 2).toNat
      let dirty := m.aux.getLsbD 2
      let d := s.dirOf ln
      let t := { t with needData := false, data := m.data, poison := m.poison }
      let mem (s : State) : State := if m.ndata ≠ 0 ∧ dirty = true then
          { s.setMemLine ln m.data fullMask with poison := Tab.set false s.poison ln m.poison }
        else s
      match t.st with
      | .hr => (mem s).settleTx h ln t
      | .hp => (mem s).answeredInHp h ln { t with data := 0 }
      | _ =>
        if (t.m.cls.toNat = 0x02 ∨ t.m.cls.toNat = 0x03) ∧ t.kind ≠ 1 then
          if m.ndata = 0 then (s.openTx ln { t with needDram := true }).readDram h ln
          else s.settleTx h ln t
        else if m.ndata = 0 then
          (s.setDir ln { d with st := if d.sharers = 0 ∧ joins t.m = false then .di else .ds, owner := 0 }).openTx ln
            { t with st := .hd, needDram := true } |>.readDram h ln
        else
          let s := match kept with
            | 2 => s.setDir ln { d with st := .do }
            | 1 => s.setDir ln { d with st := .ds, owner := 0, sharers := d.sharers ||| sharerBit d.owner }
            | _ => (mem s).setDir ln { d with st := if d.sharers = 0 ∧ joins t.m = false then .di else .ds, owner := 0 }
          let s := if joins t.m then s.updDir ln (fun d => { d with sharers := d.sharers ||| sharerBit t.src }) else s
          s.grantData h ln t (if joins t.m then 1 else 0) (decide (t.kind = 1)))

/-- PROMACK (R121): the promotion's words arrive; holders are recalled, and then the words are merged. -/
def execPromack (s : State) : Out :=
  .next (
    let m := s.rx.m
    match s.txOf m with
    | none => s
    | some t => s.stepHp s.rx.dst m.line.toNat { t with promMask := m.mask, promData := m.data, promGot := true })

/-- VDONE (R127), under the tag of its VBUMP: a promotion write-back that waited for it is answered; else the home leaves HV and
answers the writer, or goes on with what a promotion was for. -/
def execVdone (s : State) : Out :=
  .next (
    let h := s.rx.dst
    let ln := s.rx.m.line.toNat
    let k := h * 2 ^ 16 + s.rx.m.tag.toNat
    let s := { s with txs := Tab.del s.txs k }
    match Tab.find s.pwbWait k with
    | some r => ({ s with pwbWait := Tab.del s.pwbWait k }).send h r.src (answer r.m 0x42)
    | none =>
      match Tab.find s.homeTx ln with
      | none => s
      | some t =>
        if t.st ≠ .hv ∨ t.bump ≠ s.rx.m.tag.toNat then s
        else match t.reply with
        | some (p, m) => (s.send h p m).endTx h ln
        | none => s.afterPromotion h ln t)

end Sys2Proof.Machine
end

