-- ==== Sys2Proof/Machine/Translate.lean ====
section
/-!
DEFINITION. Coherent reads of device memory, the table walk (02 R47 to R52), lease checks and renewals (02 R53 to R59),
and the cluster TLBs (02 R62, R63).
-/

namespace Sys2Proof.Machine

/-- Cycles of the 1.536 GHz core clock in ns, to the nearest (R13). -/
def ccNs (n : Nat) : Nat := (n * 125 + 96) / 192

/-! ### Coherent reads -/

/-- Key of an L2 line. -/
def l2Key (chip ln : Nat) : Nat := chip * 2 ^ 41 + ln

/-- A line at a chiplet's L2; I where it is not listed. -/
def State.l2Line (s : State) (chip ln : Nat) : L2Line := Tab.get {} s.l2 (l2Key chip ln)

/-- An L2 state that holds the line's data. -/
def L2State.holds : L2State → Bool
  | .s | .e | .o | .m | .smG | .miB | .eiB => true
  | .i | .isD | .imD => false

/-- Whether a waiting thread of a chiplet awaits a word of a line (R342). -/
def Gid.watches (g : Gid) (chip ln : Nat) : Bool :=
  chipOf (pairOf g.core) == chip && g.lanes.any (fun t => t.st == .waiting && (match t.await with
    | some (.waitw _ pa _ _ _ _) => pa / 128 == ln
    | _ => false))

/-- The line changes; a line in I with nothing waiting is not listed. Where the line is invalidated or its data change,
waiting threads that await a word of it read it again (R342). -/
def State.setL2 (s : State) (chip ln : Nat) (l : L2Line) : State :=
  let old := s.l2Line chip ln
  let s := { s with l2 := Tab.set {} s.l2 (l2Key chip ln) l }
  if (old.st.holds && !l.st.holds) || (l.st.holds && old.st.holds && l.data != old.data) then
    (s.gids.filter (fun e => e.2.watches chip ln)).foldl (fun (s : State) e => s.nowOnce (.waitwReread e.1)) s
  else s

/-- It changes by `f`. -/
def State.updL2 (s : State) (chip ln : Nat) (f : L2Line → L2Line) : State := s.setL2 chip ln (f (s.l2Line chip ln))

/-- The line as a coherent read would return it, with its poison mark: the owner's copy where the directory records an
owner, else memory; none while the line is on its way between holders (DESIGN CHOICE, log entry 27). -/
def State.coherent (s : State) (ln : Nat) : Option (Line × Bool) :=
  if (Tab.find s.homeTx ln).isSome then none
  else
    let d := s.dirOf ln
    if d.st = .dx ∨ d.st = .do then
      let l := s.l2Line d.owner ln
      if l.st.holds then some (l.data, l.poison) else none
    else some (s.memLine ln, s.isPoisoned ln)

/-- A coherent 64-bit read, of memory where the line is on its way. -/
def State.read64 (s : State) (pa : Nat) : Dword :=
  let l := match s.coherent (pa / 128) with
    | some (l, _) => l
    | none => s.memLine (pa / 128)
  l.extractLsb' (8 * (pa % 128)) 64

/-- `n` bytes read coherently, one by one. -/
def State.readBytes (s : State) (pa n : Nat) : List Byte :=
  (List.range n).map (fun i =>
    let a := pa + i
    lineByte (match s.coherent (a / 128) with
      | some (l, _) => l
      | none => s.memLine (a / 128)) (a % 128))

/-! ### Reads and writes of the MMP -/

/-- Bytes of a line from an offset. -/
def bytesMask (off n : Nat) : LineMask := BitVec.ofNat 128 ((2 ^ n - 1) * 2 ^ off)

/-- The addresses at which a range enters a new line. -/
def lineStarts (a : Int) (n : Nat) : List (Dword × Nat) :=
  if n = 0 then [] else
    let base := BitVec.ofInt 64 a
    let o := base.toNat % 128
    let k := (o + n + 127) / 128
    (List.range k).map (fun i =>
      let lo := if i = 0 then 0 else 128 * i - o
      let hi := min n (128 * (i + 1) - o)
      (base + BitVec.ofNat 64 lo, hi - lo))

/-- The MMP's master identifier (Table 10 of R69). -/
def mmpId : BitVec 12 := 2194

/-- The MMP writes bytes of a line coherently, in memory and in every copy that an L2 holds; its own entries must permit it (R67,
R74). -/
def State.pokeLine (s : State) (ln : Nat) (l : Line) (m : LineMask) : State :=
  let t := s.targetOf (128 * ln)
  if (s.permits t mmpId.toNat 0 (128 * ln) .write).isNone then s.recordDenial t .write mmpId.toNat (128 * ln)
  else
  let s := s.setMemLine ln l m
  (s.l2.filter (fun e => e.1 % 2 ^ 41 == ln && e.2.st.holds)).foldl (fun (s : State) e =>
    s.updL2 (e.1 / 2 ^ 41) ln (fun x => { x with data := mergeLine x.data l m })) s

/-- The MMP reads 64 bits coherently; nothing of what its entries do not permit (R67). -/
def State.peek64 (s : State) (pa : Nat) : Dword :=
  if (s.permits (s.targetOf pa) mmpId.toNat 0 pa .read).isNone then 0 else s.read64 pa

/-- A 64-bit word is written coherently. -/
def State.poke64 (s : State) (pa : Nat) (v : Dword) : State :=
  s.pokeLine (pa / 128) (BitVec.ofNat 1024 (v.toNat * 2 ^ (8 * (pa % 128)))) (bytesMask (pa % 128) 8)

/-- Bytes are written coherently. -/
def State.pokeBytes (s : State) (pa : Nat) (bs : List Byte) : State :=
  (((lineStarts (pa : Nat) bs.length).foldl (fun (a : State × List Byte) p =>
    let q := p.1.toNat
    (a.1.pokeLine (q / 128) (BitVec.ofNat 1024 (natOfBytes (a.2.take p.2) * 2 ^ (8 * (q % 128)))) (bytesMask (q % 128) p.2),
      a.2.drop p.2)) (s, bs)).1)

/-! ### The walk (R47 to R51) -/

/-- A page as a leaf maps it. -/
structure Page where
  va : Nat
  size : Nat
  pa : Nat
  /-- R, W, X, A as in Table 7 of R53. -/
  rights : BitVec 4
  wt : Bool
  nc : Bool
  ireg : BitVec 12
  deriving DecidableEq, Repr

/-- How a walk ends. -/
inductive WalkEnd where
  | page (p : Page)
  | error
  /-- A target denied the walker's read: its port and address. -/
  | denied (port pa : Nat)
  /-- The walk goes on when the L2 has supplied a line. -/
  | need (ln : Nat)
  deriving DecidableEq, Repr

/-- Number of index bits, and lowest index bit, of a level (Table 4). -/
def levelBits (lvl : Nat) : Nat × Nat :=
  match lvl with
  | 0 => (12, 45)
  | 1 => (11, 34)
  | 2 => (5, 29)
  | 3 => (8, 21)
  | _ => (5, 16)

/-- Rights of a leaf in the order of Table 7 of R53: R, W, X, A. -/
def leafRights (e : Dword) : BitVec 4 := e.extractLsb' 5 1 ++ e.extractLsb' 4 1 ++ e.extractLsb' 3 1 ++ e.extractLsb' 2 1

/-- Whether a frame lies in a mappable range (Table 1 of R45): a team's page in device memory below the active
capacity, in host memory or in a peer window. -/
def State.mappable (s : State) (pa size : Nat) : Bool :=
  match spaceOf pa with
  | .device => decide (pa + size ≤ s.capacity)
  | .host => true
  | .peer => true
  | _ => false

/-- A leaf entry at a level: the page it maps, or nothing where it breaks a rule of R50 or Table 6 of R51 (DEDUCED, log entry 24). -/
def State.leafOf (s : State) (lvl : Nat) (e : Dword) (va : Nat) : Option Page :=
  let size := 2 ^ (levelBits lvl).2
  let pa := field e 47 16 * 2 ^ 16
  let wt := e.getLsbD 6
  let ireg : BitVec 12 := e.extractLsb' 48 12
  let w := e.getLsbD 3
  if lvl = 0 ∨ field e 63 60 ≠ 0 ∨ field e 15 8 ≠ 0 ∨ pa % size ≠ 0 ∨ (wt = false ∧ ireg ≠ 0)
      ∨ (e.getLsbD 5 = true ∧ w = false) ∨ (w = true ∧ e.getLsbD 2 = false) ∨ s.mappable pa size = false then none
  else some
    { va := va - va % size, size := size, pa := pa, rights := leafRights e, wt := wt
      nc := e.getLsbD 7 || spaceOf pa != .device, ireg := ireg }

/-- A coherent read of a table entry under a walker's identifier and tenant 0 (R62, R67): its value, or how the walk ends where
the target denies it (DESIGN CHOICE, log entry 101). -/
def State.walkRead (s : State) (cluster pa : Nat) : Except WalkEnd Dword :=
  let port := s.targetOf pa
  match s.permits port (2048 + cluster) 0 pa .read with
  | none => .error (.denied port pa)
  | some _ => .ok (s.read64 pa)

/-- The levels from `lvl` of the node at `node` (R50), read by `read`. -/
def State.walkFrom (s : State) (read : Nat → Except WalkEnd Dword) (va : Nat) : Nat → Nat → Nat → WalkEnd
  | 0, _, _ => .error
  | fuel + 1, lvl, node =>
    let (n, lo) := levelBits lvl
    match read (node + 8 * (va / 2 ^ lo % 2 ^ n)) with
    | .error e => e
    | .ok e =>
      if e.getLsbD 0 = false then .error
      else if e.getLsbD 1 then match s.leafOf lvl e va with
        | none => .error
        | some p => .page p
      else
        let next := field e 47 8 * 256
        if lvl = 4 ∨ field e 63 48 ≠ 0 ∨ field e 7 2 ≠ 0 ∨ next % (8 * 2 ^ (levelBits (lvl + 1)).1) ≠ 0 then .error
        else s.walkFrom read va fuel (lvl + 1) next

/-- ASIDTAB (Table 3 of R48). -/
def State.asidTab (s : State) : Dword := s.reg x1 0x40000

/-- Address of an ASID's entry (R47). -/
def State.asidEntry (s : State) (asid : Nat) : Nat := field s.asidTab 47 18 * 2 ^ 18 + 16 * asid

/-- The tenant of an ASID (Table 2 of R47). -/
def State.tenantOf (s : State) (asid : Nat) : BitVec 12 := (s.read64 (s.asidEntry asid)).extractLsb' 12 12

/-- The walk of a virtual address under an ASID (R50), its entries read by `read`. -/
def State.walkBy (s : State) (read : Nat → Except WalkEnd Dword) (asid va : Nat) : WalkEnd :=
  if s.asidTab.getLsbD 0 = false then .error
  else
    let at_ := s.asidEntry asid
    match read at_, read (at_ + 8) with
    | .error e, _ => e
    | _, .error e => e
    | .ok w0, .ok w1 =>
      if w0.getLsbD 0 = false ∨ field w0 63 24 ≠ 0 ∨ field w0 11 1 ≠ 0 ∨ field w1 63 48 ≠ 0 ∨ field w1 14 0 ≠ 0 then .error
      else s.walkFrom read va 5 0 (field w1 47 15 * 2 ^ 15)

/-- The walk that the dispatcher's and the MMP's own translations make, by coherent reads under the walker of cluster 0 (DESIGN
CHOICE, log entries 57 and 103). -/
def State.walk (s : State) (cluster asid va : Nat) : WalkEnd := s.walkBy (s.walkRead cluster) asid va

/-- A denial of a walker's read is recorded at its target (R72). -/
def State.walkDenied (s : State) (e : WalkEnd) (cluster : Nat) : State :=
  match e with
  | .denied port pa => s.recordDenial port .read (2048 + cluster) (pa / 128 * 128)
  | _ => s

/-! ### Leases (R53 to R59) -/

/-- Rights by name, as masks of Table 7 of R53. -/
def rightR : BitVec 4 := 1
def rightW : BitVec 4 := 2
def rightX : BitVec 4 := 4
def rightA : BitVec 4 := 8

/-- A record that covers `n` bytes at `va`, grants the right and is in force (R54). -/
def LeaseRec.covers (r : LeaseRec) (va n : Nat) (right : BitVec 4) : Bool :=
  decide (r.vbase ≤ va) && decide (va + n ≤ r.vbase + r.len) && (r.rights &&& right) == right
    && (r.st == .granted || r.st == .renewing || r.st == .revoking)

/-- What a translation comes to (R56, R58, R59, R62). -/
inductive Xlat where
  | ok (pa : Nat) (e : TlbEntry)
  /-- The cluster's TLB has no entry to use: TLB_WALK follows. -/
  | walk
  /-- Lease violation or page-table error. -/
  | cause (c : BitVec 8)
  /-- Lease renewal of a record (R58). -/
  | renew (rec : Nat)
  deriving DecidableEq, Repr

/-- The records of a launch with their indices. -/
def Launch.covering (l : Launch) (va n : Nat) (right : BitVec 4) : List Nat :=
  (List.range l.recs.length).filter (fun i => match l.recs[i]? with
    | some r => r.covers va n right
    | none => false)

/-- Record `i` of a launch. -/
def Launch.recAt (l : Launch) (i : Nat) : LeaseRec := l.recs.getD i { vbase := 0, len := 0, rights := 0, st := .ended }

/-- The cluster's entries for an access by a launch (R62): within their bounds, with the right, of a covering record. -/
def State.tlbHits (s : State) (cluster launch va : Nat) (right : BitVec 4) (recs : List Nat) : List TlbEntry :=
  (Tab.get [] s.tlbs cluster).filter (fun e =>
    e.launch == launch && decide (e.lo ≤ va) && decide (va ≤ e.hi) && (e.rights &&& right) == right && recs.contains e.recIx)

/-- One that translates without a renewal (R63): the expiry it caches has not passed, or its record has been renewed since
(DEDUCED, log entry 28). -/
def State.tlbHit (s : State) (cluster launch va : Nat) (right : BitVec 4) (recs : List Nat) : Option TlbEntry :=
  (s.tlbHits cluster launch va right recs).find? (fun e =>
    decide (s.ptime < e.expiry) || decide (s.ptime < ((s.launch launch).recAt e.recIx).expiry))

/-- A walk of the cluster's walker for the address has ended in a page-table error (R50). -/
def State.badWalk (s : State) (cluster launch va : Nat) : Bool :=
  s.walks.any (fun w => w.2.cluster == cluster && w.2.launch == launch && w.2.va / 65536 == va / 65536 && w.2.bad)

/-- Translation of `n` bytes at `va` needing a right (R54, R56, R58, R62, R63): by an entry, or by a walk; using an entry or a
record that has lapsed asks for its renewal. -/
def State.translate (s : State) (cluster launch : Nat) (va : Dword) (n : Nat) (right : BitVec 4) : Xlat :=
  let l := s.launch launch
  let a := va.toNat
  if 2 ^ 57 ≤ a then .cause 0x19
  else
    let recs := l.covering a n right
    match s.tlbHit cluster launch a right recs with
    | some e => .ok (e.pa + (a - e.lo)) e
    | none =>
      match (s.tlbHits cluster launch a right recs).find? (fun e => (l.recAt e.recIx).st != .revoking) with
      | some e => .renew e.recIx
      | none =>
        match recs.find? (fun i => decide (s.ptime < (l.recAt i).expiry)) with
        | some _ => if s.badWalk cluster launch a then .cause 0x1A else .walk
        | none => match recs.find? (fun i => (l.recAt i).st != .revoking) with
          | some i => .renew i
          | none => .cause 0x19

/-- TLB entries of a cluster (R62). -/
def tlbSize : Nat := 2048

/-- An entry goes into a cluster's TLB; where it is full, one of the hardware's choice leaves (R63). -/
def State.tlbInsert (s : State) (cluster : Nat) (e : TlbEntry) : State :=
  let es := (Tab.get [] s.tlbs cluster).filter (fun o => !(o.launch == e.launch && o.lo == e.lo && o.recIx == e.recIx))
  let (k, s) := if es.length < tlbSize then (es.length, s) else s.pick es.length
  { s with tlbs := Tab.ins s.tlbs cluster (es.eraseIdx k ++ [e]) }

/-- A launch ends with a cause taken outside a gang's instruction (R247, R366); the first one stands. -/
def State.endLaunch (s : State) (launch : Nat) (c : BitVec 8) (gang : Nat := 0x7F) (team : Nat := 0xFFFFFFFF)
    (pc : Dword := 0) : State :=
  if (Tab.find s.launches launch).isNone then s
  else (s.updLaunch launch (fun l => match l.endBy with
    | some _ => l
    | none => { l with endBy := some (c, gang, team, pc) })).soonOnce (.launchEnd launch)

/-- Typical time of a renewal (R57). -/
def renewalNs : Nat := 3000

/-- A lease record as the MMP's copy holds it (Table 7 of R53). -/
def LeaseRec.bytes (r : LeaseRec) : List Byte :=
  let le (n v : Nat) : List Byte := (List.range n).map (fun i => BitVec.ofNat 8 (v / 2 ^ (8 * i)))
  let st := match r.st with
    | .pending => 0
    | .granted => 1
    | .renewing => 2
    | .revoking => 3
    | .ended => 4
  le 8 r.vbase ++ le 8 r.len ++ le 1 r.rights.toNat ++ le 1 st ++ le 6 0 ++ le 8 r.expiry

/-- The lease table of a launch, in tenant-0 memory, says what its records are (R49, R53) (DESIGN CHOICE, log entry 7). -/
def State.writeLeases (s : State) (launch : Nat) : State :=
  let l := s.launch launch
  if l.leaseTab = 0 then s else s.pokeBytes l.leaseTab (l.recs.flatMap LeaseRec.bytes)

/-- A translation used a lapsed record (Table 8 of R55): GRANTED becomes RENEWING and a request goes to the MMP. -/
def State.renew (s : State) (launch rec : Nat) : State :=
  match (s.launch launch).recs[rec]? with
  | none => s
  | some r =>
    if r.st = .granted then
      ((s.updLaunch launch (fun l => { l with recs := l.recs.set rec { r with st := .renewing } })).writeLeases launch).later renewalNs
        (.leaseRenewalServe launch rec)
    else s

end Sys2Proof.Machine
end

