-- ==== Sys2Proof/Machine/Integer.lean ====
section
/-!
DEFINITION. Integer, address and compare instructions, majors 0x04 to 0x07, and mask instructions, major 0x08
(09 R236 to R242).
-/

namespace Sys2Proof.Machine

/-! ### Functions on n-bit values (Table 1 of R237) -/

/-- The upper n bits of the signed product. -/
def mulhS (n : Nat) (a b : BitVec n) : BitVec n := BitVec.ofInt n (a.toInt * b.toInt / 2 ^ n)

/-- The upper n bits of the unsigned product. -/
def mulhN (n : Nat) (a b : BitVec n) : BitVec n := BitVec.ofNat n (a.toNat * b.toNat / 2 ^ n)

/-- The absolute value; the most negative value is itself. -/
def absS (n : Nat) (a : BitVec n) : BitVec n := if a.toInt < 0 then 0 - a else a

/-- The smaller, signed. -/
def minS (n : Nat) (a b : BitVec n) : BitVec n := if a.toInt ≤ b.toInt then a else b
/-- The smaller, unsigned. -/
def minN (n : Nat) (a b : BitVec n) : BitVec n := if a.toNat ≤ b.toNat then a else b
/-- The larger, signed. -/
def maxS (n : Nat) (a b : BitVec n) : BitVec n := if a.toInt ≤ b.toInt then b else a
/-- The larger, unsigned. -/
def maxN (n : Nat) (a b : BitVec n) : BitVec n := if a.toNat ≤ b.toNat then b else a

/-- Shift left by U(b) mod n. -/
def shlN (n : Nat) (a b : BitVec n) : BitVec n := a <<< (b.toNat % n)
/-- Logical shift right by U(b) mod n. -/
def shrN (n : Nat) (a b : BitVec n) : BitVec n := a >>> (b.toNat % n)
/-- Arithmetic shift right by U(b) mod n. -/
def sarN (n : Nat) (a b : BitVec n) : BitVec n := BitVec.ofInt n (a.toInt / 2 ^ (b.toNat % n))
/-- Rotate left by U(b) mod n. -/
def rotN (n : Nat) (a b : BitVec n) : BitVec n := a <<< (b.toNat % n) ||| a >>> (n - b.toNat % n)

/-- Leading zero bits, 0 to n. -/
def clzN (n : Nat) (a : BitVec n) : BitVec n := BitVec.ofNat n (if a.toNat = 0 then n else n - 1 - Nat.log2 a.toNat)
/-- One bits. -/
def popcN (n : Nat) (a : BitVec n) : BitVec n := BitVec.ofNat n ((List.range n).countP a.getLsbD)
/-- Bit reversal. -/
def brevN (n : Nat) (a : BitVec n) : BitVec n :=
  BitVec.ofNat n ((List.range n).foldl (fun acc i => 2 * acc + (a.getLsbD i).toNat) 0)

/-- The bits of a field at `p` of length `l`, both mod 256, clipped to n bits (R238). -/
def fieldLen (n p l : Nat) : Nat := if n ≤ p then 0 else min (p + l) n - p

/-- `bfe.n` (R238). -/
def bfeN (n : Nat) (a b c : BitVec n) : BitVec n :=
  let p := b.toNat % 256
  BitVec.ofNat n (a.toNat / 2 ^ p % 2 ^ fieldLen n p (c.toNat % 256))

/-- `bfe.s` (R238): an empty field gives 0. -/
def bfeS (n : Nat) (a b c : BitVec n) : BitVec n :=
  let p := b.toNat % 256
  let k := fieldLen n p (c.toNat % 256)
  let v := a.toNat / 2 ^ p % 2 ^ k
  if k = 0 then 0 else if v < 2 ^ (k - 1) then BitVec.ofNat n v else BitVec.ofInt n (v - 2 ^ k)

/-- `bfi` (R238): an empty field leaves d. -/
def bfiN (n : Nat) (d a b c : BitVec n) : BitVec n :=
  let p := b.toNat % 256
  let m := BitVec.ofNat n ((2 ^ fieldLen n p (c.toNat % 256) - 1) * 2 ^ p)
  if n ≤ p then d else (d &&& ~~~m) ||| ((a <<< p) &&& m)

/-- `ext` (R239): the low bits of `a` that the type code names, extended to n; code 18 in 64 bits is read as a 32-bit
operand by `execExt`. -/
def extN (n : Nat) (code : Nat) (a : BitVec n) : BitVec n :=
  match code with
  | 16 => (a.extractLsb' 0 8).signExtend n
  | 17 => (a.extractLsb' 0 16).signExtend n
  | 18 => (a.extractLsb' 0 32).signExtend n
  | 20 => (a.extractLsb' 0 8).zeroExtend n
  | 21 => (a.extractLsb' 0 16).zeroExtend n
  | _ => a

/-- Byte `i` of a word as a signed number. -/
def s8At (w : Word) (i : Nat) : Int := (w.extractLsb' (8 * i) 8).toInt

/-- `dot4` (R239). -/
def dot4 (a b c : Word) : Word :=
  BitVec.ofInt 32 (c.toInt + s8At a 0 * s8At b 0 + s8At a 1 * s8At b 1 + s8At a 2 * s8At b 2 + s8At a 3 * s8At b 3)

/-! ### Shapes -/

/-- One source: each active lane writes `op` of its operand a (R236). -/
def Gid.int1 (g : Gid) (w : BitVec 1) (f : RForm) (sg : Bool) (op : (n : Nat) → BitVec n → BitVec n) : Gid :=
  g.putAll f.d
    (fun l => if w = 0 then [op 32 (g.word l f.a f.lit)] else splitD (op 64 (g.dword l f.a f.lit sg)))
    (fun l => g.taintOf l f.a (nregs w))

/-- Two sources (R236); `sa` and `sb` say whether a special or literal is sign-extended (R170). -/
def Gid.int2 (g : Gid) (w : BitVec 1) (f : RForm) (sa sb : Bool) (op : (n : Nat) → BitVec n → BitVec n → BitVec n) :
    Gid :=
  g.putAll f.d
    (fun l => if w = 0 then [op 32 (g.word l f.a f.lit) (g.word l f.b f.lit)]
      else splitD (op 64 (g.dword l f.a f.lit sa) (g.dword l f.b f.lit sb)))
    (fun l => g.taintOf l f.a (nregs w) || g.taintOf l f.b (nregs w))

/-- Three sources, C the third (R202). -/
def Gid.int3 (g : Gid) (w : BitVec 1) (f : RForm) (op : (n : Nat) → BitVec n → BitVec n → BitVec n → BitVec n) : Gid :=
  g.putAll f.d
    (fun l => if w = 0 then [op 32 (g.word l f.a f.lit) (g.word l f.b f.lit) (g.word l f.p.c f.lit)]
      else splitD (op 64 (g.dword l f.a f.lit) (g.dword l f.b f.lit) (g.dword l f.p.c f.lit)))
    (fun l => g.taintOf l f.a (nregs w) || g.taintOf l f.b (nregs w) || g.taintOf l f.p.c (nregs w))

/-- The issuing gang id changes and the next instruction of the clause follows. -/
def State.retire (s : State) (f : Gid → Gid) : Out := .next (s.onGid (fun g => (f g).advance))

/-! ### Meanings -/

/-- `add` (R237). -/
def execAdd (w : BitVec 1) (f : RForm) (s : State) : Out :=
  s.retire (fun g => g.int2 w f false false (fun _ a b => a + b))

/-- `sub` (R237). -/
def execSub (w : BitVec 1) (f : RForm) (s : State) : Out :=
  s.retire (fun g => g.int2 w f false false (fun _ a b => a - b))

/-- `mul` (R237). -/
def execMul (w : BitVec 1) (f : RForm) (s : State) : Out :=
  s.retire (fun g => g.int2 w f false false (fun _ a b => a * b))

/-- `mulh.s` (R237). -/
def execMulhS (w : BitVec 1) (f : RForm) (s : State) : Out :=
  s.retire (fun g => g.int2 w f true true mulhS)

/-- `mulh.n` (R237). -/
def execMulhN (w : BitVec 1) (f : RForm) (s : State) : Out :=
  s.retire (fun g => g.int2 w f false false mulhN)

/-- `min.s` (R237). -/
def execMinS (w : BitVec 1) (f : RForm) (s : State) : Out :=
  s.retire (fun g => g.int2 w f true true minS)

/-- `min.n` (R237). -/
def execMinN (w : BitVec 1) (f : RForm) (s : State) : Out :=
  s.retire (fun g => g.int2 w f false false minN)

/-- `max.s` (R237). -/
def execMaxS (w : BitVec 1) (f : RForm) (s : State) : Out :=
  s.retire (fun g => g.int2 w f true true maxS)

/-- `max.n` (R237). -/
def execMaxN (w : BitVec 1) (f : RForm) (s : State) : Out :=
  s.retire (fun g => g.int2 w f false false maxN)

/-- `and` (R237). -/
def execAnd (w : BitVec 1) (f : RForm) (s : State) : Out :=
  s.retire (fun g => g.int2 w f false false (fun _ a b => a &&& b))

/-- `or` (R237). -/
def execOr (w : BitVec 1) (f : RForm) (s : State) : Out :=
  s.retire (fun g => g.int2 w f false false (fun _ a b => a ||| b))

/-- `xor` (R237). -/
def execXor (w : BitVec 1) (f : RForm) (s : State) : Out :=
  s.retire (fun g => g.int2 w f false false (fun _ a b => a ^^^ b))

/-- `shl` (R237). -/
def execShl (w : BitVec 1) (f : RForm) (s : State) : Out :=
  s.retire (fun g => g.int2 w f false false shlN)

/-- `shr` (R237). -/
def execShr (w : BitVec 1) (f : RForm) (s : State) : Out :=
  s.retire (fun g => g.int2 w f false false shrN)

/-- `sar` (R237). -/
def execSar (w : BitVec 1) (f : RForm) (s : State) : Out :=
  s.retire (fun g => g.int2 w f true false sarN)

/-- `rot` (R237). -/
def execRot (w : BitVec 1) (f : RForm) (s : State) : Out :=
  s.retire (fun g => g.int2 w f false false rotN)

/-- `neg` (R237). -/
def execNeg (w : BitVec 1) (f : RForm) (s : State) : Out :=
  s.retire (fun g => g.int1 w f false (fun _ a => 0 - a))

/-- `abs` (R237). -/
def execAbs (w : BitVec 1) (f : RForm) (s : State) : Out :=
  s.retire (fun g => g.int1 w f true absS)

/-- `not` (R237). -/
def execNot (w : BitVec 1) (f : RForm) (s : State) : Out :=
  s.retire (fun g => g.int1 w f false (fun _ a => ~~~a))

/-- `clz` (R237). -/
def execClz (w : BitVec 1) (f : RForm) (s : State) : Out :=
  s.retire (fun g => g.int1 w f false clzN)

/-- `popc` (R237). -/
def execPopc (w : BitVec 1) (f : RForm) (s : State) : Out :=
  s.retire (fun g => g.int1 w f false popcN)

/-- `brev` (R237). -/
def execBrev (w : BitVec 1) (f : RForm) (s : State) : Out :=
  s.retire (fun g => g.int1 w f false brevN)

/-- `mov` (R237). -/
def execMov (w : BitVec 1) (f : RForm) (s : State) : Out :=
  s.retire (fun g => g.int1 w f false (fun _ a => a))

/-- `mad` (R237). -/
def execMad (w : BitVec 1) (f : RForm) (s : State) : Out :=
  s.retire (fun g => g.int3 w f (fun _ a b c => a * b + c))

/-- `bfe.n` (R237). -/
def execBfeN (w : BitVec 1) (f : RForm) (s : State) : Out :=
  s.retire (fun g => g.int3 w f bfeN)

/-- `bfe.s` (R237). -/
def execBfeS (w : BitVec 1) (f : RForm) (s : State) : Out :=
  s.retire (fun g => g.int3 w f bfeS)

/-- `bfi`: d is read and written. -/
def execBfi (w : BitVec 1) (f : RForm) (s : State) : Out :=
  s.retire (fun g => g.putAll f.d
    (fun l => if w = 0 then
        [bfiN 32 (g.word l f.d f.lit) (g.word l f.a f.lit) (g.word l f.b f.lit) (g.word l f.p.c f.lit)]
      else splitD (bfiN 64 (g.dword l f.d f.lit) (g.dword l f.a f.lit) (g.dword l f.b f.lit) (g.dword l f.p.c f.lit)))
    (fun l => g.taintOf l f.d (nregs w) || g.taintOf l f.a (nregs w) || g.taintOf l f.b (nregs w)
      || g.taintOf l f.p.c (nregs w)))

/-- `sel`: C[2:0] names the mask register. -/
def execSel (w : BitVec 1) (f : RForm) (s : State) : Out :=
  s.retire (fun g => g.putAll f.d
    (fun l => let v := if g.mbit l (f.p.c.toNat % 8) then f.a else f.b
      if w = 0 then [g.word l v f.lit] else splitD (g.dword l v f.lit))
    (fun l => g.taintOf l f.a (nregs w) || g.taintOf l f.b (nregs w)))

/-- `lea`: b is 32 bits; C[2:0] is the shift. -/
def execLea (w : BitVec 1) (f : RForm) (s : State) : Out :=
  s.retire (fun g => g.putAll f.d
    (fun l => let b := g.word l f.b f.lit
      if w = 0 then [g.word l f.a f.lit + b <<< (f.p.c.toNat % 8)]
      else splitD (g.dword l f.a f.lit + (b.signExtend 64) <<< (f.p.c.toNat % 8)))
    (fun l => g.taintOf l f.a (nregs w) || g.taintOf l f.b 1))

/-- `ext`: b holds the source type code; code 18 reads a as a 32-bit operand (R239). -/
def execExt (w : BitVec 1) (f : RForm) (s : State) : Out :=
  s.retire (fun g =>
    let code := f.b.toNat
    if code = 18 then g.putAll f.d
      (fun l => if w = 0 then [g.word l f.a f.lit] else splitD ((g.word l f.a f.lit).signExtend 64))
      (fun l => g.taintOf l f.a 1)
    else g.int1 w f false (fun n a => extN n code a))

/-- `dot4`. -/
def execDot4 (f : RForm) (s : State) : Out :=
  s.retire (fun g => g.putAll f.d
    (fun l => [dot4 (g.word l f.a f.lit) (g.word l f.b f.lit) (g.word l f.p.c f.lit)])
    (fun l => g.taintOf l f.a 1 || g.taintOf l f.b 1 || g.taintOf l f.p.c 1))

/-- `movl` (R240). -/
def execMovl (f : IForm) (s : State) : Out :=
  s.retire (fun g => g.putAll f.d (fun _ => [f.imm.signExtend 32]))

/-- The immediate of `movl.64`: IHI above imm12, sign-extended (R202, R240). -/
def wideImm (f : IForm) : Dword :=
  match f.p with
  | .w ihi => (ihi ++ f.imm).signExtend 64
  | _ => f.imm.signExtend 64

/-- `movl.64` (R240). -/
def execMovl64 (f : IForm) (s : State) : Out :=
  s.retire (fun g => g.putAll f.d (fun _ => splitD (wideImm f)))

/-- The condition of `cmp` between n-bit values (Table 10 of R220). -/
def cmpHolds (n : Nat) (c : Nat) (a b : BitVec n) : Bool :=
  match c with
  | 0 => a == b
  | 1 => a != b
  | 2 => decide (a.toInt < b.toInt)
  | 3 => decide (a.toInt ≤ b.toInt)
  | 4 => decide (b.toInt < a.toInt)
  | 5 => decide (b.toInt ≤ a.toInt)
  | 6 => decide (a.toNat < b.toNat)
  | 7 => decide (a.toNat ≤ b.toNat)
  | 8 => decide (b.toNat < a.toNat)
  | 9 => decide (b.toNat ≤ a.toNat)
  | _ => false

/-- Conditions 2 to 5 are signed (R170). -/
def cmpSigned (c : BitVec 4) : Bool := decide (2 ≤ c.toNat ∧ c.toNat ≤ 5)

/-- `cmp` (R241). -/
def execCmp (w : BitVec 1) (c : BitVec 4) (f : RForm) (s : State) : Out :=
  s.retire (fun g => g.putMask f.d (fun l =>
    if w = 0 then cmpHolds 32 c.toNat (g.word l f.a f.lit) (g.word l f.b f.lit)
    else cmpHolds 64 c.toNat (g.dword l f.a f.lit (cmpSigned c)) (g.dword l f.b f.lit (cmpSigned c))))

/-- `mand` (R242). -/
def execMand (f : RForm) (s : State) : Out :=
  s.retire (fun g => g.putMask f.d (fun l => g.mbit l f.a.toNat && g.mbit l f.b.toNat))

/-- `mor` (R242). -/
def execMor (f : RForm) (s : State) : Out :=
  s.retire (fun g => g.putMask f.d (fun l => g.mbit l f.a.toNat || g.mbit l f.b.toNat))

/-- `mnot` (R242). -/
def execMnot (f : RForm) (s : State) : Out :=
  s.retire (fun g => g.putMask f.d (fun l => !g.mbit l f.a.toNat))

/-- `mmov` (R242). -/
def execMmov (f : RForm) (s : State) : Out :=
  s.retire (fun g => g.putMask f.d (fun l => g.mbit l f.a.toNat))

end Sys2Proof.Machine
end

