-- ==== Sys2Proof/Machine/Control.lean ====
section
/-!
DEFINITION. Control instructions (09 R229 to R235), and the comparison of protected mode (14 R388 to R390).
-/

namespace Sys2Proof.Machine

/-! ### Protected mode -/

/-- The lowest primary lane whose value differs from its shadow's (R389). -/
def Gid.mismatch (g : Gid) (v : Nat → List Dword) : Option Nat :=
  if g.prot then g.actives.find? (fun l => l % 2 == 0 && g.gang.active.getLsbD (l + 1) && v l != v (l + 1)) else none

/-- A divergence (R389): the instruction has no effect and the team stops. What the first lane would have written is
kept for DIVREC: its address and data, and the shadow's. -/
def State.diverge (s : State) (store : Bool) (lane : Nat) (ap as_ dp ds : Dword) : State :=
  let g := s.g
  let s := s.updTeam g.team (fun t => match t.diverged with
    | some _ => t
    | none => { t with diverged := some { index := (g.lane lane).stores, thread := g.gid * (g.width / 2) + lane / 2, store := store
                                          va0 := ap, va1 := as_, data0 := dp, data1 := ds, pair := t.pair } })
  (s.onGid (fun g => { g with frozen := true })).soonOnce (.divergenceRerun g.team)

/-- Act unless primary and shadow disagree on `v` (R389). -/
def State.guarded (s : State) (v : Nat → List Dword) (act : State → State) : State :=
  match s.g.mismatch v with
  | none => act s
  | some l => s.diverge false l 0 0 ((v l).headD 0) ((v (l + 1)).headD 0)

/-- An operand that the elected lane supplies, as R389 compares it: the other lanes supply nothing. -/
def Gid.supplied (g : Gid) (v : Nat → List Dword) (l : Nat) : List Dword :=
  if l = g.elected ∨ l = g.elected + 1 then v l else []

/-- Whether lane `l` takes what an elected form writes (R288, R318); in protected mode its shadow takes it too (R388) (DEDUCED, log
entry 47). -/
def Gid.isElected (g : Gid) (l : Nat) : Bool := l == g.elected || (g.prot && l == g.elected + 1)

/-! ### Transfers -/

/-- The active lanes go to their PCs: to one common PC, the gang goes on there, filing first where `files` is set and
the PC lies below the branch; to several, every lane is filed (R161, R229, R231). -/
def Gid.goTo (g : Gid) (now : Nat) (files : Bool) (pc : Nat → Dword) : Gid :=
  match g.actives with
  | [] => g.continueAt now g.gang.next
  | l :: ls =>
    if ls.all (fun k => pc k == pc l) then
      if files && decide ((pc l).toNat < g.here.toNat) then g.fileActive now pc else g.continueAt now (pc l)
    else g.fileActive now pc

/-- The target of a branch or call word (R200). -/
def Gid.target {n : Nat} (g : Gid) (off : BitVec n) : Dword := g.here + (off.signExtend 64) <<< 2

/-- `br` (R229). -/
def execBr (f : BForm) (s : State) : Out :=
  .next (s.onGid (fun g => g.goTo s.ptime true (fun _ => g.target f.off)))

/-- Whether lane `l` takes a `br.m` (R229). -/
def Gid.takes (g : Gid) (f : BForm) (l : Nat) : Bool := g.mbit l f.mreg.toNat != f.neg.getLsbD 0

/-- `br.m` (R229). -/
def execBrM (f : BForm) (s : State) : Out :=
  .next (s.guarded (fun l => [BitVec.ofNat 64 (s.g.takes f l).toNat]) (fun s =>
    s.onGid (fun g => g.goTo s.ptime true (fun l => if g.takes f l then g.target f.off else g.gang.next))))

/-- `call` with a target (R230). -/
def execCall (f : JForm) (s : State) : Out :=
  .next (s.onGid (fun g =>
    let t := g.target f.off
    (g.putAll f.d (fun _ => splitD g.gang.next)).goTo s.ptime false (fun _ => t)))

/-- `jmp` (R231). -/
def execJmp (f : RForm) (s : State) : Out :=
  .next (s.guarded (fun l => [s.g.dword l f.a f.lit]) (fun s =>
    s.onGid (fun g => g.goTo s.ptime true (fun l => g.dword l f.a f.lit))))

/-- `call` through a register: the target is read before the link is written (R231). -/
def execCallReg (f : RForm) (s : State) : Out :=
  .next (s.guarded (fun l => [s.g.dword l f.a f.lit]) (fun s =>
    s.onGid (fun g => (g.putAll f.d (fun _ => splitD g.gang.next)).goTo s.ptime false (fun l => g.dword l f.a f.lit))))

/-- `ret` (R231). -/
def execRet (f : RForm) (s : State) : Out :=
  .next (s.guarded (fun l => [s.g.dword l f.a f.lit]) (fun s =>
    s.onGid (fun g => g.goTo s.ptime false (fun l => g.dword l f.a f.lit))))

/-- `reform` (R233). -/
def execReform (s : State) : Out := .next (s.onGid (fun g => g.fileActive s.ptime (fun _ => g.gang.next)))

/-- An operation or direct write of the gang's threads that `exit` and a release wait for (R233, R136): a load, an
atomic, a computation, or a write that goes straight to its target. -/
def State.threadsBusy (s : State) (k : Nat) (active : BitVec 64) : Bool :=
  s.ops.any (fun e => e.2.gid == k && (e.2.kind == .load || e.2.kind == .amo || e.2.kind == .compute
    || e.2.kind == .imprint) && (e.2.lanes &&& active) != 0)
  || s.reqs.any (fun e => e.2.gid == k && e.2.kind == .write)

/-- Every thread of a team has exited (R233). -/
def State.teamDone (s : State) (team : Nat) : Bool :=
  s.gids.all (fun e => e.2.team != team || e.2.lanes.all (fun t => t.st == .exited))

/-- The active threads become EXITED and the gang ends. -/
def Gid.exitActive (g : Gid) : Gid := (g.mapActive (fun _ t => { t with st := .exited })).endGang

/-- `nop` (R234). -/
def execNop (s : State) : Out := s.retire id

/-- A reserved-hint slot executes as `nop` (R234). -/
def execReservedHint (_h : BitVec 4) (_f : RForm) (s : State) : Out := s.retire id

/-- A WBASE value that R171 accepts. -/
def Gid.wbaseOk (g : Gid) (v : Word) : Bool := v.toNat % 32 == 0 && decide (v.toNat < g.regs)

/-- `wbase` (R235). -/
def execWbase (f : RForm) (s : State) : Out :=
  match s.g.actives.find? (fun l => !s.g.wbaseOk (s.g.word l f.a f.lit)) with
  | some l => .next (s.raiseAfter 0x10 l)
  | none => .next (s.onGid (fun g =>
      (g.mapActive (fun l t => { t with wbase := (g.word l f.a f.lit).toNat })).continueAt s.ptime g.gang.next))

/-- `yield` (R234): the gang is passed over for one choice. -/
def execYield (s : State) : Out :=
  .next ((s.onGid (fun g => g.continueAt s.ptime g.gang.next)).updCore s.g.core
    (fun c => { c with yielded := some (s.cur, s.g.gang.uid) }))

end Sys2Proof.Machine
end

