-- ==== Sys2Proof/Machine/Vector.lean ====
section
/-!
DEFINITION. Vector floating point, comparison, packed forms, conversions, special functions and cross-lane
instructions, majors 0x20 to 0x30 (10 R266 to R286), and the issue and completion of long-latency operations (08 R208).
-/

namespace Sys2Proof.Machine

/-! ### Long-latency operations (R208) -/

/-- The writes of `vs` to destination `d` in the active lanes `on` names, as `putOn` would make them. -/
def Gid.wrOn (g : Gid) (on : Nat → Bool) (d : BitVec 7) (vs : Nat → List Word) : List Wr :=
  let n := d.toNat
  if n < 96 then (g.actives.filter on).flatMap (fun l => (vs l).mapIdx (fun i v => .x l ((g.lane l).wbase + n + i) v))
  else if n < 112 then match g.actives.filter on with
    | [] => []
    | l :: _ => (vs l).mapIdx (fun i v => .y (n - 96 + i) v)
  else if n < 116 then (g.actives.filter on).flatMap (fun l => (vs l).mapIdx (fun i v => .w l (n - 112 + i) v))
  else []

/-- A result of a finished operation is written; its taint is clear (R145). -/
def Gid.apply (g : Gid) : Wr → Gid
  | .x l r v => g.mapLanes (fun k t => if k = l then { t with x := Tab.ins t.x r v, taint := Tab.ins t.taint r false } else t)
  | .w l r v => g.mapLanes (fun k t =>
      if k = l then { t with w := Tab.ins t.w r v, taint := Tab.ins t.taint (256 + r) false } else t)
  | .y r v => { g with y := Tab.ins g.y r v, ytaint := Tab.ins g.ytaint r false }
  | .sticky v => { g with sticky := g.sticky ||| v }

/-- The completion flag an operation counts in (R208): FA where it writes a lane or y register, else FB (DEDUCED, log entry 22). -/
def Gid.flagFor (g : Gid) (d : BitVec 7) : Nat := if d.toNat < 112 then g.gang.fa.toNat else g.gang.fb.toNat

/-- Flag `k` counts up by one; 15 is no flag. -/
def Gid.flagUp (g : Gid) (k : Nat) : Gid := if k = 15 then g else { g with flags := Tab.upd 0 g.flags k (· + 1) }

/-- Flag `k` counts down by one. -/
def Gid.flagDown (g : Gid) (k : Nat) : Gid := if k = 15 then g else { g with flags := Tab.upd 0 g.flags k (· - 1) }

/-- Whether the flag of an operation admits another (R208). -/
def Gid.flagRoom (g : Gid) (k : Nat) : Bool := k == 15 || decide (Tab.get 0 g.flags k < 63)

/-- A long-latency operation of the issuing gang issues (R208): it counts in its flag, and with no flag the gang
waits for it. It completes `dt` ns later; `complete` is the event of its completion. -/
def State.issueOp (s : State) (o : Op) (dt : Nat) (complete : Nat → Instr) : State :=
  let (id, s) := s.fresh
  let s := { s with ops := Tab.ins s.ops id { o with gid := s.cur, issued := s.ptime, gang := s.g.gang.uid } }
  let s := s.onGid (fun g =>
    let g := (g.flagUp o.flag).advance
    if o.flag = 15 then { g with gang := { g.gang with pend := [id] } } else g)
  s.later dt (complete id)

/-- A computation whose results take effect at completion, in the active lanes that `on` names. -/
def State.computeOn (s : State) (on : Nat → Bool) (d : BitVec 7) (n : Nat) (vs : Nat → List Word) (flags : Nat) (dt : Nat) : Out :=
  let g := s.g
  let fl := g.flagFor d
  if g.flagRoom fl then
    let o : Op :=
      { gid := s.cur, kind := .compute, flag := fl, dst := d, nregs := n, lanes := g.gang.active,
        writes := g.wrOn on d vs ++ [.sticky (BitVec.ofNat 64 flags)] }
    .next (s.issueOp o dt .longOpComplete)
  else .next s

/-- `sqrt`, special functions and the conversion queue (R281): every active lane writes. -/
def State.compute (s : State) (d : BitVec 7) (n : Nat) (vs : Nat → List Word) (flags : Nat) (dt : Nat) : Out :=
  s.computeOn (fun _ => true) d n vs flags dt

/-- No gang waits for operation or request `id` any more. -/
def State.unpend (s : State) (k id : Nat) : State :=
  let f (o : Gang) : Gang := { o with pend := o.pend.filter (· != id) }
  s.updGid k (fun g => { g with gang := f g.gang, others := g.others.map f, held := g.held.map f })

/-- An operation ends: its results are written, its flag falls and nothing waits for it (R208). -/
def State.completeOp (s : State) (id : Nat) : State :=
  match Tab.find s.ops id with
  | none => s
  | some o =>
    let s := s.updGid o.gid (fun g => ((o.writes.foldl Gid.apply g).flagDown o.flag))
    ({ s with ops := Tab.del s.ops id }).unpend o.gid id

/-! ### Floating-point operands (R266) -/

/-- An operand of type t as its encoding. -/
def Gid.fop (g : Gid) (t : Nat) (l : Nat) (v : BitVec 7) (lit : Word) : Nat :=
  match t with
  | 0 => (g.dword l v lit).toNat
  | 1 => (g.word l v lit).toNat
  | _ => (g.word l v lit).toNat % 2 ^ 16

/-- A result of type t as words. -/
def fwords (t : Nat) (b : Nat) : List Word := splitN (if t = 0 then 2 else 1) b

/-- Each active lane writes a result and raises its flags. -/
def Gid.putF (g : Gid) (t : Nat) (d : BitVec 7) (r : Nat → Rslt) : Gid :=
  (g.putAll d (fun l => fwords t (r l).bits)).stick (g.orFlags (fun l => (r l).flags))

/-- Two operands of the major's type (R268). -/
def Gid.fp2 (g : Gid) (t : BitVec 2) (f : RForm) (op : Fmt → Nat → Nat → Nat → Rslt) : Gid :=
  let k := t.toNat
  g.putF k f.d (fun l => op (fmtOf k) f.p.rm.toNat (g.fop k l f.a f.lit) (g.fop k l f.b f.lit))

/-- `fadd` (R268). -/
def execFadd (t : BitVec 2) (f : RForm) (s : State) : Out := s.retire (fun g => g.fp2 t f Fmt.add)

/-- `fsub` (R268). -/
def execFsub (t : BitVec 2) (f : RForm) (s : State) : Out := s.retire (fun g => g.fp2 t f Fmt.sub)

/-- `fmul` (R268). -/
def execFmul (t : BitVec 2) (f : RForm) (s : State) : Out := s.retire (fun g => g.fp2 t f Fmt.mul)

/-- `fma` (R268): C is the addend. -/
def execFma (t : BitVec 2) (f : RForm) (s : State) : Out :=
  s.retire (fun g =>
    let k := t.toNat
    g.putF k f.d (fun l => (fmtOf k).fma f.p.rm.toNat (g.fop k l f.a f.lit) (g.fop k l f.b f.lit) (g.fop k l f.p.c f.lit)))

/-- `fmin` (R268). -/
def execFmin (t : BitVec 2) (f : RForm) (s : State) : Out := s.retire (fun g => g.fp2 t f (fun m _ => m.minmax false))

/-- `fmax` (R268). -/
def execFmax (t : BitVec 2) (f : RForm) (s : State) : Out := s.retire (fun g => g.fp2 t f (fun m _ => m.minmax true))

/-- `fclass` (R269): one 32-bit register in every major. -/
def execFclass (t : BitVec 2) (f : RForm) (s : State) : Out :=
  s.retire (fun g => g.putAll f.d (fun l =>
    [BitVec.ofNat 32 ((fmtOf t.toNat).classOf (g.fop t.toNat l f.a f.lit))]))

/-- `frnd` (R268). -/
def execFrnd (t : BitVec 2) (f : RForm) (s : State) : Out :=
  s.retire (fun g => g.putF t.toNat f.d (fun l => (fmtOf t.toNat).rnd f.p.rm.toNat (g.fop t.toNat l f.a f.lit)))

/-- `fscale` (R268): b is an s32 operand. -/
def execFscale (t : BitVec 2) (f : RForm) (s : State) : Out :=
  s.retire (fun g => g.putF t.toNat f.d (fun l =>
    (fmtOf t.toNat).scale f.p.rm.toNat (g.fop t.toNat l f.a f.lit) (g.word l f.b f.lit).toInt))

/-- One long-latency operation of one operand. -/
def State.fpLong (s : State) (t : BitVec 2) (f : RForm) (op : Nat → Rslt) : Out :=
  let g := s.g
  let r (l : Nat) := op (g.fop t.toNat l f.a f.lit)
  s.compute f.d (if t = 0 then 2 else 1) (fun l => fwords t.toNat (r l).bits) (g.orFlags (fun l => (r l).flags)) 24

/-- `sqrt` (R268), long-latency. -/
def execSqrt (t : BitVec 2) (f : RForm) (s : State) : Out :=
  s.fpLong t f (fun x => (fmtOf t.toNat).sqrt f.p.rm.toNat x)

/-- `exp2` (R270). -/
def execExp2 (t : BitVec 2) (f : RForm) (s : State) : Out := s.fpLong t f (specialFn t.toNat 10)

/-- `log2` (R270). -/
def execLog2 (t : BitVec 2) (f : RForm) (s : State) : Out := s.fpLong t f (specialFn t.toNat 11)

/-- `rcp` (R270). -/
def execRcp (t : BitVec 2) (f : RForm) (s : State) : Out := s.fpLong t f (specialFn t.toNat 12)

/-- `rsqrt` (R270). -/
def execRsqrt (t : BitVec 2) (f : RForm) (s : State) : Out := s.fpLong t f (specialFn t.toNat 13)

/-- `sin` (R270). -/
def execSin (t : BitVec 2) (f : RForm) (s : State) : Out := s.fpLong t f (specialFn t.toNat 14)

/-- `cos` (R270). -/
def execCos (t : BitVec 2) (f : RForm) (s : State) : Out := s.fpLong t f (specialFn t.toNat 15)

/-- `tanh` (R270). -/
def execTanh (t : BitVec 2) (f : RForm) (s : State) : Out := s.fpLong t f (specialFn t.toNat 16)

/-- `sigm` (R270). -/
def execSigm (t : BitVec 2) (f : RForm) (s : State) : Out := s.fpLong t f (specialFn t.toNat 17)

/-- `erf` (R270). -/
def execErf (t : BitVec 2) (f : RForm) (s : State) : Out := s.fpLong t f (specialFn t.toNat 18)

/-- `fcmp` (R271). -/
def execFcmp (t : BitVec 2) (c : BitVec 3) (f : RForm) (s : State) : Out :=
  s.retire (fun g =>
    let r (l : Nat) := (fmtOf t.toNat).cmp c.toNat (g.fop t.toNat l f.a f.lit) (g.fop t.toNat l f.b f.lit)
    (g.putMask f.d (fun l => (r l).1)).stick (g.orFlags (fun l => (r l).2)))

/-! ### Packed forms (R272) -/

/-- Both halves by one operation; their flags together. -/
def packed (op : Nat → Nat → Nat → Rslt) (a b c : Word) : Rslt :=
  let h (w : Word) := w.toNat / 2 ^ 16
  let l (w : Word) := w.toNat % 2 ^ 16
  let lo := op (l a) (l b) (l c)
  let hi := op (h a) (h b) (h c)
  ⟨lo.bits + hi.bits * 2 ^ 16, lo.flags ||| hi.flags⟩

/-- A packed instruction. -/
def Gid.pk (g : Gid) (f : RForm) (op : Nat → Nat → Nat → Rslt) : Gid :=
  g.putF 1 f.d (fun l => packed op (g.word l f.a f.lit) (g.word l f.b f.lit) (g.word l f.p.c f.lit))

/-- `hadd.f16x2` (R272). -/
def execHaddF16x2 (f : RForm) (s : State) : Out := s.retire (fun g => g.pk f (fun a b _ => f16.add f.p.rm.toNat a b))
/-- `hmul.f16x2` (R272). -/
def execHmulF16x2 (f : RForm) (s : State) : Out := s.retire (fun g => g.pk f (fun a b _ => f16.mul f.p.rm.toNat a b))
/-- `hfma.f16x2` (R272). -/
def execHfmaF16x2 (f : RForm) (s : State) : Out := s.retire (fun g => g.pk f (fun a b c => f16.fma f.p.rm.toNat a b c))
/-- `hadd.bf16x2` (R272). -/
def execHaddBf16x2 (f : RForm) (s : State) : Out := s.retire (fun g => g.pk f (fun a b _ => bf16.add f.p.rm.toNat a b))
/-- `hmul.bf16x2` (R272). -/
def execHmulBf16x2 (f : RForm) (s : State) : Out := s.retire (fun g => g.pk f (fun a b _ => bf16.mul f.p.rm.toNat a b))
/-- `hfma.bf16x2` (R272). -/
def execHfmaBf16x2 (f : RForm) (s : State) : Out :=
  s.retire (fun g => g.pk f (fun a b c => bf16.fma f.p.rm.toNat a b c))

/-! ### Conversions (R274 to R280) -/

/-- The source type code of a conversion: b[4:0] (R220). -/
def srcCode (f : RForm) : Nat := f.b.toNat % 32

/-- Words of a value of a type code: two for f64, s64 and n64. -/
def codeWords (c : Nat) : Nat := if c = 0 ∨ c = 19 ∨ c = 23 then 2 else 1

/-- The operand of a type code, as a number. -/
def Gid.cop (g : Gid) (c : Nat) (l : Nat) (v : BitVec 7) (lit : Word) : Nat :=
  if c < 4 then g.fop c l v lit
  else if codeWords c = 2 then (g.dword l v lit (intSigned c)).toNat
  else (g.word l v lit).toNat

/-- `cvt` (R275). -/
def execCvt (c : BitVec 5) (f : RForm) (s : State) : Out :=
  s.retire (fun g => g.putF c.toNat f.d (fun l =>
    (fmtOf c.toNat).round f.p.rm.toNat ((fmtOf (srcCode f)).decode (g.fop (srcCode f) l f.a f.lit))))

/-- One value of `cvti` (R276). -/
def cvtInt (rm cs cd x : Nat) : Rslt :=
  if cs < 4 then cvtF2I ((fmtOf cs).decode x) cd rm
  else if cd < 4 then cvtI2F cs x (fmtOf cd) rm
  else cvtI2I cs cd x

/-- `cvti` (R276). -/
def execCvti (c : BitVec 5) (f : RForm) (s : State) : Out :=
  s.retire (fun g =>
    let r (l : Nat) := cvtInt f.p.rm.toNat (srcCode f) c.toNat (g.cop (srcCode f) l f.a f.lit)
    (g.putAll f.d (fun l => splitN (codeWords c.toNat) (r l).bits)).stick (g.orFlags (fun l => (r l).flags)))

/-- A block word (Table 4 of R277). -/
def blockWord (mu scale elem : Nat) : Word := BitVec.ofNat 32 (mu * 2 ^ 16 + scale * 2 ^ 8 + elem)

/-- The values of block `j` of the gang: an inactive lane gives +0 (R278). -/
def Gid.blockVals (g : Gid) (n : Nat) (val : Nat → Num) (j : Nat) : List Num :=
  (List.range n).map (fun i => if g.isActive (n * j + i) then val (n * j + i) else .fin false 0 0)

/-- The blocks that hold an active lane. -/
def Gid.blocks (g : Gid) (n : Nat) : List Nat :=
  (List.range (64 / n)).filter (fun j => (List.range n).any (fun i => g.isActive (n * j + i)))

/-- Flags of a block over its active lanes (R278). -/
def Gid.blockFlags (g : Gid) (n j : Nat) (nan : Bool) (fl : Nat → Nat) : Nat :=
  (List.range n).foldl (fun a i => if g.isActive (n * j + i) then a ||| fl i else a) (nvIf nan)

/-- The element `i` of a block's values under its scale and micro-exponents (R182, R185). -/
def blockElem (c scale mu i : Nat) (v : Num) : Rslt :=
  if c ≤ 6 then mxElem c scale v else ybElem c scale (mu / 2 ^ (i / 2) % 2) v

/-- Scale and micro-exponents of a block. -/
def blockScale (c : Nat) (vs : List Num) : Nat × Nat :=
  if c ≤ 6 then (mxScale c vs, 0) else (ybExp vs, ybMu (ybExp vs) vs)

/-- `cvtq` (R278). -/
def execCvtq (c : BitVec 5) (f : RForm) (s : State) : Out :=
  let g := s.g
  let n := blockLen c.toNat
  let val (l : Nat) := (fmtOf (srcCode f)).decode (g.fop (srcCode f) l f.a f.lit)
  let vs (j : Nat) := g.blockVals n val j
  let sc (j : Nat) := blockScale c.toNat (vs j)
  let el (l : Nat) := blockElem c.toNat (sc (l / n)).1 (sc (l / n)).2 (l % n) (val l)
  let flags := (g.blocks n).foldl (fun a j =>
    a ||| g.blockFlags n j ((vs j).any Num.isNan) (fun i => (el (n * j + i)).flags)) 0
  s.compute f.d 1 (fun l => [blockWord (sc (l / n)).2 (sc (l / n)).1 (el l).bits]) flags 16

/-- `dcvtq` (R279): each lane decodes its own block word. -/
def execDcvtq (c : BitVec 5) (f : RForm) (s : State) : Out :=
  let g := s.g
  let r (l : Nat) : Rslt :=
    let w := (g.word l f.a f.lit).toNat
    (fmtOf c.toNat).round f.p.rm.toNat
      (blockDecode (srcCode f) (w / 2 ^ 8 % 256) (w / 2 ^ 16 % 256) (w % 256) (l % blockLen (srcCode f)))
  s.compute f.d (if c = 0 then 2 else 1) (fun l => fwords c.toNat (r l).bits) (g.orFlags (fun l => (r l).flags)) 16

/-- The draws of the active lanes in ascending order, and the state after them (R187). -/
def rngDraws : Dword → Nat → List Nat × Dword
  | st, 0 => ([], st)
  | st, n + 1 =>
    let (st', v) := rngNext st
    let (vs, e) := rngDraws st' n
    (field v 63 40 :: vs, e)

/-- One value rounded stochastically to f16 or bf16 (R280): never an infinity, never OF. -/
def sroundF (f : Fmt) (g : Nat) (v : Num) : Rslt :=
  match v with
  | .nan s => ⟨f.nanBits, nvIf s⟩
  | .inf n => ⟨(if n then f.signBit else 0) + f.infBits - 1, flSAT⟩
  | .fin n m e =>
    let r := sroundCode f.fb f.qmin (f.infBits - 1) (2 ^ (f.fb + 1) - 1, (2 ^ f.eb - 2 : Nat) - f.bias - f.fb) g m e
    ⟨(if n && decide (r.bits ≠ 0) then f.signBit else 0) + r.bits, r.flags⟩

/-- One element of a block rounded stochastically (R280). -/
def sroundElem (c scale mu g : Nat) (v : Num) : Rslt :=
  if scale = 0xFF then ⟨0, match v with | .nan s => nvIf s | _ => 0⟩
  else if c ≤ 6 then
    let f := elemOf c
    let sg := 2 ^ (f.eb + f.fb)
    match v with
    | .nan _ => ⟨0, 0⟩
    | .inf n => ⟨(if n then sg else 0) + f.top, flSAT⟩
    | .fin n m e =>
      let r := sroundCode f.fb f.qmin f.top (f.mag f.top) g m (e + 127 - scale)
      ⟨(if n && decide (r.bits ≠ 0) then sg else 0) + r.bits, r.flags⟩
  else
    let k := ybM c
    match v with
    | .nan _ => ⟨0, 0⟩
    | .inf n => ⟨(if n then 2 ^ k else 0) + (2 ^ k - 1), flSAT⟩
    | .fin n m e =>
      let u := e - ((scale : Int) - 127 - mu - (k - 1))
      let r : Rslt :=
        if numLt (.fin false (2 ^ k - 1) 0) (.fin false m u) then ⟨2 ^ k - 1, flSAT⟩
        else if 0 ≤ u then ⟨m * 2 ^ u.toNat, 0⟩
        else
          let j := (-u).toNat
          if m % 2 ^ j = 0 then ⟨m / 2 ^ j, 0⟩
          else ⟨if g < m % 2 ^ j * 2 ^ 24 / 2 ^ j then m / 2 ^ j + 1 else m / 2 ^ j, flNX⟩
      ⟨(if n && decide (r.bits ≠ 0) then 2 ^ k else 0) + r.bits, r.flags⟩

/-- `cvts` (R280): every active lane draws once, at issue. A block that holds any NaN raises NV, as `mx_encode` and `yb_encode` do
(DESIGN CHOICE, log entry 105). -/
def execCvts (c : BitVec 5) (f : RForm) (s : State) : Out :=
  let g := s.g
  let (draws, st) := rngDraws g.rng g.actives.length
  let draw (l : Nat) := draws.getD (g.actives.filter (· < l)).length 0
  let val (l : Nat) := f32.decode (g.word l f.a f.lit).toNat
  let n := blockLen c.toNat
  let vs (j : Nat) := g.blockVals n val j
  let sc (j : Nat) := blockScale c.toNat (vs j)
  let r (l : Nat) : Rslt :=
    if c.toNat < 4 then sroundF (fmtOf c.toNat) (draw l) (val l)
    else
      let e := sroundElem c.toNat (sc (l / n)).1 ((sc (l / n)).2 / 2 ^ (l % n / 2) % 2) (draw l) (val l)
      ⟨(blockWord (sc (l / n)).2 (sc (l / n)).1 e.bits).toNat, e.flags⟩
  let nan := if c.toNat < 4 then 0 else nvIf ((g.blocks n).any (fun j => (vs j).any Num.isNan))
  if g.flagRoom (g.flagFor f.d) then
    let s := s.onGid (fun g => { g with rng := st })
    s.compute f.d 1 (fun l => [BitVec.ofNat 32 (r l).bits]) (nan ||| g.orFlags (fun l => (r l).flags)) 16
  else .next s

/-! ### Cross-lane (R282 to R285); in protected mode the primary lanes exchange (R388) -/

/-- The lane whose operands lane `l` uses: itself, or the primary of its pair (DEDUCED, log entry 20). -/
def Gid.prim (g : Gid) (l : Nat) : Nat := if g.prot then l - l % 2 else l

/-- The home lane with a lane id. -/
def Gid.homeOf (g : Gid) (id : Nat) : Nat := if g.prot then 2 * id else id

/-- The lanes that exchange values, ascending. -/
def Gid.peers (g : Gid) : List Nat := if g.prot then g.actives.filter (· % 2 == 0) else g.actives

/-- W as the gang sees it. -/
def Gid.lanesPerGang (g : Gid) : Nat := if g.prot then g.width / 2 else g.width

/-- Whether the lane with id `k` exists and is active. -/
def Gid.has (g : Gid) (k : Nat) : Bool := decide (k < g.lanesPerGang) && g.isActive (g.homeOf k)

/-- A form with operands that the elected lane supplies: in protected mode they are compared first (R389). -/
def State.uniform (s : State) (f : RForm) (ops : List (BitVec 7)) (act : Gid → Gid) : Out :=
  .next (s.guarded (s.g.supplied (fun l => ops.map (fun x => (s.g.word l x f.lit).zeroExtend 64))) (fun s =>
    s.onGid (fun g => (act g).advance)))

/-- `bcast` (R283). -/
def execBcast (f : RForm) (s : State) : Out :=
  s.uniform f [f.a] (fun g => g.putAll f.d (fun _ => [g.word g.elected f.a f.lit]))

/-- `rdlane` (R283). -/
def execRdlane (f : RForm) (s : State) : Out :=
  s.uniform f [f.b] (fun g =>
    let k := (g.word g.elected f.b f.lit).toNat
    g.putAll f.d (fun _ => [if g.has k then g.word (g.homeOf k) f.a f.lit else 0]))

/-- `wrlane` (R283). -/
def execWrlane (f : RForm) (s : State) : Out :=
  s.uniform f [f.a, f.b] (fun g =>
    let k := (g.word g.elected f.b f.lit).toNat
    if g.has k then g.putOn (fun l => g.laneId l == k) f.d (fun _ => [g.word g.elected f.a f.lit]) (fun _ => false)
    else g)

/-- `vote.any` (R284). -/
def execVoteAny (f : RForm) (s : State) : Out :=
  s.retire (fun g => g.putMask f.d (fun _ => g.peers.any (fun l => g.mbit l f.a.toNat)))

/-- `vote.all` (R284). -/
def execVoteAll (f : RForm) (s : State) : Out :=
  s.retire (fun g => g.putMask f.d (fun _ => g.peers.all (fun l => g.mbit l f.a.toNat)))

/-- `vote.uni` (R284). -/
def execVoteUni (f : RForm) (s : State) : Out :=
  s.retire (fun g => g.putMask f.d (fun _ => g.peers.all (fun l => g.mbit l f.a.toNat == g.mbit g.elected f.a.toNat)))

/-- `ballot` (R284). -/
def execBallot (f : RForm) (s : State) : Out :=
  s.retire (fun g =>
    let v := g.peers.foldl (fun a l => if g.mbit l f.a.toNat then a + 2 ^ g.laneId l else a) 0
    g.putAll f.d (fun _ => splitN 2 v))

/-- `elect` (R284). -/
def execElect (f : RForm) (s : State) : Out :=
  s.retire (fun g => g.putAll f.d (fun l => [if g.prim l = g.elected then 1 else 0]))

/-- A shuffle: the source lane id from the lane's own id and b (R285). -/
def Gid.shuffle (g : Gid) (f : RForm) (src : Nat → Nat → Option Nat) : Gid :=
  g.putAll f.d (fun l =>
    let p := g.prim l
    match src (g.laneId p) (g.word p f.b f.lit).toNat with
    | some k => [if g.has k then g.word (g.homeOf k) f.a f.lit else g.word p f.a f.lit]
    | none => [g.word p f.a f.lit])

/-- `shfl.idx` (R285). -/
def execShflIdx (f : RForm) (s : State) : Out := s.retire (fun g => g.shuffle f (fun _ b => some b))
/-- `shfl.up` (R285). -/
def execShflUp (f : RForm) (s : State) : Out :=
  s.retire (fun g => g.shuffle f (fun l b => if b ≤ l then some (l - b) else none))
/-- `shfl.down` (R285). -/
def execShflDown (f : RForm) (s : State) : Out := s.retire (fun g => g.shuffle f (fun l b => some (l + b)))
/-- `shfl.xor` (R285). -/
def execShflXor (f : RForm) (s : State) : Out := s.retire (fun g => g.shuffle f (fun l b => some (l ^^^ b)))

/-- The operations of `reduce` and `scan`, in fn order (R285). -/
def combine (o : Nat) (a b : Word) : Word :=
  match o with
  | 0 => a + b
  | 1 => minS 32 a b
  | 2 => minN 32 a b
  | 3 => maxS 32 a b
  | 4 => maxN 32 a b
  | 5 => a &&& b
  | 6 => a ||| b
  | _ => a ^^^ b

/-- The combination of a list, in its order. -/
def combineAll (o : Nat) : List Word → Word
  | [] => 0
  | w :: ws => ws.foldl (combine o) w

/-- `reduce` (R285). -/
def execReduce (o : BitVec 3) (f : RForm) (s : State) : Out :=
  s.retire (fun g => g.putAll f.d (fun _ => [combineAll o.toNat (g.peers.map (fun l => g.word l f.a f.lit))]))

/-- `scan` (R285). -/
def execScan (o : BitVec 3) (f : RForm) (s : State) : Out :=
  s.retire (fun g => g.putAll f.d (fun l =>
    [combineAll o.toNat ((g.peers.filter (fun k => decide (k ≤ g.prim l))).map (fun k => g.word k f.a f.lit))]))

end Sys2Proof.Machine
end

