-- ==== Sys2Proof/Machine/Caches.lean ====
section
/-!
DEFINITION. The L2s as caching agents (03 R89 to R91, 04 R110, R114, R121 to R124) and the L1s of the pairs (02 R64 to
R66, 03 R84 to R88), with the tentative buffer (14 R385, R386).
-/

namespace Sys2Proof.Machine

/-! ### Requests on the die -/

/-- A request by its number. -/
def State.req (s : State) (id : Nat) : Req := Tab.get { kind := .fill, core := 0 } s.reqs id

/-- A request changes. -/
def State.updReq (s : State) (id : Nat) (f : Req → Req) : State := { s with reqs := Tab.ins s.reqs id (f (s.req id)) }

/-- A request is made. -/
def State.newReq (s : State) (r : Req) : Nat × State :=
  let (id, s) := s.fresh
  (id, { s with reqs := Tab.ins s.reqs id r })

/-- A promotion whose last write-back is complete is answered (R121 step 4). -/
def State.endPromotions (s : State) (id : Nat) : State :=
  let mine (p : Promotion) : Bool := p.waits == [id]
  let s' := { s with promotions := (s.promotions.filter (fun p => !mine p)).map (fun p => { p with waits := p.waits.filter (· != id) }) }
  (s.promotions.filter mine).foldl (fun (s : State) p =>
    s.send p.chip p.home { p.m with cls := 0x48, mask := p.mask, data := p.data, ndata := if p.mask = 0 then 0 else 4 }) s'

/-- The chiplet of a request's core. -/
def Req.chip (r : Req) : Nat := chipOf (pairOf r.core)

/-- A request is complete: nothing waits for it any more. -/
def State.endReq (s : State) (id : Nat) : State :=
  let r := s.req id
  let s := ({ s with reqs := Tab.del s.reqs id }).unpend r.gid id
  if r.kind = .write then s.endPromotions id else s

/-- A cause reported to a gang id after its instruction issued (R247): taken before its next instruction. -/
def State.report (s : State) (k : Nat) (st : Stop) : State :=
  if (Tab.find s.gids k).isNone then s else s.updGid k (fun g => { g with reports := g.reports ++ [st] })

/-- Classes of request that carry no bytes: their MASK and data are zero (Table 3 of R107). -/
def bareClass (c : BitVec 8) : Bool := c == 0x01 || c == 0x02 || c == 0x03 || c == 0x06 || c == 0x0B

/-- A chiplet sends a request on behalf of request `id` (R70, R107) and keeps it under its tag. -/
def State.sendTx (s : State) (port target : Nat) (cls : BitVec 8) (ln id lane : Nat) (m : Msg) : State :=
  let tag := s.newTag port
  let s := s.keepTx port tag { cls := cls, line := ln, target := target, req := id, lane := lane, issued := s.ptime }
  let m := if bareClass cls then { m with mask := 0, data := 0 } else m
  s.send port target { m with cls := cls, tag := BitVec.ofNat 16 tag, line := BitVec.ofNat 41 ln }

/-- The master and tenant of a request in its message. -/
def Req.msg (r : Req) : Msg :=
  { cls := 0, master := r.master, tenant := r.tenant, mask := r.mask, data := r.data, scope := r.scope, acq := r.acq }

/-- A request that goes straight to its target (NCRD, NCWR, ACQRD, AMO, RELREC, ZWR): its class is in the request. -/
def State.direct (s : State) (id : Nat) : State :=
  let r := s.req id
  s.sendTx r.chip (if r.target = 0 then s.targetOf (128 * r.pline) else r.target) r.cls r.pline id r.lane
    { r.msg with pair := BitVec.ofNat 9 (pairOf r.core) }

/-! ### Replies to loads (R98, R247) -/

/-- Bytes of a line as register words: sub-word loads extended by the signedness of SZ (R243). -/
def loadWords (l : Line) (off : Nat) (sz : BitVec 3) : List Word :=
  let b (n : Nat) : Nat := l.toNat / 2 ^ (8 * off) % 2 ^ (8 * n)
  match sz.toNat with
  | 0 => [BitVec.ofNat 32 (b 1)]
  | 1 => [(BitVec.ofNat 8 (b 1)).signExtend 32]
  | 2 => [BitVec.ofNat 32 (b 2)]
  | 3 => [(BitVec.ofNat 16 (b 2)).signExtend 32]
  | 4 => splitN 1 (b 4)
  | 5 => splitN 2 (b 8)
  | _ => splitN 4 (b 16)

/-- Registers of a load of size SZ (R243). -/
def szRegs (sz : BitVec 3) : Nat := match sz.toNat with
  | 5 => 2
  | 6 => 4
  | _ => 1

/-- Bytes of an access of size SZ (R243). -/
def szBytes (sz : BitVec 3) : Nat := match sz.toNat with
  | 0 | 1 => 1
  | 2 | 3 => 2
  | 4 => 4
  | 5 => 8
  | _ => 16

/-- Lane `l` of a gang id writes words to a destination, with a taint; a y destination belongs to the gang id. -/
def Gid.writeLane (g : Gid) (l : Nat) (d : BitVec 7) (vs : List Word) (taint : Bool) : Gid :=
  let n := d.toNat
  if n < 96 ∨ (112 ≤ n ∧ n < 116) then g.mapLanes (fun k t => if k = l then t.put n vs taint else t)
  else if n < 112 then
    { g with y := putFrom g.y (n - 96) vs, ytaint := putFrom g.ytaint (n - 96) (List.replicate vs.length taint) }
  else g

/-- The lanes of an operation whose data request `id` brings. -/
def Op.lanesOf (o : Op) (id : Nat) : List LaneLoad := o.loads.filter (fun ll => ll.req == id && !ll.arrived)

/-- The data of request `id` reach the destinations of its lanes; a y destination takes the lowest lane's (R166). -/
def Gid.loadInto (g : Gid) (o : Op) (id : Nat) (bytes : Line) : Gid :=
  let low := (o.loads.map LaneLoad.lane).foldl min 64
  (o.lanesOf id).foldl (fun g ll =>
    if 96 ≤ o.dst.toNat ∧ o.dst.toNat < 112 ∧ ll.lane ≠ low then g
    else g.writeLane ll.lane o.dst (loadWords bytes (ll.ea.toNat % 128) o.sz) o.cons) g

/-- The lanes of request `id` are marked arrived. -/
def Op.markArrived (o : Op) (id : Nat) : Op :=
  let m := maskOf ((o.lanesOf id).map (·.lane))
  { o with loads := o.loads.map (fun ll => if ll.req = id then { ll with arrived := true } else ll)
           outstanding := o.outstanding &&& ~~~m, arrived := o.arrived ||| (m &&& o.outstanding) }

/-- The cause a reply reports, if any: access denied, then poison (R370). -/
def causeOf (d : LineData) : Option (BitVec 8) :=
  if d.denied then some 0x18 else if d.poison then some 0x14 else none

/-- Fills of a pair on their way are not installed: clean words were invalidated meanwhile. -/
def State.staleFills (s : State) (pair : Nat) (f : Req → Bool) : State :=
  { s with reqs := s.reqs.map (fun e =>
      if e.2.kind = .fill ∧ pairOf e.2.core = pair ∧ f e.2 = true then (e.1, { e.2 with stale := true }) else e) }

/-- Clean words of the lines `f` names are invalidated (R87, R136). -/
def State.invalidateClean (s : State) (pair : Nat) (f : L1Line → Bool) (fr : Req → Bool) : State :=
  (s.updPair pair (fun p =>
    { p with l1 := (p.l1.map (fun l => if f l then { l with valid := l.dirty } else l)).filter (fun l => l.valid != 0 || !f l) })).staleFills
      pair fr

/-- Clean words of a physical line are invalid in a pair's L1, and fills of it on their way are not installed. -/
def State.dropClean (s : State) (pair pline : Nat) : State :=
  s.invalidateClean pair (fun l => l.pline == pline) (fun r => r.pline == pline)

/-- A load that does not park is complete when every lane has its data (R251): its registers are free. -/
def State.settleLoad (s : State) (op : Nat) : State :=
  match Tab.find s.ops op with
  | none => s
  | some o => if o.outstanding = 0 then ({ s with ops := Tab.del s.ops op }).unpend o.gid op else s

/-- A line reaches a load that does not park (R247, R252): the lanes write, or report the cause and write nothing; a
matrix operation or `tcload` keeps the line until it has them all. What came past L1 is newer than clean words of the line there, which the
thread may not read after it (R139): they are invalid. -/
def State.loadArrived (s : State) (id : Nat) (d : LineData) : State :=
  let r := s.req id
  match Tab.find s.ops r.op with
  | none => s.endReq id
  | some o =>
    if o.kind = .matrix ∨ o.kind = .engine then s.updReq id (fun r => { r with reply := some d }) else
    let s := s.endReq id
    let s := match causeOf d with
      | some c => s.report o.gid { cause := c, lane := (((o.lanesOf id).map LaneLoad.lane).headD 0) }
      | none => s.updGid o.gid (fun g => g.loadInto o id (mergeLine d.bytes r.data r.mask))
    let s := if r.kind = .fill ∨ r.cls = 0x06 then s else s.dropClean (pairOf r.core) r.pline
    ({ s with ops := Tab.ins s.ops r.op (o.markArrived id) }).settleLoad r.op

/-! ### The L1 (R84 to R88) -/

/-- SPSPLIT.STEPS of a pair (Table 3 of R79). -/
def State.steps (s : State) (pair : Nat) : Nat := field (s.reg (chipOf pair) (0x60000 + 8 * (pair % 32))) 3 0

/-- Sets of a pair's L1 (R84). -/
def State.nsets (s : State) (pair : Nat) : Nat := 512 * (12 - s.steps pair)

/-- The line of a pair's L1 with a tag (R64). -/
def Pair.line (p : Pair) (asid kslot vline : Nat) : Option L1Line :=
  p.l1.find? (fun l => l.asid == asid && l.kslot == kslot && l.vline == vline)

/-- Two lines of one tag. -/
def L1Line.sameTag (a b : L1Line) : Bool := a.asid == b.asid && a.kslot == b.kslot && a.vline == b.vline

/-- A line replaces the one of its tag. -/
def Pair.setLine (p : Pair) (l : L1Line) : Pair :=
  if p.l1.any l.sameTag then { p with l1 := p.l1.map (fun o => if l.sameTag o then l else o) }
  else { p with l1 := p.l1 ++ [l] }

/-- A line leaves the L1. -/
def Pair.dropLine (p : Pair) (l : L1Line) : Pair := { p with l1 := p.l1.filter (fun o => !l.sameTag o) }

/-- The dirty words whose last writer was the core with a pair-core bit (R70). -/
def L1Line.dirtyOf (l : L1Line) (bit : Nat) : BitVec 32 := if bit = 0 then l.dirty &&& ~~~l.by1 else l.dirty &&& l.by1

/-- The team of a kernel slot on a pair that holds its stores tentatively (R385). -/
def State.tentative (s : State) (pair kslot : Nat) : Option Nat :=
  (s.teams.find? (fun e => e.2.pair == pair && e.2.kslot == kslot && e.2.rst)).map (·.1)

/-- The tentative buffer's capacity in line masks (R385). -/
def heldMax : Nat := 8192

/-! ### The L2 (R89, R110) -/

/-- The slice of a line (R42). -/
def State.sliceOf (s : State) (chip ln : Nat) : Nat :=
  let pa := 128 * ln
  let bit (n : Nat) : Nat := if n ≤ 47 then pa / 2 ^ n % 2 else 0
  let g := (List.range 6).foldl (fun a k =>
    a + ((List.range 7).foldl (fun x j => x ^^^ bit (7 + k + 6 * j)) 0) * 2 ^ k) 0
  field (s.reg chip (0xE8000 + g - g % 8)) (8 * (g % 8) + 4) (8 * (g % 8))

/-- Stable states: no transaction of the line is open. -/
def L2State.stable : L2State → Bool
  | .i | .s | .e | .o | .m => true
  | _ => false

/-- Master identifier of a chiplet's L2 (Table 10 of R69). -/
def l2Master (chip : Nat) : BitVec 12 := BitVec.ofNat 12 (2176 + chip)

/-- The L2 replaces a line (Table 6): S silently, E by PUTE, O and M by PUTX. -/
def State.evictL2 (s : State) (chip ln : Nat) : State :=
  let l := s.l2Line chip ln
  if l.pin ≠ none ∨ l.waiters ≠ [] then s
  else match l.st with
    | .s => s.setL2 chip ln {}
    | .e => (s.setL2 chip ln { l with st := .eiB }).sendTx chip (s.homeOf (128 * ln)) 0x05 ln 0 0
        { cls := 0, master := l2Master chip }
    | .o => (s.setL2 chip ln { l with st := .miB }).sendTx chip (s.homeOf (128 * ln)) 0x04 ln 0 0
        { cls := 0, master := l2Master chip, data := l.data, poison := l.poison }
    | .m => (s.setL2 chip ln { l with st := .miB }).sendTx chip (s.homeOf (128 * ln)) 0x04 ln 0 0
        { cls := 0, master := l2Master chip, data := l.data, poison := l.poison }
    | _ => s

/-- L2_EVICT (R110): a replacement of the L2's own choice. -/
def execL2Evict (chip line : Nat) (s : State) : Out := .next (s.evictL2 chip line)

/-- Two lines of a chiplet's L2 that share a set (R42, R89). -/
def State.sameSet (s : State) (chip a b : Nat) : Bool := a % 6144 == b % 6144 && s.sliceOf chip a == s.sliceOf chip b

/-- A state in which a line takes one of its set's ways: what waits for a write-back stands in a buffer apart (R110). -/
def L2State.inWay : L2State → Bool
  | .s | .e | .o | .m | .isD | .imD | .smG => true
  | .i | .miB | .eiB => false

/-- Room in the set of a line (R89: 16 ways, 6,144 sets of 32 slices): where it is full, a line of the hardware's choice
is replaced; none where every way is pinned or in transition. -/
def State.roomL2 (s : State) (chip ln : Nat) : Option State :=
  let ways := s.l2.filter (fun e => e.1 / 2 ^ 41 == chip && e.1 != l2Key chip ln && e.2.st.inWay
    && s.sameSet chip (e.1 % 2 ^ 41) ln)
  let free := (ways.filter (fun e => e.2.st.stable && e.2.pin.isNone && e.2.waiters.isEmpty)).map (·.1 % 2 ^ 41)
  if ways.length < 16 then some s
  else if free = [] then none
  else
    let (k, s) := s.pick free.length
    some (s.evictL2 chip (free.getD k 0))

/-- The L2 supplies a line to a walk, which goes on (R62). -/
def State.walkLine (s : State) (id ln : Nat) (d : LineData) : State :=
  match Tab.find s.walks id with
  | none => s
  | some w =>
    let got : Option Line := if d.denied || d.poison then none else some d.bytes
    { s with walks := Tab.ins s.walks id { w with got := Tab.ins w.got ln got, req := 0 } }.soonOnce
      (.tlbWalk w.cluster w.launch (BitVec.ofNat 64 w.va) w.right)

/-- A reply to a request served by the L2: to an L1 fill, to a load, or kept for an engine or matrix operation. -/
def State.replyReq (s : State) (id : Nat) (d : LineData) : State :=
  let r := s.req id
  match r.kind with
  | .fill => s.later (ccNs 24) (.l1FillReturn id d)
  | .walk => { s with reqs := Tab.del s.reqs id }.walkLine r.op r.pline d
  | .prefetch =>
    let s := s.endReq id
    if d.denied then s.report r.gid { cause := 0x18, lane := r.lane } else s
  | .engine => (s.updReq id (fun r => { r with reply := some d })).unpend r.gid id
  | _ =>
    match Tab.find s.ops r.op with
    | some o => if o.kind = .galley then s.later (ccNs 24) (.galleyReply id d) else s.loadArrived id d
    | none => s.endReq id

/-- A denied write-back is charged to the launch resident in its kernel slot of the pair under its ASID (R247), or reported by the
`dmma` that caused it (R308). -/
def State.chargeDenied (s : State) (r : Req) : State :=
  if r.report then s.report r.gid { cause := 0x18 }
  else
  let p := s.pair (pairOf r.core)
  match if r.kslot = 0 then p.k0 else p.k1 with
  | some l => if (s.launch l).asid = r.asid then s.endLaunch l 0x18 else s
  | none => s

/-- The words of a write-back land in the line (R87): poison is cleared by a write of every byte only (R129). -/
def L2Line.merge (l : L2Line) (r : Req) : L2Line :=
  { l with st := .m, data := mergeLine l.data r.data r.mask, poison := l.poison && r.mask != fullMask }

/-- A request goes to the home for a line that the L2 does not hold, where its set has room; else it waits. -/
def State.missL2 (s : State) (chip ln id : Nat) (st : L2State) (cls : BitVec 8) : Bool × State :=
  match s.roomL2 chip ln with
  | none => (false, s)
  | some s => (false, ((s.updReq id (fun r => { r with asked := true })).updL2 chip ln (fun l => { l with st := st })).sendTx chip
      (s.homeOf (128 * ln)) cls ln id 0 (s.req id).msg)

/-- A request upgrades a copy in S or O, or asks for its own core on a line in M (R70). -/
def State.upgradeL2 (s : State) (chip ln id : Nat) (owned : Bool) : Bool × State :=
  (false, ((s.updReq id (fun r => { r with asked := true })).updL2 chip ln (fun l => { l with st := .smG, owned := owned })).sendTx chip
    (s.homeOf (128 * ln)) 0x03 ln id 0 (s.req id).msg)

/-- A write-back lands in a line held in E or M. Where it asked the home for its own core, the words of the pair's other core in
the same write-back ask too (R70). -/
def State.landL2 (s : State) (chip ln id : Nat) : State :=
  let r := s.req id
  let s := if r.asked ∧ (Tab.find s.reqs r.twin).isSome then s.updReq r.twin (fun q => { q with mustAsk := true }) else s
  (s.setL2 chip ln ((s.l2Line chip ln).merge r)).endReq id

/-- A PWB for words of a pair (R121 step 3, R122). -/
def State.sendPwb (s : State) (chip id : Nat) : State :=
  let r := s.req id
  (s.updReq id (fun r => { r with cls := 0x0D })).sendTx chip (s.homeOf (128 * r.pline)) 0x0D r.pline id 0 r.msg

/-- A release record of a line is on its way from a pair: the pair's words of the line wait for it, so that no reader finds them
before the record (R119, R144) (DEDUCED, log entry 34). -/
def State.recording (s : State) (pair ln : Nat) : Bool :=
  s.reqs.any (fun e => e.2.cls == 0x0C && e.2.pline == ln && pairOf e.2.core == pair)

/-- One request at the head of its line's queue (Table 6): whether it is done with the L2, and the state after. An engine's
destination line is pinned from its grant on (R123), as WT too (R124). A request that was given up meanwhile is done. -/
def State.serveL2 (s : State) (chip ln id : Nat) : Bool × State :=
  let r := s.req id
  let l := s.l2Line chip ln
  let isWrite := decide (r.kind = .write)
  let owns := isWrite || (decide (r.kind = .engine) && r.cls == 0x02)
  let pinned := match l.pin with
    | none => false
    | some c => c != r.op
  let reply : LineData := { bytes := l.data, poison := l.poison }
  if (Tab.find s.reqs id).isNone then (true, s)
  else if pinned || (isWrite && (r.cls == 0x08 || s.recording (pairOf r.core) ln)) then (false, s)
  else match l.st with
  | .isD | .imD | .smG | .miB | .eiB => (false, s)
  | .i =>
    if isWrite && r.cls == 0x0D then (true, s.sendPwb chip id)
    else if owns then s.missL2 chip ln id .imD 0x02 else s.missL2 chip ln id .isD 0x01
  | .m | .e =>
    if isWrite then
      if r.mustAsk && !r.asked then s.upgradeL2 chip ln id true else (true, s.landL2 chip ln id)
    else if owns then (true, (s.setL2 chip ln { l with st := .m, pin := some r.op }).replyReq id reply)
    else (true, s.replyReq id reply)
  | .s | .o =>
    if !owns then (true, s.replyReq id reply)
    else if isWrite && r.cls == 0x0D then (true, s.sendPwb chip id)
    else if l.wt && l.st == .s then
      if isWrite then (false, (s.updReq id (fun r => { r with cls := 0x08 })).sendTx chip (s.homeOf (128 * ln)) 0x08 ln id 0 r.msg)
      else (true, (s.setL2 chip ln { l with pin := some r.op }).replyReq id reply)
    else s.upgradeL2 chip ln id (l.st == .o)

/-- The requests of a line are served in order, as far as its state lets them (R110). -/
def State.drainList (chip ln : Nat) : List Nat → State → State
  | [], s => s.updL2 chip ln (fun l => { l with waiters := [] })
  | id :: rest, s =>
    let (done, s) := s.serveL2 chip ln id
    if done then State.drainList chip ln rest s else s.updL2 chip ln (fun l => { l with waiters := id :: rest })

/-- The waiting requests of a line go on. -/
def State.drainL2 (s : State) (chip ln : Nat) : State := State.drainList chip ln (s.l2Line chip ln).waiters s

/-- A line of a set has become stable or gone: requests that wait for a way of the set go on (R89). -/
def State.wakeSet (s : State) (chip ln : Nat) : State :=
  (s.l2.filter (fun e => e.1 / 2 ^ 41 == chip && e.2.st == .i && e.2.waiters != [] && e.2.pin.isNone
    && s.sameSet chip (e.1 % 2 ^ 41) ln)).foldl (fun (s : State) e => s.drainL2 chip (e.1 % 2 ^ 41)) s

/-- A request joins the queue of its line at the L2 (DEDUCED, log entry 30). -/
def State.requestL2 (s : State) (id : Nat) : State :=
  let r := s.req id
  let ws := (s.l2Line r.chip r.pline).waiters
  if ws = [] then State.drainList r.chip r.pline [id] s
  else s.updL2 r.chip r.pline (fun l => { l with waiters := l.waiters ++ [id] })

/-! ### Write-back (R70, R87) -/

/-- Dirty words go to the L2 for one core: the number of the request, if there are any words. -/
def State.postWords (s : State) (gid core asid kslot pline : Nat) (tenant : BitVec 12) (data : Line) (mask : BitVec 32) (wt : Bool) :
    List Nat × State :=
  if mask = 0 then ([], s)
  else
    let (id, s) := s.newReq
      { kind := .write, core := core, gid := gid, asid := asid, kslot := kslot, pline := pline
        master := BitVec.ofNat 12 core, tenant := tenant, mask := byteMask mask, data := data, wt := wt }
    ([id], s.requestL2 id)

/-- The dirty words of both cores go to the L2: first those of the core with pair-core bit 0, then those of the other, each for its
own core (R70). -/
def State.postBoth (s : State) (gid pair asid kslot pline : Nat) (data : Line) (dirty by1 : BitVec 32) (wt : Bool) : List Nat × State :=
  let ten := s.tenantOf asid
  let (a, s) := s.postWords gid (2 * pair) asid kslot pline ten data (dirty &&& ~~~by1) wt
  let next := s.nextId
  let s := match a with
    | [] => s
    | id :: _ => if (Tab.find s.reqs id).isSome then s.updReq id (fun r => { r with twin := next }) else s
  let (b, s) := s.postWords gid (2 * pair + 1) asid kslot pline ten data (dirty &&& by1) wt
  (a ++ b, s)

/-- The words of a line join the tentative buffer (R385). -/
def State.hold (s : State) (team : Nat) (l : L1Line) : State :=
  s.updTeam team (fun t =>
    let (d, m, b) := Tab.get (0, 0, 0) t.held l.pline
    { t with held := Tab.ins t.held l.pline (mergeLine d l.words (byteMask l.dirty), m ||| l.dirty,
        (b &&& ~~~l.dirty) ||| (l.by1 &&& l.dirty)) })

/-- A line of a pair's L1 is written back (R87): the requests to wait for; its words are clean. -/
def State.writeBack (s : State) (gid pair : Nat) (l : L1Line) : List Nat × State :=
  if l.dirty = 0 then ([], s)
  else
    let s := s.updPair pair (fun p => p.setLine { l with dirty := 0, by1 := 0 })
    match s.tentative pair l.kslot with
    | some t =>
      let s := s.hold t l
      ([], if heldMax ≤ (s.team t).held.length then s.soonOnce (.tentativeBufferFull t) else s)
    | none => s.postBoth gid pair l.asid l.kslot l.pline l.words l.dirty l.by1 l.wt

/-- Several lines are written back. -/
def State.writeBackAll (s : State) (gid pair : Nat) (ls : List L1Line) : List Nat × State :=
  ls.foldl (fun (ids, s) l => let (i, s) := State.writeBack s gid pair l; (ids ++ i, s)) ([], s)

/-- Commit (R386): every held word goes to the L2 and RST falls for the rest of the run. -/
def State.commit (s : State) (gid team : Nat) : List Nat × State :=
  let t := s.team team
  if t.rst then
    let s := s.updTeam team (fun t => { t with rst := false, held := [] })
    t.held.foldl (fun (ids, s) e =>
      let (i, s) := State.postBoth s gid t.pair (s.launch t.launch).asid t.kslot e.1 e.2.1 e.2.2.1 e.2.2.2 false
      (ids ++ i, s)) ([], s)
  else ([], s)

/-- TENTATIVE_BUFFER_FULL (R386). -/
def execTentativeBufferFull (team : Nat) (s : State) : Out := .next (s.commit 0 team).2

/-- Every clean word of a pair's L1 is invalidated (R136, R148, R150). -/
def State.invalidateAllClean (s : State) (pair : Nat) : State := s.invalidateClean pair (fun _ => true) (fun _ => true)

/-- An L1 line is evicted (R87). A fill of the line that was asked for before its words went to the L2 is not installed. -/
def State.evictL1 (s : State) (pair : Nat) (l : L1Line) : List Nat × State :=
  let (ids, s) := s.writeBack 0 pair l
  (ids, (s.updPair pair (fun p => p.dropLine l)).staleFills pair (fun r => r.pline == l.pline))

/-- L1_EVICT (R87): an eviction of the hardware's own choice. -/
def execL1Evict (pair asid slot vline : Nat) (s : State) : Out :=
  match (s.pair pair).line asid slot vline with
  | none => .next s
  | some l => .next (s.evictL1 pair l).2

/-- A line is allocated with every word invalid (R85, R86); where the set is full, a line of the hardware's choice
leaves (R84: 8 ways). -/
def State.allocL1 (s : State) (pair asid kslot vline pline : Nat) (wt : Bool) (ireg : BitVec 12) : State :=
  match (s.pair pair).line asid kslot vline with
  | some _ => s
  | none =>
    let n := s.nsets pair
    let same := (s.pair pair).l1.filter (fun l => l.vline % n == vline % n)
    let s := if same.length < 8 then s else
      let (k, s) := s.pick same.length
      match same[k]? with
      | some l => (s.evictL1 pair l).2
      | none => s
    s.updPair pair (fun p => p.setLine { asid := asid, kslot := kslot, vline := vline, pline := pline, wt := wt, ireg := ireg })

/-- After an L1 miss is translated, a copy of the physical line under another tag is written back and invalidated
(R65); it commits a tentative team (R386). -/
def State.dropAliases (s : State) (pair asid kslot vline pline : Nat) : State :=
  match (s.pair pair).l1.find? (fun l => l.pline == pline && !(l.asid == asid && l.kslot == kslot && l.vline == vline)) with
  | none => s
  | some l =>
    let s := match (if l.dirty = 0 then none else s.tentative pair l.kslot) with
      | some t => (s.commit 0 t).2
      | none => s
    (s.evictL1 pair l).2

/-- Words of a fill that a team's tentative buffer overrides (R385). -/
def State.overlay (s : State) (pair kslot pline : Nat) (d : Line) : Line :=
  match s.tentative pair kslot with
  | none => d
  | some t => match Tab.find (s.team t).held pline with
    | none => d
    | some (w, m, _) => mergeLine d w (byteMask m)

/-- The line a reader of the pair sees: valid L1 words in place of the filled data (R85). -/
def L1Line.over (l : L1Line) (d : Line) : Line := mergeLine d l.words (byteMask l.valid)

/-- L1_FILL_RETURN (R85): the fill of a line returns. Words valid in L1 keep their contents and the others take the
data; the lanes of the load that asked for it take the merged line, and a fetch (R207) keeps it. Poisoned or denied data is not installed (DEDUCED, log entry 31). -/
def execL1FillReturn (id : Nat) (data : LineData) (s : State) : Out :=
  .next (
    match Tab.find s.reqs id with
    | none => s
    | some r =>
      let pair := pairOf r.core
      let d := s.overlay pair r.kslot r.pline data.bytes
      let here := (s.pair pair).line r.asid r.kslot r.vline
      let merged := match here with
        | some l => if l.pline = r.pline then l.over d else d
        | none => d
      let s := match here with
        | some l =>
          if l.pline = r.pline ∧ r.stale = false ∧ data.poison = false ∧ data.denied = false then
            s.updPair pair (fun p => p.setLine { l with words := merged, valid := BitVec.allOnes 32 })
          else s
        | none => s
      if r.fetch then
        let g := s.gid r.gid
        if g.gang.uid = r.op ∨ g.others.any (fun o => o.uid == r.op) = true then
          s.updReq id (fun r => { r with reply := some { data with bytes := merged } })
        else s.endReq id
      else if r.op = 0 then
        let s := s.endReq id
        match causeOf data with
        | some c => s.report r.gid { cause := c, lane := r.lane }
        | none => s
      else match Tab.find s.ops r.op with
        | some o =>
          if o.kind = .galley then s.post s.ptime (.event (.galleyReply id { data with bytes := merged }))
          else s.loadArrived id { data with bytes := merged }
        | none => s.endReq id)

/-! ### Galley (R94 to R100) -/

/-- A set of lanes is released at a galley entry's PC (R98): filed there, each carrying the cause its reply reported. -/
def State.releaseLanes (s : State) (o : Op) (m : BitVec 64) : State :=
  s.updGid o.gid (fun g => g.fileLanes s.ptime (fun l => if m.getLsbD l then some o.pc else none))

/-- The release test (R98), with the SPLIT that the entry issued under (R97); an acquire load is released only whole, after its "after" actions (R250). -/
def State.releaseTest (s : State) (op : Nat) : State :=
  match Tab.find s.ops op with
  | none => s
  | some o =>
    let g := s.gid o.gid
    let split := o.split
    if o.outstanding = 0 then
      let s := if 3 ≤ o.acq.toNat then s.invalidateAllClean (pairOf g.core) else s
      let s := (({ s with ops := Tab.del s.ops op }).releaseLanes o o.arrived).nowOnce (.clauseStart g.core)
      if (s.core g.core).galleyStalls = [] then s else s.soonOnce (.ldGStallRetry g.core)
    else if o.acq = 0 ∧ split ≠ 0 ∧ split ≤ ((List.range 64).filter o.arrived.getLsbD).length then
      (({ s with ops := Tab.ins s.ops op { o with arrived := 0 } }).releaseLanes o o.arrived).nowOnce (.clauseStart g.core)
    else s

/-- GALLEY_REPLY (R98, R99): a line reaches the core. -/
def execGalleyReply (id : Nat) (data : LineData) (s : State) : Out :=
  .next (
    match Tab.find s.reqs id with
    | none => s
    | some r =>
      let s := s.endReq id
      match Tab.find s.ops r.op with
      | none => s
      | some o =>
        let s := match causeOf data with
          | some c => s.updGid o.gid (fun g => g.mapLanes (fun l t =>
              if (o.lanesOf id).any (·.lane == l) then
                { t with report := some (match t.report with
                    | none => c
                    | some c' => if priority c' ≤ priority c then c' else c) }
              else t))
          | none => s.updGid o.gid (fun g => g.loadInto o id (mergeLine data.bytes r.data r.mask))
        let s := { s with ops := Tab.ins s.ops r.op (o.markArrived id) }
        let s := s.releaseTest r.op
        let c := (s.gid o.gid).core
        if (s.core c).galleyStalls = [] then s else s.soonOnce (.ldGStallRetry c))

/-- Requests of an operation are forgotten: a late reply finds nothing (R100). -/
def State.forgetReqs (s : State) (op : Nat) : State :=
  { s with reqs := s.reqs.filter (fun e => e.2.op != op || e.2.kind == .write) }

/-- GALLEY_TIMEOUT (R100): lanes still outstanding 50 µs after issue take the reply-timeout cause; the entry is freed. -/
def execGalleyTimeout (op : Nat) (s : State) : Out :=
  .next (
    match Tab.find s.ops op with
    | none => s
    | some o =>
      if s.ptime < o.issued + 50000 then s
      else
        let s := s.updGid o.gid (fun g => g.mapLanes (fun l t => if o.outstanding.getLsbD l then { t with report := some 0x13 } else t))
        let c := (s.gid o.gid).core
        let s := ((s.forgetReqs op).releaseLanes o (o.outstanding ||| o.arrived)).nowOnce (.clauseStart c)
        let s := { s with ops := Tab.del s.ops op }
        if (s.core c).galleyStalls = [] then s else s.soonOnce (.ldGStallRetry c))

/-- A store to a peer whose request was dropped with its link (R423): 50 µs after issue it is over, with the reply-timeout cause for
its gang id. -/
def State.writeTimedOut (s : State) (id : Nat) : State :=
  match Tab.find s.reqs id with
  | none => s
  | some r =>
    if r.kind = .write ∧ (r.cls = 0x07 ∨ r.cls = 0x09) ∧ s.txs.all (fun e => e.2.req != id) = true then
      (s.endReq id).report r.gid { cause := 0x13, lane := r.lane }
    else s

/-- LOAD_REPLY_TIMEOUT (R247): a load or atomic whose reply has not arrived 50 µs after issue. -/
def execLoadReplyTimeout (op : Nat) (s : State) : Out :=
  .next (
    match Tab.find s.ops op with
    | none => s.writeTimedOut op
    | some o =>
      if s.ptime < o.issued + 50000 then s
      else
        let lane := ((o.loads.filter (fun ll => !ll.arrived)).map (·.lane)).headD 0
        let s := (s.forgetReqs op).report o.gid { cause := 0x13, lane := lane }
        let s := s.updGid o.gid (fun g => g.flagDown o.flag)
        ({ s with ops := Tab.del s.ops op }).unpend o.gid op)

/-- LD_G_STALL_RETRY (R96): the stalled gangs try their `ld.g` again, the oldest stall first. -/
def execLdGStallRetry (core : Nat) (s : State) : Out :=
  .next ((s.core core).galleyStalls.foldl (fun (s : State) e => s.post s.ptime (.issue e.1 e.2.1)) s)

/-! ### Responses at a chiplet (R110) -/

/-- The transaction of a response, taken from the tags of its port. -/
def State.takeTx (s : State) (port : Nat) (m : Msg) : Option (Tx × State) :=
  let k := port * 2 ^ 16 + m.tag.toNat
  match Tab.find s.txs k with
  | some t => some (t, { s with txs := Tab.del s.txs k })
  | none => none

/-- DATA at a chiplet (Table 6): a fill of the L2, or the reply to a direct read. -/
def State.dataAtL2 (s : State) (chip : Nat) (m : Msg) : State :=
  match s.takeTx chip m with
  | none => s
  | some (t, s) =>
    let wt := m.aux.getLsbD 3
    let d : LineData := { bytes := m.data, poison := m.poison }
    if t.cls = 0x01 ∨ t.cls = 0x02 ∨ t.cls = 0x03 then
      let st : L2State := match (m.aux.extractLsb' 0 2).toNat with
        | 2 => .e
        | 3 => .m
        | _ => .s
      (s.updL2 chip t.line (fun l => { l with st := st, wt := wt, data := m.data, poison := m.poison, owned := false })).drainL2
        chip t.line |>.wakeSet chip t.line
    else s.replyReq t.req d

/-- GNTX at a chiplet (Table 6). -/
def State.gntxAtL2 (s : State) (chip : Nat) (m : Msg) : State :=
  match s.takeTx chip m with
  | none => s
  | some (t, s) => (s.updL2 chip t.line (fun l => { l with st := .m, owned := false })).drainL2 chip t.line |>.wakeSet chip t.line

/-- A write is complete: an engine's command takes the answer, another request ends. -/
def State.doneReq (s : State) (id : Nat) (d : LineData) : State :=
  if (s.req id).kind = .engine then s.replyReq id d
  else if d.denied then (s.chargeDenied (s.req id)).endReq id
  else s.endReq id

/-- CMPL at a chiplet: the end of PUTE, PWR, PWB, NCWR, ZWR or RELREC. -/
def State.cmplAtL2 (s : State) (chip : Nat) (m : Msg) : State :=
  match s.takeTx chip m with
  | none => s
  | some (t, s) =>
    if t.cls = 0x05 then
      let l := s.l2Line chip t.line
      (s.setL2 chip t.line { st := .i, waiters := l.waiters, deferred := l.deferred }).drainL2 chip t.line
    else if t.cls = 0x08 then
      let s := s.updL2 chip t.line (fun l => { l with waiters := l.waiters.filter (· != t.req) })
      (s.doneReq t.req { bytes := 0 }).drainL2 chip t.line
    else if t.cls = 0x0D then s.endReq t.req
    else if t.cls = 0x0C then (s.doneReq t.req { bytes := 0 }).drainL2 chip t.line
    else s.doneReq t.req { bytes := 0 }

/-- WBACK at a chiplet (Table 6). -/
def State.wbackAtL2 (s : State) (chip : Nat) (m : Msg) : State :=
  match s.takeTx chip m with
  | none => s
  | some (t, s) =>
    let l := s.l2Line chip t.line
    (s.setL2 chip t.line { st := .i, waiters := l.waiters, deferred := l.deferred }).drainL2 chip t.line

/-- The state of a line after its request was denied. -/
def L2Line.denied (l : L2Line) : L2Line :=
  match l.st with
  | .smG => { l with st := if l.owned then .o else .s, owned := false }
  | _ => { waiters := l.waiters, deferred := l.deferred }

/-- An AMO's result (R260, R262): the lane's register and GSTICKY; or the cause. Clean words of its line that the pair's L1 took
meanwhile are older than it (R139) and are invalid. -/
def State.amoArrived (s : State) (id : Nat) (d : LineData) (aux : BitVec 4) : State :=
  let r := s.req id
  let s := s.endReq id
  match Tab.find s.ops r.op with
  | none => s
  | some o =>
    let s := match causeOf d with
      | some c => s.report o.gid { cause := c, lane := r.lane }
      | none => s.updGid o.gid (fun g =>
          let ws := splitN o.nregs d.bytes.toNat
          let g := if 96 ≤ o.dst.toNat ∧ o.dst.toNat < 112 ∧ r.lane ≠ ((o.loads.map LaneLoad.lane).foldl min 64) then g
            else g.writeLane r.lane o.dst ws false
          let g := if g.prot && decide (o.dst.toNat < 96) then g.writeLane (r.lane + 1) o.dst ws false else g
          g.stick (flagsOfAux aux))
    let o := o.markArrived id
    let s := { s with ops := Tab.ins s.ops r.op o }.dropClean (pairOf r.core) r.pline
    if o.outstanding = 0 then
      let g := s.gid o.gid
      let s := if 3 ≤ o.acq.toNat then s.invalidateAllClean (pairOf g.core) else s
      ((s.updGid o.gid (fun g => g.flagDown o.flag)).unpend o.gid r.op |> fun s => { s with ops := Tab.del s.ops r.op })
    else s

/-- DENY at a chiplet (R72, R247): a read reports the cause; a write-back is charged to its launch and counts as
complete with its words unwritten. -/
def State.denyAtL2 (s : State) (chip : Nat) (m : Msg) : State :=
  match s.takeTx chip m with
  | none => s
  | some (t, s) =>
    let r := s.req t.req
    let d : LineData := { bytes := 0, denied := true }
    if t.cls = 0x01 ∨ t.cls = 0x02 ∨ t.cls = 0x03 then
      let s := s.updL2 chip t.line (fun l => { l.denied with waiters := l.waiters.filter (· != t.req) })
      let s := if r.kind = .write then (s.chargeDenied r).endReq t.req else s.replyReq t.req d
      (s.drainL2 chip t.line).wakeSet chip t.line
    else if t.cls = 0x08 then
      let s := s.updL2 chip t.line (fun l => { l with waiters := l.waiters.filter (· != t.req) })
      (s.doneReq t.req d).drainL2 chip t.line
    else if t.cls = 0x0D then (s.chargeDenied r).endReq t.req
    else if t.cls = 0x0A then s.amoArrived t.req d 0
    else if r.kind = .write then ((s.endReq t.req).drainL2 chip t.line).report r.gid { cause := 0x18, lane := r.lane }
    else s.replyReq t.req d

/-- AMOR at a chiplet (R260). -/
def State.amorAtL2 (s : State) (chip : Nat) (m : Msg) : State :=
  match s.takeTx chip m with
  | none => s
  | some (t, s) => s.amoArrived t.req { bytes := m.data, poison := m.poison } m.aux

/-! ### Snoops at a chiplet (R110, R112, R121, R124) -/

/-- An answer to a FWDS, FWDX or RECALL: KEPT, DIRTY, and the data where the L2 holds any. -/
def fdata (m : Msg) (l : L2Line) (kept : Nat) (dirty has : Bool) : Msg :=
  { cls := 0x47, tag := m.tag, line := m.line, aux := BitVec.ofNat 4 (kept + if dirty then 4 else 0)
    ndata := if has then 4 else 0, data := if has then l.data else 0, poison := has && l.poison }

/-- A snoop of a pinned line waits until the pin is released (R124). -/
def State.unpinned (s : State) (chip src : Nat) (m : Msg) (act : State) : State :=
  let ln := m.line.toNat
  if (s.l2Line chip ln).pin.isSome then s.updL2 chip ln (fun l => { l with deferred := l.deferred ++ [(l.waiters.length, src, m)] }) else act

/-- The line after its copy is given up: requests that wait stay. -/
def L2Line.gone (l : L2Line) : L2Line := { waiters := l.waiters, deferred := l.deferred }

/-- FWDS (Table 6); a line that left O to upgrade answers as in O (DESIGN CHOICE, log entry 102). -/
def State.fwdsAtL2 (s : State) (chip src : Nat) (m : Msg) : State :=
  let ln := m.line.toNat
  let l := s.l2Line chip ln
  s.unpinned chip src m (match l.st with
    | .e => (s.setL2 chip ln { l with st := .s, wt := false }).send chip src (fdata m l 1 false true)
    | .o => s.send chip src (fdata m l 2 true true)
    | .m => (s.setL2 chip ln { l with st := .o }).send chip src (fdata m l 2 true true)
    | .smG => if l.owned then s.send chip src (fdata m l 2 true true) else s.send chip src (fdata m l 0 false false)
    | .miB => s.send chip src (fdata m l 0 true true)
    | .eiB => s.send chip src (fdata m l 0 false true)
    | _ => s.send chip src (fdata m l 0 false false))

/-- FWDX and RECALL (Table 6); a line that left O to upgrade gives its data (DESIGN CHOICE, log entry 102). -/
def State.fwdxAtL2 (s : State) (chip src : Nat) (m : Msg) : State :=
  let ln := m.line.toNat
  let l := s.l2Line chip ln
  s.unpinned chip src m (match l.st with
    | .e => (s.setL2 chip ln l.gone).send chip src (fdata m l 0 false true)
    | .o => (s.setL2 chip ln l.gone).send chip src (fdata m l 0 true true)
    | .m => (s.setL2 chip ln l.gone).send chip src (fdata m l 0 true true)
    | .smG => if l.owned then
          (s.setL2 chip ln { l with st := .imD, owned := false }).send chip src (fdata m l 0 true true)
        else s.send chip src (fdata m l 0 false false)
    | .miB => s.send chip src (fdata m l 0 true true)
    | .eiB => s.send chip src (fdata m l 0 false true)
    | _ => s.send chip src (fdata m l 0 false false)) |>.drainL2 chip ln

/-- INV (Table 6): acknowledged, with any S or O copy given up; an owner answers as to RECALL. -/
def State.invAtL2 (s : State) (chip src : Nat) (m : Msg) : State :=
  let ln := m.line.toNat
  let l := s.l2Line chip ln
  let ack : Msg := { cls := 0x46, tag := m.tag, line := m.line }
  if l.pin.isSome then s.unpinned chip src m s
  else match l.st with
    | .s => ((s.setL2 chip ln l.gone).send chip src ack).drainL2 chip ln
    | .o => ((s.setL2 chip ln l.gone).send chip src ack).drainL2 chip ln
    | .smG => (s.setL2 chip ln { l with st := .imD, owned := false }).send chip src ack
    | .e => s.fwdxAtL2 chip src m
    | .m => s.fwdxAtL2 chip src m
    | _ => s.send chip src ack

/-- A promotion takes one write-back of the pair's: merged where the L2 owns the line, kept for PROMACK on the promoted
line, else sent as PWB (R121 steps 3 and 4); on a pinned line it waits for the pin (R124). Answers the write-backs to wait for and PROMACK's words. -/
def State.promoteReq (s : State) (chip lnP id : Nat) (acc : List Nat × LineMask × Line) : (List Nat × LineMask × Line) × State :=
  let r := s.req id
  let l := s.l2Line chip r.pline
  if r.pline = lnP then
    ((acc.1, acc.2.1 ||| r.mask, mergeLine acc.2.2 r.data r.mask), s.endReq id)
  else if l.pin.isSome || s.recording (pairOf r.core) r.pline then
    ((acc.1 ++ [id], acc.2), (s.updReq id (fun r => { r with cls := 0x0D })).updL2 chip r.pline (fun l =>
      { l with waiters := l.waiters ++ [id] }))
  else if l.st = .m ∨ l.st = .e then (acc, (s.setL2 chip r.pline (l.merge r)).endReq id)
  else ((acc.1 ++ [id], acc.2), s.sendPwb chip id)

/-- PROMOTE (R121 steps 2 to 4): the pair's dirty words go back, those that already wait at the L2 first; tentative
teams of the pair commit (R386) (DEDUCED, log entry 36). -/
def State.promoteAtL2 (s : State) (chip src : Nat) (m : Msg) : State :=
  let ln := m.line.toNat
  s.unpinned chip src m (
    let pair := m.pair.toNat
    let commits := (s.teams.filter (fun e => e.2.pair == pair && e.2.rst)).map (·.1)
    let s := commits.foldl (fun (s : State) t => (s.commit 0 t).2) s
    let s := ((s.pair pair).l1.filter (fun l => l.dirty != 0)).foldl (fun (s : State) l => (s.writeBack 0 pair l).2) s
    let ids := (s.reqs.filter (fun e => e.2.kind == .write && pairOf e.2.core == pair && e.2.cls == 0)).map (·.1)
    let s := ids.foldl (fun (s : State) id =>
      s.updL2 chip (s.req id).pline (fun l => { l with waiters := l.waiters.filter (· != id) })) s
    let (acc, s) := ids.foldl (fun (acc, s) id => State.promoteReq s chip ln id acc) (([], (0 : LineMask), (0 : Line)), s)
    if acc.1 = [] then
      s.send chip src { m with cls := 0x48, mask := acc.2.1, data := acc.2.2, ndata := if acc.2.1 = 0 then 0 else 4 }
    else { s with promotions := s.promotions ++ [{ chip := chip, home := src, m := m, waits := acc.1, mask := acc.2.1, data := acc.2.2 }] })

/-! ### Pins (R124) -/

/-- A snoop at a chiplet. -/
def State.snoopAtL2 (s : State) (chip src : Nat) (m : Msg) : State :=
  match m.cls.toNat with
  | 0x20 => s.fwdsAtL2 chip src m
  | 0x21 | 0x23 => s.fwdxAtL2 chip src m
  | 0x22 => s.invAtL2 chip src m
  | 0x24 => s.promoteAtL2 chip src m
  | _ => s

/-- What a pin held back is served in its order of arrival: deferred snoops, each after the local accesses `ws` that came before it;
`n` of them have gone on. -/
def State.serveHeld (chip ln : Nat) : List (Nat × Nat × Msg) → List Nat → Nat → State → State
  | [], ws, _, s => (s.updL2 chip ln (fun l => { l with waiters := l.waiters ++ ws })).drainL2 chip ln
  | (ahead, src, m) :: rest, ws, n, s =>
    let s := (s.updL2 chip ln (fun l => { l with waiters := l.waiters ++ ws.take (ahead - n) })).drainL2 chip ln
    State.serveHeld chip ln rest (ws.drop (ahead - n)) (max n ahead) (s.snoopAtL2 chip src m)

/-- The pin of a line is released (R124). -/
def State.unpinLine (s : State) (chip ln : Nat) : State :=
  let l := s.l2Line chip ln
  (State.serveHeld chip ln l.deferred l.waiters 0 (s.setL2 chip ln { l with pin := none, deferred := [], waiters := [] })).wakeSet chip ln

/-! ### Walks (R50, R62) -/

/-- An entry that a walker reads from the lines the L2 has supplied. -/
def Walk.read (w : Walk) (pa : Nat) : Except WalkEnd Dword :=
  match Tab.find w.got (pa / 128) with
  | none => .error (.need (pa / 128))
  | some none => .error .error
  | some (some l) => .ok (l.extractLsb' (8 * (pa % 128)) 64)

/-- TLB_WALK (R50, R62): the cluster's walker reads the tables through its chiplet's L2, under its own identifier with tenant 0
(DESIGN CHOICE, log entry 101), a line at a time. The walk fills an entry for the intersection of the page and the lowest covering
record that has not lapsed; one that ends in an error, or finds rights narrower than the record's (R59), leaves the error to the
access that needs it. A walk that another one made unnecessary changes nothing. -/
def execTlbWalk (cluster launch : Nat) (va : BitVec 64) (right : BitVec 4) (s : State) : Out :=
  .next (
    let l := s.launch launch
    let a := va.toNat
    let recs := l.covering a 1 right
    let mine := s.walks.find? (fun e => e.2.cluster == cluster && e.2.launch == launch && e.2.va / 65536 == a / 65536 && !e.2.bad)
    let (id, s) := match mine with
      | some (id, _) => (id, s)
      | none => s.fresh
    let w : Walk := (mine.map (·.2)).getD { cluster := cluster, launch := launch, va := a, right := right }
    let ended (s : State) : State := { s with walks := Tab.del s.walks id }
    if w.req ≠ 0 then s
    else match (if (s.tlbHit cluster launch a right recs).isSome then none
        else recs.find? (fun i => decide (s.ptime < (l.recAt i).expiry))) with
    | none => ended s
    | some i =>
      let r := l.recAt i
      let bad (s : State) : State := { s with walks := Tab.ins s.walks id { w with bad := true } }
      match s.walkBy w.read l.asid a with
      | .need ln =>
        let (rid, s) := s.newReq { kind := .walk, core := 8 * cluster, op := id, pline := ln
                                   master := BitVec.ofNat 12 (2048 + cluster), tenant := 0 }
        ({ s with walks := Tab.ins s.walks id { w with req := rid } }).requestL2 rid
      | .page p =>
        if p.rights &&& r.rights ≠ r.rights then bad s
        else
          let lo := max p.va r.vbase
          let hi := min (p.va + p.size) (r.vbase + r.len) - 1
          (ended s).tlbInsert cluster
            { launch := launch, asid := l.asid, lo := lo, hi := hi, pa := p.pa + (lo - p.va), rights := p.rights &&& r.rights
              wt := p.wt, nc := p.nc, ireg := p.ireg, recIx := i, expiry := r.expiry }
      | .error => bad s
      | .denied _ _ => bad s)

end Sys2Proof.Machine
end

