-- ==== Sys2Proof/Machine/Memory.lean ====
section
/-!
DEFINITION. Global loads, stores, prefetches, atomics and fences (09 R243 to R265), with the actions of releases and
acquires (05 R136), watchpoints (14 R379) and compared stores (14 R389, R390).
-/

namespace Sys2Proof.Machine

/-! ### Addresses and checks (R244, R246) -/

/-- The offset of a memory form in bytes: OFF, widened by a W prefix to 33 bits, in units of the access size (R202). -/
def mdisp (f : MForm) : Dword :=
  let units : Dword := match f.p with
    | .w ihi => (ihi ++ f.off).signExtend 64
    | _ => f.off.signExtend 64
  units * BitVec.ofNat 64 (szBytes f.sz)

/-- The effective address of a lane (R244). -/
def Gid.ea (g : Gid) (l : Nat) (f : MForm) : Dword := g.dword l f.a f.lit + mdisp f

/-- The cluster of a core (R62). -/
def clusterOf (core : Nat) : Nat := core / 8

/-- A lane's access after its checks: where it goes. -/
structure LaneAcc where
  lane : Nat
  ea : Dword
  pa : Nat
  nc : Bool := false
  wt : Bool := false
  ireg : BitVec 12 := 0
  /-- Every word it touches is valid in L1. -/
  hit : Bool := false
  deriving DecidableEq, Repr, Inhabited

/-- What one lane's checks come to. -/
inductive Probe where
  | acc (a : LaneAcc)
  | stop (lane : Nat) (c : BitVec 8)
  | renew (rec : Nat)
  | walk (va : Dword)
  deriving DecidableEq, Repr

/-- The words of a line that `n` bytes at an offset touch. -/
def wordsAt (off n : Nat) : BitVec 32 :=
  BitVec.ofNat 32 ((List.range 32).foldl (fun a k =>
    if off < 4 * k + 4 ∧ 4 * k < off + n then a + 2 ^ k else a) 0)

/-- A watchpoint register matches an access of a kind (R379): `rd` and `wr` say what it does. -/
def wpMatch (wp : Dword) (ea : Dword) (n : Nat) (rd wr : Bool) : Bool :=
  let lg := max 3 (field wp 62 57)
  let base := field wp 56 3 * 8
  let base := base - base % 2 ^ lg
  wp.getLsbD 0 && ((rd && wp.getLsbD 2) || (wr && wp.getLsbD 1))
    && decide (ea.toNat < base + 2 ^ lg) && decide (base < ea.toNat + n)

/-- Whether a lane's access meets WP0 or WP1 of its launch on its core. -/
def State.watched (s : State) (ea : Dword) (n : Nat) (rd wr : Bool) : Bool :=
  let g := s.g
  let lc := s.lc g.core g.kslot
  !g.gang.noWatch && (wpMatch lc.wp0 ea n rd wr || wpMatch lc.wp1 ea n rd wr)

/-- ASID of the issuing gang's launch. -/
def State.asid (s : State) : Nat := (s.launch s.g.launch).asid

/-- The checks of `n` bytes at an address, alignment apart (R246 step 3): where the access does not hit in L1,
translation; then the watchpoints. -/
def State.probeAt (s : State) (l : Nat) (ea : Dword) (n : Nat) (right : BitVec 4) (useL1 rd wr : Bool) : Probe :=
    let g := s.g
    let line := (s.pair (pairOf g.core)).line s.asid g.kslot (ea.toNat / 128)
    let need := wordsAt (ea.toNat % 128) n
    let hit := match line with
      | some ln => if useL1 ∧ ln.valid &&& need = need ∧ ea.toNat < 2 ^ 57 then some ln else none
      | none => none
    match hit with
    | some ln =>
      if s.watched ea n rd wr then .stop l 0x05
      else .acc { lane := l, ea := ea, pa := 128 * ln.pline + ea.toNat % 128, wt := ln.wt, ireg := ln.ireg, hit := true }
    | none => match s.translate (clusterOf g.core) g.launch ea n right with
      | .cause c => .stop l c
      | .renew r => .renew r
      | .walk => .walk ea
      | .ok pa e => if s.watched ea n rd wr then .stop l 0x05
        else .acc { lane := l, ea := ea, pa := pa, nc := e.nc, wt := e.wt, ireg := e.ireg }

/-- One lane's checks of `n` bytes at an address (R246 steps 2 and 3): alignment, then the others. -/
def State.probe (s : State) (l : Nat) (ea : Dword) (n : Nat) (right : BitVec 4) (useL1 rd wr : Bool) : Probe :=
  if ea.toNat % n ≠ 0 then .stop l 0x07 else s.probeAt l ea n right useL1 rd wr

/-- Priority of a lease-renewal fault (Table 2 of R370). -/
def renewalPriority : Nat := 12

/-- An earlier load, atomic or matrix operation of the issuing gang id awaits a line: a later access to it waits (R139) (DEDUCED,
log entry 35). -/
def State.lineOpen (s : State) (ln : Nat) : Bool :=
  s.reqs.any (fun e => e.2.gid == s.cur && e.2.pline == ln && (match Tab.find s.ops e.2.op with
    | some o => o.kind != .galley
    | none => false))

/-- The checks of several lanes together (R246): the accesses, or the state in which the instruction waits or stops.
Walks come first; then the cause of highest priority; a renewal ranks among the causes and leaves the gang to replay; an access to
a line that an earlier one still awaits waits too; the scratchpad, whose forms carry no right, has no lines. -/
def State.checkLanes (s : State) (right : BitVec 4) (ps : List Probe) (addrs : List (Nat × Dword)) :
    Except State (List LaneAcc) :=
  let walks := ps.filterMap (fun p => match p with
    | .walk va => some va
    | _ => none)
  if walks ≠ [] then
    .error (walks.foldl (fun (s : State) va => s.soonOnce (.tlbWalk (clusterOf s.g.core) s.g.launch va right)) s)
  else
    let stops := ps.filterMap (fun p => match p with
      | .stop l c => some { cause := c, lane := l : Stop }
      | _ => none)
    let renews := ps.filterMap (fun p => match p with
      | .renew r => some r
      | _ => none)
    let renew := renews.foldl (fun (s : State) r => s.renew s.g.launch r) s
    match worst stops with
    | some st =>
      if renews ≠ [] ∧ renewalPriority < priority st.cause then .error renew
      else .error (s.raiseExact st.cause st.lane addrs)
    | none =>
      if renews ≠ [] then .error renew
      else
        let as := ps.filterMap (fun p => match p with
          | .acc a => some a
          | _ => none)
        if right ≠ 0 ∧ as.any (fun a => s.lineOpen (a.pa / 128)) then .error s else .ok as

/-- The lanes that perform an access: in protected mode the primaries (R389). -/
def Gid.doers (g : Gid) : List Nat := if g.prot then g.actives.filter (· % 2 == 0) else g.actives

/-- The checks of a global form over some lanes (R246). -/
def State.checked (s : State) (lanes : List Nat) (ea : Nat → Dword) (n : Nat) (right : BitVec 4) (useL1 rd wr : Bool) :
    Except State (List LaneAcc) :=
  s.checkLanes right (lanes.map (fun l => s.probe l (ea l) n right useL1 rd wr)) (lanes.map (fun l => (l, ea l)))

/-! ### Releases and acquires (R136) -/

/-- An earlier load or atomic of these threads, a write straight to its target, or a read of a matrix operation or `tcload` of
their gang id has not completed (DEDUCED, log entry 35). -/
def State.accessesOpen (s : State) (k : Nat) (active : BitVec 64) : Bool :=
  s.ops.any (fun e => e.2.gid == k && (e.2.kind == .load || e.2.kind == .amo) && (e.2.lanes &&& active) != 0)
  || s.reqs.any (fun e => e.2.gid == k && ((e.2.kind == .write && (e.2.cls == 0x07 || e.2.cls == 0x09))
    || (match Tab.find s.ops e.2.op with
      | some o => o.kind == .matrix || o.kind == .engine
      | none => false)))

/-- Write-backs of a pair's words that have not been accepted. -/
def State.openWrites (s : State) (pair : Nat) : List Nat :=
  (s.reqs.filter (fun e => e.2.kind == .write && pairOf e.2.core == pair && (e.2.cls == 0 || e.2.cls == 0x08 || e.2.cls == 0x0D))).map (·.1)

/-- The issuing gang waits for requests or operations before it goes on. -/
def Gid.waitFor (g : Gid) (stage : Nat) (ids : List Nat) : Gid := { g with gang := { g.gang with stage := stage, pend := ids } }

/-- Every dirty word of the issuing pair's L1 goes to the L2, its team's tentative words first (R136, R386); the
write-backs to wait for. -/
def State.flushPair (s : State) : List Nat × State :=
  let g := s.g
  let pair := pairOf g.core
  let s := (s.commit s.cur g.team).2
  let s := (s.writeBackAll s.cur pair ((s.pair pair).l1.filter (fun l => l.dirty != 0))).2
  (s.openWrites pair, s)

/-- Words of weight pages in a pair's L1 that no home has acknowledged: dirty lines, and write-backs under way. -/
def State.weightsOpen (s : State) (pair : Nat) : List L1Line × List Nat :=
  ((s.pair pair).l1.filter (fun l => l.wt && l.dirty != 0), (s.openWrites pair).filter (fun id => (s.req id).wt))

/-- The words of weight pages of the issuing pair are acknowledged, or the state that waits for them at a stage of the instruction. -/
def State.settleWeights (s : State) (stage : Nat) : Except State Unit :=
  let pair := pairOf s.g.core
  if s.weightsOpen pair = ([], []) then .ok ()
  else
    let s := (s.writeBackAll s.cur pair (s.weightsOpen pair).1).2
    .error (s.onGid (fun g => g.waitFor stage (s.weightsOpen pair).2))

/-- The "before" actions of a release at a scope (1 `.gg` to 5 `.sy`) are complete, or the state that waits for them
(Table 3 of R136): at every scope the writes of weight pages are acknowledged. -/
def State.before (s : State) (scope : Nat) : Except State Unit :=
  if s.g.gang.stage ≠ 0 then .ok ()
  else if s.accessesOpen s.cur s.g.gang.active then .error s
  else
    if scope < 3 then s.settleWeights 1
    else
      let (ids, s) := s.flushPair
      .error (s.onGid (fun g => g.waitFor 1 ids))

/-- The "after" actions of an acquire (Table 3 of R136). -/
def State.after (s : State) (scope : Nat) : State := if scope < 3 then s else s.invalidateAllClean (pairOf s.g.core)

/-- `fence.rel` (R264). -/
def execFenceRel (f : RForm) (s : State) : Out :=
  match s.before f.p.scope.toNat with
  | .error s' => .next s'
  | .ok () => s.retire id

/-- The actions of a commit at an instruction of R386 that waits for nothing else: done, or the state that waits. -/
def State.commitFirst (s : State) : Except State Unit :=
  if s.g.gang.stage = 0 ∧ (s.team s.g.team).rst = true then
    let s := (s.commit s.cur s.g.team).2
    .error (s.onGid (fun g => g.waitFor 1 (s.openWrites (pairOf g.core))))
  else .ok ()

/-- `fence.acq` (R264): it waits for the thread's earlier loads; at die scope or wider it commits (R386). -/
def execFenceAcq (f : RForm) (s : State) : Out :=
  if s.accessesOpen s.cur s.g.gang.active then .next s
  else match (if f.p.scope.toNat < 3 then .ok () else s.commitFirst) with
  | .error s' => .next s'
  | .ok () => (s.after f.p.scope.toNat).retire id

/-- `fence.ar` (R264): the release part first. -/
def execFenceAr (f : RForm) (s : State) : Out :=
  match s.before f.p.scope.toNat with
  | .error s' => .next s'
  | .ok () => (s.after f.p.scope.toNat).retire id

/-- `gdrain` (R255). -/
def execGdrain (s : State) : Out :=
  if s.ops.any (fun e => e.2.gid == s.cur && e.2.kind == .galley) then .next s else s.retire id

/-! ### Loads -/

/-- The address of a lane's load: in protected mode both lanes of a thread take what the primary's access brings (R389). -/
def Gid.loadEa (g : Gid) (f : MForm) (l : Nat) : Dword := g.ea (if g.prot then l / 2 * 2 else l) f

/-- A lane's read is tainted at die scope or wider: a register that forms its address is tainted by an `ld.cons` of that scope (R145). -/
def Gid.taintedWide (g : Gid) (a : BitVec 7) (l : Nat) : Bool := g.taintOf l a 2 && decide (3 ≤ (g.lane l).consScope.toNat)

/-- Clean L1 words of some lines of the launch are treated as invalid (R145). -/
def State.dropLines (s : State) (vs : List Nat) : State :=
  let g := s.g
  if vs = [] then s
  else
    let asid := s.asid
    s.invalidateClean (pairOf g.core) (fun l => l.asid == asid && l.kslot == g.kslot && vs.contains l.vline)
      (fun r => r.asid == asid && r.kslot == g.kslot && vs.contains r.vline)

/-- Lines whose clean L1 words a tainted read at die scope or wider treats as invalid (R145). -/
def State.taintLines (s : State) (f : MForm) (lanes : List Nat) : State :=
  s.dropLines ((lanes.filter (s.g.taintedWide f.a)).map (fun l => (s.g.loadEa f l).toNat / 128))

/-- How a load reads (Table 3 of R136, R252): through L1, from the L2 past L1, or at the home by ACQRD. -/
inductive Path where
  | l1 | l2 | home
  deriving DecidableEq, Repr

/-- The dirty words of the pair's L1 on a line, which every read of the pair takes from L1 (R252). -/
def State.dirtyWords (s : State) (pair asid kslot vline pline : Nat) : Line × LineMask :=
  let held := match s.tentative pair kslot with
    | none => (0, 0)
    | some t => match Tab.find (s.team t).held pline with
      | none => (0, 0)
      | some (w, m, _) => (w, byteMask m)
  match (s.pair pair).line asid kslot vline with
  | none => held
  | some l => if l.pline = pline then (mergeLine held.1 l.words (byteMask l.dirty), held.2 ||| byteMask l.dirty) else held

/-- The distinct virtual lines of some accesses, by lowest lane (R66). -/
def linesOf (as : List LaneAcc) : List Nat := (as.map (fun a => a.ea.toNat / 128)).eraseDups

/-- Request `id` is made. -/
def State.putReq (s : State) (id : Nat) (r : Req) : State := { s with reqs := Tab.ins s.reqs id r }

/-- Request `id` brings one line to operation `op`, for the lanes `as` that read it: an L1 fill, a read of the L2, or a
message to the target (R76, R250, R252). -/
def State.fetchLine (s : State) (id op : Nat) (path : Path) (scope : Nat) (as : List LaneAcc) : State :=
  let g := s.g
  let a := as.headD default
  let pair := pairOf g.core
  let vline := a.ea.toNat / 128
  let pline := a.pa / 128
  let asid := s.asid
  let base : Req :=
    { kind := .fill, core := g.core, op := op, gid := s.cur, asid := asid, kslot := g.kslot, vline := vline, pline := pline
      master := BitVec.ofNat 12 g.core, tenant := (s.launch g.launch).tenant, lane := a.lane }
  let (w, m) := s.dirtyWords pair asid g.kslot vline pline
  match path with
  | .home =>
    (s.putReq id { base with kind := .acquire, cls := 0x0B, acq := true, scope := BitVec.ofNat 3 (scope - 1) }).direct id
  | .l2 =>
    if a.nc then (s.putReq id { base with kind := .bypass, cls := 0x06, data := w, mask := m }).direct id
    else (s.putReq id { base with kind := .bypass, data := w, mask := m }).requestL2 id
  | .l1 =>
    if a.nc then (s.putReq id { base with kind := .bypass, cls := 0x06 }).direct id
    else
      (((s.dropAliases pair asid g.kslot vline pline).allocL1 pair asid g.kslot vline pline a.wt a.ireg).putReq id
        { base with data := w, mask := m }).requestL2 id

/-- A line present in L1 reaches a parked gang 24 cc after issue (R95): its contents as they stand now. -/
def State.hitLine (s : State) (id op : Nat) (as : List LaneAcc) : State :=
  let g := s.g
  let a := as.headD default
  let bytes := match (s.pair (pairOf g.core)).line s.asid g.kslot (a.ea.toNat / 128) with
    | some l => l.words
    | none => 0
  (s.putReq id
    { kind := .bypass, core := g.core, op := op, gid := s.cur, asid := s.asid, kslot := g.kslot, pline := a.pa / 128
      lane := a.lane }).later (ccNs 24) (.galleyReply id { bytes := bytes })

/-- Some lanes of operation `op` wait for request `id`; `hit` where their words stood in L1. -/
def State.lanesWait (s : State) (op id : Nat) (hit : Bool) (as : List LaneAcc) : State :=
  { s with ops := Tab.upd { gid := 0, kind := .load } s.ops op (fun o =>
      { o with loads := o.loads.map (fun ll => if (as.map LaneAcc.lane).contains ll.lane then { ll with req := id, hit := hit } else ll) }) }

/-- An access that hit finds its line still in L1: another tag of the same instruction may have taken it (R66). -/
def State.stillHits (s : State) (a : LaneAcc) : Bool :=
  a.hit && (match (s.pair (pairOf s.g.core)).line s.asid s.g.kslot (a.ea.toNat / 128) with
    | some l => l.pline == a.pa / 128
    | none => false)

/-- Requests for all lines of some accesses; each lane waits on its line's. The operation stands under `op`. -/
def State.fetchAll (s : State) (op : Nat) (path : Path) (scope : Nat) (as : List LaneAcc) : State :=
  (linesOf as).foldl (fun (s : State) v =>
    let mine := as.filter (fun a => a.ea.toNat / 128 == v)
    let hits := mine.filter s.stillHits
    let misses := mine.filter (fun a => !s.stillHits a)
    let s := if hits = [] then s else
      let (id, s) := s.fresh
      (s.lanesWait op id true hits).hitLine id op hits
    if misses = [] then s else
      let (id, s) := s.fresh
      (s.lanesWait op id false misses).fetchLine id op path scope misses) s

/-- The operation of a load over its accesses. -/
def State.loadOp (s : State) (kind : OpKind) (f : MForm) (as : List LaneAcc) (acq : Nat) (cons : Bool) : Op :=
  let m := maskOf (as.map (·.lane))
  { gid := s.cur, kind := kind, dst := f.d, nregs := szRegs f.sz, sz := f.sz, issued := s.ptime, pc := s.g.gang.next
    split := (s.lc s.g.core s.g.kslot).split, outstanding := m, lanes := m, loads := as.map (fun (a : LaneAcc) => { lane := a.lane, ea := a.ea, pline := a.pa / 128, req := 0 })
    acq := BitVec.ofNat 3 acq, cons := cons, gang := s.g.gang.uid }

/-- Galley entries of a launch on a core, or of all of them. -/
def State.galleyCount (s : State) (core : Nat) (launch : Option Nat) : Nat :=
  s.ops.countP (fun e => e.2.kind == .galley && (s.gid e.2.gid).core == core
    && (match launch with
      | none => true
      | some l => (s.gid e.2.gid).launch == l))

/-- Line slots in use on a core (R94, R95): lines requested for galley entries that have not arrived. -/
def State.lineSlots (s : State) (core : Nat) : Nat :=
  (s.ops.filter (fun e => e.2.kind == .galley && (s.gid e.2.gid).core == core)).foldl (fun n e =>
    n + ((e.2.loads.filter (fun ll => !ll.arrived && !ll.hit)).map (·.req)).eraseDups.length) 0

/-- Whether an `ld.g` of a launch that needs some line slots finds an entry, its quota and the slots (R95 step 2). -/
def State.galleyRoom (s : State) (core kslot launch slots : Nat) : Bool :=
  decide (s.galleyCount core none < 64) && decide (s.galleyCount core (some launch) < (s.lc core kslot).quota)
    && decide (s.lineSlots core + slots ≤ 256)

/-- The line slots that an `ld.g` needs: its distinct lines that miss L1 (R95). -/
def slotsOf (as : List LaneAcc) : Nat := (linesOf (as.filter (fun a => !a.hit))).length

/-- Whether an `ld.g` can issue (R95 step 2): where an older stall of the core could issue too, that one goes first (R96). -/
def State.galleyFree (s : State) (as : List LaneAcc) : Bool :=
  let g := s.g
  let older := (s.core g.core).galleyStalls.takeWhile (fun e => (e.1, e.2.1) != (s.cur, g.gang.uid))
  s.galleyRoom g.core g.kslot g.launch (slotsOf as)
    && older.all (fun e => !s.galleyRoom g.core (s.gid e.1).kslot (s.gid e.1).launch e.2.2)

/-- The gang waits its turn for a galley entry (R96). -/
def State.stallGalley (s : State) (slots : Nat) : State :=
  let me := (s.cur, s.g.gang.uid)
  let add (q : List (Nat × Nat × Nat)) : List (Nat × Nat × Nat) :=
    if q.any (fun e => (e.1, e.2.1) == me) then q.map (fun e => if (e.1, e.2.1) = me then (e.1, e.2.1, slots) else e)
    else q ++ [(me.1, me.2, slots)]
  s.updCore s.g.core (fun c => { c with galleyStalls := add c.galleyStalls })

/-- An `ld.g` issues: one galley entry, its threads park and the gang gives its context back (R95 step 3). -/
def State.park (s : State) (f : MForm) (path : Path) (scope : Nat) (as : List LaneAcc) : State :=
  let g := s.g
  let me := (s.cur, g.gang.uid)
  let (op, s) := s.fresh
  let s := { s with ops := Tab.ins s.ops op (s.loadOp .galley f as scope false) }
  let s := s.updCore g.core (fun c => { c with galleyStalls := c.galleyStalls.filter (fun (e : Nat × Nat × Nat) => (e.1, e.2.1) != me) })
  let s := (s.fetchAll op path scope as).later 50000 (.galleyTimeout op)
  (s.onGid (fun g => (g.mapActive (fun _ t => { t with st := .parked })).endGang)).nowOnce (.clauseStart g.core)

/-- How an acquire read at a scope reads (Table 3 of R136). -/
def pathOf (scope : Nat) : Path := if scope < 3 then .l1 else if scope = 3 then .l2 else .home

/-- Before an acquire read at die scope or wider the pair writes back its dirty words of each line read (R250), and a
tentative team commits (R386): done, or the state that waits. -/
def State.beforeRead (s : State) (scope : Nat) (as : List LaneAcc) : Except State Unit :=
  if scope < 3 ∨ s.g.gang.stage ≠ 0 then .ok ()
  else
    let g := s.g
    let pair := pairOf g.core
    let s := (s.commit s.cur g.team).2
    let lines := as.map (fun a => a.pa / 128)
    let s := (s.writeBackAll s.cur pair ((s.pair pair).l1.filter (fun l => l.dirty != 0 && lines.contains l.pline))).2
    let ids := (s.openWrites pair).filter (fun id => lines.contains (s.req id).pline)
    .error (s.onGid (fun g => g.waitFor 1 ids))

/-- The loads that park (R249, R250); without active lanes they are a `nop` (R95). -/
def State.loadParked (s : State) (f : MForm) (scope : Nat) : Out :=
  if s.g.actives = [] then s.retire id
  else
  let s := s.taintLines f s.g.actives
  match s.checked s.g.actives (s.g.loadEa f) (szBytes f.sz) rightR (decide (scope < 3)) true false with
  | .error s' => .next s'
  | .ok as =>
    match s.beforeRead scope as with
    | .error s' => .next s'
    | .ok () => if s.galleyFree as then .next (s.park f (pathOf scope) scope as) else .next (s.stallGalley (slotsOf as))

/-- `ld.g` (R249). -/
def execLdG (f : MForm) (s : State) : Out := s.loadParked f 0

/-- `ld.g.acq` (R250). -/
def execLdGAcq (f : MForm) (s : State) : Out := s.loadParked f f.p.scope.toNat

/-- A load that does not park issues (R251 to R253): lanes that hit in L1 take their words at once, the others, and those
whose line a miss under another tag takes, wait in an operation. -/
def State.loadThrough (s : State) (f : MForm) (path : Path) (scope : Nat) (cons : Bool) (as : List LaneAcc) : State :=
  let (op, s) := s.fresh
  let g := s.g
  let late (a : LaneAcc) : Bool := !a.hit
    || as.any (fun b => !b.hit && b.pa / 128 == a.pa / 128 && b.ea.toNat / 128 != a.ea.toNat / 128)
  let hits := as.filter (fun a => !late a)
  let misses := as.filter late
  let low := (as.map (·.lane)).foldl min 64
  let bytes (s : State) (a : LaneAcc) : Line :=
    match (s.pair (pairOf g.core)).line s.asid g.kslot (a.ea.toNat / 128) with
    | some l => l.words
    | none => 0
  let s0 := s
  let s := s.onGid (fun g => hits.foldl (fun g a =>
    if 96 ≤ f.d.toNat ∧ f.d.toNat < 112 ∧ a.lane ≠ low then g
    else g.writeLane a.lane f.d (loadWords (bytes s0 a) (a.ea.toNat % 128) f.sz) cons) g)
  let s := if misses = [] then s
    else
      let s := { s with ops := Tab.ins s.ops op { s.loadOp .load f misses scope cons with
                          loads := misses.map (fun (a : LaneAcc) => { lane := a.lane, ea := a.ea, pline := a.pa / 128, req := 0 }) } }
      (s.fetchAll op path scope misses).later 50000 (.loadReplyTimeout op)
  s.onGid Gid.advance

/-- `ld.nc` (R252): words dirty in L1 come from L1, every other word from the L2 or, on an NC page, from the target. -/
def execLdNc (f : MForm) (s : State) : Out :=
  match s.checked s.g.actives (s.g.loadEa f) (szBytes f.sz) rightR false true false with
  | .error s' => .next s'
  | .ok as => .next (s.loadThrough f .l2 0 false as)

/-- `ld.cons` (R251, R145): read as an acquire at the scope, without its "after" actions; its destinations are tainted
and its thread remembers the scope. -/
def execLdCons (f : MForm) (s : State) : Out :=
  let scope := f.p.scope.toNat
  let s := s.taintLines f s.g.actives
  match s.checked s.g.actives (s.g.loadEa f) (szBytes f.sz) rightR (decide (scope < 3)) true false with
  | .error s' => .next s'
  | .ok as =>
    match s.beforeRead scope as with
    | .error s' => .next s'
    | .ok () =>
      .next ((s.loadThrough f (pathOf scope) scope true as).onGid (fun g =>
        g.mapActive (fun _ t => { t with consScope := BitVec.ofNat 3 scope })))

/-- `ld.y` (R253): the elected lane loads for the gang id. -/
def execLdY (f : MForm) (s : State) : Out :=
  let e := s.g.elected
  .next (s.guarded (s.g.supplied (fun l => [s.g.ea l f])) (fun s =>
    let s := s.taintLines f [e]
    match s.checked [e] (fun l => s.g.ea l f) (szBytes f.sz) rightR true true false with
    | .error s' => s'
    | .ok as => s.loadThrough f .l1 0 false as))

/-- `pf` (R254): a GETS for each line the L2 does not hold; nothing else. -/
def execPf (f : MForm) (s : State) : Out :=
  match s.checkLanes rightR (s.g.actives.map (fun l =>
      match s.translate (clusterOf s.g.core) s.g.launch (s.g.loadEa f l) 1 rightR with
      | .cause c => .stop l c
      | .renew r => .renew r
      | .walk => .walk (s.g.loadEa f l)
      | .ok pa e => .acc { lane := l, ea := s.g.loadEa f l, pa := pa, nc := e.nc, wt := e.wt }))
      (s.g.actives.map (fun l => (l, s.g.loadEa f l))) with
  | .error s' => .next s'
  | .ok as =>
    let g := s.g
    let asks := as.filter (fun a => !a.nc)
    let s := ((asks.map (fun a => a.pa / 128)).eraseDups).foldl (fun (s : State) ln =>
      let lane := ((asks.filter (fun a => a.pa / 128 == ln)).map LaneAcc.lane).headD 0
      let (id, s) := s.newReq
        { kind := .prefetch, core := g.core, gid := s.cur, pline := ln, master := BitVec.ofNat 12 g.core
          tenant := (s.launch g.launch).tenant, lane := lane }
      s.requestL2 id) s
    .next (s.onGid Gid.advance)

/-! ### Compared stores (R389, R390) -/

/-- A compared store counts for its threads; the run that repeats a diverging one meets the recorded store here: where
its address and data agree with either lane of the first run its results stand, else the run stops. A divergence that was at no
compared store has nothing to meet (DEDUCED, log entry 65). -/
def State.countStores (s : State) (v : Nat → List Dword) (act : State → State) : State :=
  let g := s.g
  if g.prot then
    let t := s.team g.team
    let index (l : Nat) : Nat := g.gid * (g.width / 2) + l / 2
    let met := match t.diverged with
      | some d => if t.rerun && d.store && !d.met then
          (g.doers.find? (fun l => (g.lane l).stores == d.index && index l == d.thread)).map (fun l => (l, d))
        else none
      | none => none
    let s' := s.onGid (fun g => g.mapActive (fun _ t => { t with stores := t.stores + 1 }))
    match met with
    | some (l, d) =>
      let a := (v l).headD 0
      let w := (v l).getD 1 0
      if (a = d.va0 ∧ w = d.data0) ∨ (a = d.va1 ∧ w = d.data1) then
        act (s'.updTeam g.team (fun t => { t with diverged := some { d with met := true } }))
      else ((s.updTeam g.team (fun t => { t with rvals := some (a, w) })).onGid (fun g => { g with frozen := true })).soonOnce
        (.divergenceRerun g.team)
    | none => act s'
  else act s

/-- A store, atomic or arrival of compared addresses and data (R389) (DEDUCED, log entry 39). -/
def State.comparedStore (s : State) (v : Nat → List Dword) (act : State → State) : State :=
  match s.g.mismatch v with
  | none => s.countStores v act
  | some l => s.diverge true l ((v l).headD 0) ((v (l + 1)).headD 0) ((v l).getD 1 0) ((v (l + 1)).getD 1 0)

/-! ### Stores -/

/-- The data of a store as a number: its low bytes (R243). -/
def Gid.storeData (g : Gid) (l : Nat) (f : MForm) : Nat :=
  joinW (g.words l f.d f.lit (szRegs f.sz)) % 2 ^ (8 * szBytes f.sz)

/-- A lane's bytes go into the pair's L1 (R86): the line is allocated if need be, and the words written are valid and
dirty, of the issuing core. -/
def State.storeL1 (s : State) (a : LaneAcc) (n v : Nat) : State :=
  let g := s.g
  let pair := pairOf g.core
  let vline := a.ea.toNat / 128
  let pline := a.pa / 128
  let off := a.ea.toNat % 128
  let s := match (s.pair pair).line s.asid g.kslot vline with
    | some _ => s
    | none => (s.dropAliases pair s.asid g.kslot vline pline).allocL1 pair s.asid g.kslot vline pline a.wt a.ireg
  match (s.pair pair).line s.asid g.kslot vline with
  | none => s
  | some l =>
    let w := wordsAt off n
    s.updPair pair (fun p => p.setLine
      { l with words := mergeLine l.words (BitVec.ofNat 1024 (v * 2 ^ (8 * off))) (bytesMask off n)
               valid := l.valid ||| w, dirty := l.dirty ||| w
               by1 := if g.core % 2 = 0 then l.by1 &&& ~~~w else l.by1 ||| w })

/-- A lane's bytes go straight to the target as NCWR (R76, R256). -/
def State.storeNc (s : State) (a : LaneAcc) (n v : Nat) : State :=
  let g := s.g
  let off := a.pa % 128
  let (id, s) := s.newReq
    { kind := .write, core := g.core, gid := s.cur, asid := s.asid, kslot := g.kslot, pline := a.pa / 128
      master := BitVec.ofNat 12 g.core, tenant := (s.launch g.launch).tenant, mask := bytesMask off n
      data := BitVec.ofNat 1024 (v * 2 ^ (8 * off)), cls := 0x07, lane := a.lane }
  s.direct id

/-- The lanes write one virtual line at a time, by lowest lane (R66), and in ascending order within it: of lanes that write
one byte the highest prevails (R256) (DEDUCED, log entry 32). -/
def State.storeLanes (s : State) (f : MForm) (as : List LaneAcc) : State :=
  let nc := as.filter (·.nc)
  let own := as.filter (fun a => !a.nc)
  let s := nc.foldl (fun (s : State) a => s.storeNc a (szBytes f.sz) (s.g.storeData a.lane f)) s
  (linesOf own).foldl (fun (s : State) v =>
    (own.filter (fun a => a.ea.toNat / 128 == v)).foldl (fun (s : State) a =>
      s.storeL1 a (szBytes f.sz) (s.g.storeData a.lane f)) s) s

/-- Lines that a store of 1 or 2 bytes must fill first: its word is not valid in L1 (R86). -/
def needFill (f : MForm) (as : List LaneAcc) : List LaneAcc :=
  if szBytes f.sz < 4 then as.filter (fun a => !a.nc && !a.hit) else []

/-- A write to an NC or WT page, or to host or peer memory, commits a tentative team (R386). -/
def State.mustCommit (s : State) (as : List LaneAcc) : Bool := (s.team s.g.team).rst && as.any (fun a => a.nc || a.wt)

/-- What a store does now: all of its accesses, or, where it has sub-word data and reaches one physical line through two
tags, those of the first tag (R66). -/
def nowOf (f : MForm) (as : List LaneAcc) : List LaneAcc :=
  let own := as.filter (fun a => !a.nc)
  let tags := (own.map (fun a => (a.ea.toNat / 128, a.pa / 128))).eraseDups
  if 4 ≤ szBytes f.sz ∨ (tags.map (·.2)).eraseDups.length = tags.length then as
  else match own with
    | [] => as
    | a :: _ => own.filter (fun b => b.ea.toNat / 128 == a.ea.toNat / 128)

/-- The comparison of a store, its checks, its commit and its fills; then `write` on the accesses of each pass, and `last` after the
last of them. `write` is told whether the pass is the first. -/
def State.storing (s : State) (f : MForm) (write : Bool → List LaneAcc → State → State) (last : State → State) : State :=
  let v (l : Nat) : List Dword := [s.g.ea l f, BitVec.ofNat 64 (s.g.storeData l f)]
  match s.g.mismatch v with
  | some l => s.diverge true l ((v l).headD 0) ((v (l + 1)).headD 0) ((v l).getD 1 0) ((v (l + 1)).getD 1 0)
  | none =>
    let done := s.g.gang.done
    match s.checked (s.g.actives.filter (fun l => !done.getLsbD l)) (fun l => s.g.ea l f) (szBytes f.sz) rightW true false true with
    | .error s' => s'
    | .ok as =>
      if s.mustCommit as then
        let s := (s.commit s.cur s.g.team).2
        s.onGid (fun g => g.waitFor g.gang.stage (s.openWrites (pairOf g.core)))
      else
        let now := nowOf f as
        let fills := needFill f now
        if fills ≠ [] then
          let (ids, s) := (linesOf fills).foldl (fun (ids, s) v =>
            let (id, s) := State.fresh s
            (ids ++ [id], s.fetchLine id 0 .l1 0 (fills.filter (fun a => a.ea.toNat / 128 == v)))) ([], s)
          s.onGid (fun g => g.waitFor g.gang.stage ids)
        else
          let doers := s.g.doers
          let mine := now.filter (fun a => doers.contains a.lane)
          let part (s : State) : State :=
            let s := write (done = 0) mine s
            if now.length = as.length then last s
            else s.onGid (fun g =>
              { g with gang := { g.gang with done := g.gang.done ||| maskOf (now.map (·.lane)), pend := [] } })
          if done = 0 then s.countStores v part else part s

/-- `st.g` (R256). -/
def execStG (f : MForm) (s : State) : Out :=
  .next (s.storing f (fun _ as s => s.storeLanes f as) (fun s => s.onGid Gid.advance))

/-- RELREC for each distinct device line of a release (R119), at a message scope; the requests to wait for (DEDUCED, log entry 34). -/
def State.relrec (s : State) (scope : Nat) (lines : List Nat) : List Nat × State :=
  let g := s.g
  let pair := pairOf g.core
  let seq := (s.pair pair).rseq
  (lines.filter (fun ln => spaceOf (128 * ln) == .device)).foldl (fun (ids, s) ln =>
    let (id, s) := State.newReq s
      { kind := .write, core := g.core, gid := s.cur, asid := s.asid, kslot := g.kslot, pline := ln
        master := BitVec.ofNat 12 g.core, tenant := (s.launch g.launch).tenant, mask := seq.zeroExtend 128, cls := 0x0C
        scope := BitVec.ofNat 3 (scope - 1) }
    (ids ++ [id], s.direct id)) ([], s)

/-- A team-scope release takes the next number of its pair (R118). -/
def State.nextSeq (s : State) (scope : Nat) : State :=
  if scope = 2 then s.updPair (pairOf s.g.core) (fun p => { p with rseq := p.rseq + 1 }) else s

/-- The write of a release (R118, R119): its first pass takes the next number; every line it writes is recorded at its home, and at
die scope and wider its words go through to the L2. Words of a line leave the L2 no earlier than the record is made (R144). -/
def State.releaseWrite (s : State) (f : MForm) (scope : Nat) (first : Bool) (as : List LaneAcc) : State :=
  let lines := (as.map (fun a => a.pa / 128)).eraseDups
  let s := if first then s.nextSeq scope else s
  let s := if scope < 2 then s else (s.relrec scope lines).2
  let s := s.storeLanes f as
  if scope < 3 then s
  else
    let pair := pairOf s.g.core
    (s.writeBackAll s.cur pair ((s.pair pair).l1.filter (fun l => l.dirty != 0 && lines.contains l.pline))).2

/-- `st.g.rel` (R257): the "before" actions, then the write as Table 3 of R136 gives. -/
def execStGRel (f : MForm) (s : State) : Out :=
  let scope := f.p.scope.toNat
  let v (l : Nat) : List Dword := [s.g.ea l f, BitVec.ofNat 64 (s.g.storeData l f)]
  .next (match (if (s.g.mismatch v).isSome then .ok () else s.before scope) with
    | .error s' => s'
    | .ok () => s.storing f (fun first as s => s.releaseWrite f scope first as) (fun s =>
      let ids := if scope < 3 then [] else s.openWrites (pairOf s.g.core)
      (s.onGid Gid.advance).onGid (fun g => g.waitFor 0 ids)))

/-! ### Global atomics (R259 to R262) -/

/-- TYPE sent for an operation of Table 3 at a width. -/
def amoType (w : BitVec 1) (op : Nat) : Nat :=
  match op with
  | 1 | 2 => if w = 0 then 1 else 3
  | 8 => if w = 0 then 4 else 5
  | _ => if w = 0 then 0 else 2

/-- OP sent: `min.n` and `max.n` are MIN and MAX of an unsigned type (Table 3). -/
def amoOp (op : Nat) : Nat := if op = 9 then 1 else if op = 10 then 2 else op

/-- The operands of a lane's atomic. -/
def Gid.amoArgs (g : Gid) (l : Nat) (w : BitVec 1) (op : Nat) (f : RForm) (ea : Dword) : AmoArgs :=
  let v (x : BitVec 7) : Dword := if w = 0 then (g.word l x f.lit).zeroExtend 64 else g.dword l x f.lit (op == 1 || op == 2)
  ⟨v f.b, if op = 7 then v f.p.c else 0, amoOp op, amoType w op, ea.toNat % 128⟩

/-- The lanes' AMOs leave in ascending order (R115) as one operation, which counts in its flag (R208, R260). -/
def State.amoIssue (s : State) (w : BitVec 1) (op : Nat) (f : RForm) (as : List LaneAcc) : State :=
  let g := s.g
  let qual := f.p.qual.toNat
  let acq := qual = 1 ∨ qual = 3
  let scope := f.p.scope.toNat
  let fl := g.flagFor f.d
  let (id, s) := s.fresh
  let m := maskOf (as.map (·.lane))
  let o : Op :=
    { gid := s.cur, kind := .amo, flag := fl, dst := f.d, nregs := nregs w, issued := s.ptime, outstanding := m
      lanes := g.gang.active, acq := if acq then BitVec.ofNat 3 scope else 0, gang := g.gang.uid }
  let s := { s with ops := Tab.ins s.ops id o }
  let s := as.foldl (fun (s : State) a =>
    let (rid, s) := s.newReq
      { kind := .acquire, core := g.core, op := id, gid := s.cur, asid := s.asid, kslot := g.kslot, pline := a.pa / 128
        master := BitVec.ofNat 12 g.core, tenant := (s.launch g.launch).tenant, lane := a.lane, cls := 0x0A
        data := amoFlit (g.amoArgs a.lane w op f a.ea), acq := decide acq
        scope := if acq then BitVec.ofNat 3 (scope - 1) else 0 }
    let s := { s with ops := Tab.upd o s.ops id (fun o =>
      { o with loads := o.loads ++ [({ lane := a.lane, ea := a.ea, pline := a.pa / 128, req := rid } : LaneLoad)] }) }
    s.direct rid) s
  let s := s.later 50000 (.loadReplyTimeout id)
  s.onGid (fun g =>
    let g := (g.flagUp fl).advance
    if fl = 15 ∨ acq then { g with gang := { g.gang with pend := [id] } } else g)

/-- An atomic (R260, R261): checks; the "before" actions of a release and its RELREC; the L1 step; then the AMOs. -/
def State.amoExec (s : State) (w : BitVec 1) (op : Nat) (f : RForm) : Out :=
  let g := s.g
  let qual := f.p.qual.toNat
  let rel := qual = 2 ∨ qual = 3
  let scope := f.p.scope.toNat
  let n := if w = 0 then 4 else 8
  let ea (l : Nat) : Dword := g.dword l f.a f.lit
  let fl := g.flagFor f.d
  let v (l : Nat) : List Dword := [ea l, (g.amoArgs l w op f (ea l)).opa, (g.amoArgs l w op f (ea l)).opb]
  if g.flagRoom fl = false then .next s
  else .next (
    if (g.mismatch v).isSome then s.comparedStore v id
    else match s.checked g.actives ea n rightA false true true with
    | .error s' => s'
    | .ok as =>
      let wait := if rel ∧ g.gang.stage < 2 then s.before scope else .ok ()
      match wait with
      | .error s' => s'
      | .ok () =>
        let doers := as.filter (fun a => g.doers.contains a.lane)
        if g.gang.stage < 2 then
          s.countStores v (fun s =>
            let pair := pairOf g.core
            let lines := (doers.map (fun a => a.pa / 128)).eraseDups
            let s := (s.commit s.cur g.team).2
            let s := (s.pair pair).l1.foldl (fun (s : State) l =>
              if lines.contains l.pline then (s.evictL1 pair l).2 else s) s
            let s := s.staleFills pair (fun r => lines.contains r.pline)
            let s := if rel then s.nextSeq scope else s
            let (rids, s) := if rel ∧ 2 ≤ scope then s.relrec scope lines else ([], s)
            let ids := (s.openWrites pair).filter (fun id => lines.contains (s.req id).pline)
            s.onGid (fun g => g.waitFor 2 (ids ++ rids)))
        else s.amoIssue w op f doers)

/-- `amo.add` (R259, R260). -/
def execAmoAdd (w : BitVec 1) (f : RForm) (s : State) : Out := s.amoExec w 0 f
/-- `amo.min.s` (R259, R260). -/
def execAmoMinS (w : BitVec 1) (f : RForm) (s : State) : Out := s.amoExec w 1 f
/-- `amo.max.s` (R259, R260). -/
def execAmoMaxS (w : BitVec 1) (f : RForm) (s : State) : Out := s.amoExec w 2 f
/-- `amo.and` (R259, R260). -/
def execAmoAnd (w : BitVec 1) (f : RForm) (s : State) : Out := s.amoExec w 3 f
/-- `amo.or` (R259, R260). -/
def execAmoOr (w : BitVec 1) (f : RForm) (s : State) : Out := s.amoExec w 4 f
/-- `amo.xor` (R259, R260). -/
def execAmoXor (w : BitVec 1) (f : RForm) (s : State) : Out := s.amoExec w 5 f
/-- `amo.xchg` (R259, R260). -/
def execAmoXchg (w : BitVec 1) (f : RForm) (s : State) : Out := s.amoExec w 6 f
/-- `amo.cas` (R259, R260). -/
def execAmoCas (w : BitVec 1) (f : RForm) (s : State) : Out := s.amoExec w 7 f
/-- `amo.fadd` (R259, R260). -/
def execAmoFadd (w : BitVec 1) (f : RForm) (s : State) : Out := s.amoExec w 8 f
/-- `amo.min.n` (R259, R260). -/
def execAmoMinN (w : BitVec 1) (f : RForm) (s : State) : Out := s.amoExec w 9 f
/-- `amo.max.n` (R259, R260). -/
def execAmoMaxN (w : BitVec 1) (f : RForm) (s : State) : Out := s.amoExec w 10 f
/-- A qualified atomic (R261). -/
def execAmoQualified (w : BitVec 1) (op : BitVec 4) (f : RForm) (s : State) : Out := s.amoExec w op.toNat f

end Sys2Proof.Machine
end

