-- ==== Sys2Proof/Machine/Scratch.lean ====
section
/-!
DEFINITION. The scratchpad (03 R77 to R83, 09 R245, R258, R263), synchronisation words (03 R92, R93, 12 R331 to R333)
and waiting threads (12 R337).
-/

namespace Sys2Proof.Machine

/-! ### Scratchpad bytes (R79, R80) -/

/-- A byte of a pair's scratchpad that nothing has written: 0 in a window (R80), else undefined after a change of STEPS
(R79). -/
def Pair.blank (p : Pair) (a : Nat) : Byte :=
  if p.owners.any (fun o => decide (o.1 ≤ a) && decide (a < o.1 + o.2.1)) then 0
  else match p.scrFree with
    | some c => Config.freeByte (c + a)
    | none => 0

/-- A byte of a pair's scratchpad. -/
def Pair.scrByte (p : Pair) (a : Nat) : Byte := Tab.get (p.blank a) p.scr a

/-- `n` bytes as a little-endian number. -/
def Pair.scrRead (p : Pair) (a n : Nat) : Nat := natOfBytes ((List.range n).map (fun i => p.scrByte (a + i)))

/-- Bytes are written. -/
def Pair.scrWrite (p : Pair) (a : Nat) (bs : List Byte) : Pair := { p with scr := putFrom p.scr a bs }

/-- The pair and window base of the issuing team. -/
def State.window (s : State) : Nat × Nat × Nat :=
  let t := s.team s.g.team
  (t.pair, t.winBase, t.winSize)

/-! ### Checks (R245) -/

/-- One lane's checks of a scratchpad access: alignment, then bounds. -/
def State.probeScr (s : State) (l : Nat) (o : Int) (n : Nat) : Probe :=
  let (_, _, size) := s.window
  if o % n ≠ 0 then .stop l 0x07
  else if o < 0 ∨ (size : Int) < o + n then .stop l 0x08
  else .acc { lane := l, ea := BitVec.ofInt 64 o, pa := o.toNat }

/-- The checks of several lanes; an access's `pa` is its offset in the window. -/
def State.checkedScr (s : State) (lanes : List Nat) (o : Nat → Int) (n : Nat) : Except State (List LaneAcc) :=
  s.checkLanes 0 (lanes.map (fun l => s.probeScr l (o l) n)) (lanes.map (fun l => (l, BitVec.ofInt 64 (o l))))

/-! ### Banks and SPCONF (R78, R81 to R83) -/

/-- BMAP entry `q` of a pair (R78). -/
def State.bmap (s : State) (pair q : Nat) : Nat :=
  let off := 0x80000 + pair % 32 * 0x800 + 2 * q
  field (s.reg (chipOf pair) (off - off % 8)) (8 * (off % 8) + 9) (8 * (off % 8))

/-- The conflict count of an instruction (R82): bank words beyond the first of each bank. -/
def State.conflicts (s : State) (pair base : Nat) (as : List LaneAcc) (n : Nat) : Nat :=
  let slots := 64 * s.steps pair
  let ws := (as.flatMap (fun a =>
    let w0 := (base + a.pa) / 4
    (List.range ((n + 3) / 4)).map (fun i => w0 + i))).eraseDups
  let banks := (ws.map (fun w => s.bmap pair (w % slots))).eraseDups
  ws.length - banks.length

/-- SPCONF gains one issue and the conflicts of an instruction, each saturating (Table 5 of R83). -/
def State.countScr (s : State) (as : List LaneAcc) (n : Nat) : State :=
  let g := s.g
  let (pair, base, _) := s.window
  let k := s.conflicts pair base as n
  s.updCore g.core (fun c =>
    { c with spconf := Tab.upd 0 c.spconf g.team (fun v =>
        BitVec.ofNat 64 (min (field v 63 32 + 1) 0xFFFFFFFF * 2 ^ 32 + min (field v 31 0 + k) 0xFFFFFFFF)) })

/-! ### Waiting (R337) -/

/-- The issuing gang's threads wait, each for its own: each will be filed at the clause that follows. -/
def State.waitOnBy (s : State) (a : Nat → Await) : State :=
  let core := s.g.core
  (s.onGid (fun g => (g.mapActive (fun l t => { t with st := .waiting, await := some (a l), pc := g.gang.next })).endGang)).nowOnce
    (.clauseStart core)

/-- They all wait for one thing. -/
def State.waitOn (s : State) (a : Await) : State := s.waitOnBy (fun _ => a)

/-- Threads of a gang id that wait, and that `f` names, are filed at their PCs. -/
def State.wake (s : State) (k : Nat) (f : Thread → Bool) : State :=
  let g := s.gid k
  if g.lanes.any (fun t => t.st == .waiting && f t) then
    (s.updGid k (fun g => g.fileLanes s.ptime (fun l =>
      let t := g.lane l
      if t.st == .waiting && f t then some t.pc else none))).nowOnce (.clauseStart g.core)
  else s

/-! ### Synchronisation words (R92, R93) -/

/-- A generation has been reached (R333). -/
def reached (gen g : Word) : Bool := decide ((gen - g).toNat < 2 ^ 31)

/-- GEN of a word. -/
def Pair.gen (p : Pair) (a : Nat) : Word := BitVec.ofNat 32 (p.scrRead (a + 8) 4)

/-- The word after an arrival of `n` bytes (R93). -/
def Pair.arrive (p : Pair) (a n : Nat) : Pair :=
  let target := p.scrRead a 4
  let count := p.scrRead (a + 4) 4 + n
  let gen := p.scrRead (a + 8) 4
  let gen' := if target = 0 then gen else (gen + count / target) % 2 ^ 32
  let count' := if target = 0 then count else count % target
  let p := p.scrWrite (a + 4) (bytesOfNat 4 (min count' 0xFFFFFFFF))
  let p := p.scrWrite (a + 8) (bytesOfNat 4 gen')
  if 0xFFFFFFFF < count' then p.scrWrite (a + 12) [p.scrByte (a + 12) ||| 1] else p

/-- A thread whose `swwait` is satisfied. -/
def Thread.swDone (t : Thread) (p : Pair) (base : Nat) : Bool :=
  match t.await with
  | some (.swwait off g _ _ _) => reached (p.gen (base + off)) g
  | _ => false

/-- After an update of a team's window its waiting threads are tested again: the acquire of R148 takes place before any
of them is filed (R333). -/
def State.retestSw (s : State) (team : Nat) : State :=
  let t := s.team team
  let p := s.pair t.pair
  let ks := (s.gids.filter (fun e => e.2.team == team
    && e.2.lanes.any (fun th => th.st == .waiting && th.swDone p t.winBase))).map (·.1)
  if ks = [] then s
  else ks.foldl (fun (s : State) k => s.wake k (fun th => th.swDone p t.winBase)) (s.invalidateAllClean t.pair)

/-! ### Instructions -/

/-- The offset of a lane's access (R245). -/
def Gid.scrOff (g : Gid) (l : Nat) (f : MForm) : Int := (g.word l f.a f.lit).toNat + (mdisp f).toInt

/-- `ld.s` (R258); a shadow takes what its primary's access brings (R389). -/
def execLdS (f : MForm) (s : State) : Out :=
  let n := szBytes f.sz
  let off (g : Gid) (l : Nat) : Int := g.scrOff (g.prim l) f
  match s.checkedScr s.g.actives (off s.g) n with
  | .error s' => .next s'
  | .ok as =>
    let (pair, base, _) := s.window
    let p := s.pair pair
    let s := s.countScr (as.filter (fun a => s.g.doers.contains a.lane)) n
    s.retire (fun g => g.putAll f.d (fun l =>
      loadWords (BitVec.ofNat 1024 (p.scrRead (base + (off g l).toNat) n)) 0 f.sz))

/-- `st.s` (R258): in ascending lane order, so that of lanes that write one byte the highest prevails (R83). -/
def execStS (f : MForm) (s : State) : Out :=
  let n := szBytes f.sz
  match s.checkedScr s.g.actives (fun l => s.g.scrOff l f) n with
  | .error s' => .next s'
  | .ok as =>
    .next (s.comparedStore (fun l => [BitVec.ofInt 64 (s.g.scrOff l f), BitVec.ofNat 64 (s.g.storeData l f)]) (fun s =>
      let (pair, base, _) := s.window
      let doers := as.filter (fun a => s.g.doers.contains a.lane)
      let s := s.countScr doers n
      let s := s.updPair pair (fun p => doers.foldl (fun p a =>
        p.scrWrite (base + a.pa) (bytesOfNat n (s.g.storeData a.lane f))) p)
      (s.retestSw s.g.team).onGid Gid.advance))

/-- The value a `samo` leaves (R263). -/
def samoNew (op : Nat) (old b : Word) : Word :=
  match op with
  | 0 => old + b
  | 1 => minS 32 old b
  | 2 => maxS 32 old b
  | _ => b

/-- The lanes of a `samo` in ascending order: the pair after, and each lane's old value. -/
def samoLanes (op : Nat) (base : Nat) (b : Nat → Word) : List LaneAcc → Pair → Pair × List (Nat × Word)
  | [], p => (p, [])
  | a :: as, p =>
    let old := BitVec.ofNat 32 (p.scrRead (base + a.pa) 4)
    let p' := p.scrWrite (base + a.pa) (bytesOfNat 4 (samoNew op old (b a.lane)).toNat)
    let (p'', rs) := samoLanes op base b as p'
    (p'', (a.lane, old) :: rs)

/-- A scratchpad atomic (R263); a shadow takes its primary's result (R389). -/
def State.samo (s : State) (op : Nat) (f : RForm) : Out :=
  match s.checkedScr s.g.actives (fun l => ((s.g.word l f.a f.lit).toNat : Int)) 4 with
  | .error s' => .next s'
  | .ok as =>
    .next (s.comparedStore (fun l => [(s.g.word l f.a f.lit).zeroExtend 64, (s.g.word l f.b f.lit).zeroExtend 64]) (fun s =>
      let g := s.g
      let (pair, base, _) := s.window
      let doers := as.filter (fun a => g.doers.contains a.lane)
      let s := s.countScr doers 4
      let (p, rs) := samoLanes op base (fun l => g.word l f.b f.lit) doers (s.pair pair)
      let s := s.updPair pair (fun _ => p)
      (s.retestSw g.team).onGid (fun g => (g.putAll f.d (fun l => [Tab.get 0 rs (g.prim l)])).advance)))

/-- `samo.add` (R263). -/
def execSamoAdd (f : RForm) (s : State) : Out := s.samo 0 f
/-- `samo.min.s32` (R263). -/
def execSamoMinS32 (f : RForm) (s : State) : Out := s.samo 1 f
/-- `samo.max.s32` (R263). -/
def execSamoMaxS32 (f : RForm) (s : State) : Out := s.samo 2 f
/-- `samo.xchg` (R263). -/
def execSamoXchg (f : RForm) (s : State) : Out := s.samo 3 f

/-- The offset of a synchronisation word in a lane (R331). -/
def Gid.swOff (g : Gid) (l : Nat) (f : RForm) : Nat := (g.word l f.a f.lit).toNat

/-- `swinit` (R331): the elected lane writes the whole word; d is a source. SPCONF counts no instruction on a synchronisation word (DESIGN
CHOICE, log entry 106). -/
def execSwinit (f : RForm) (s : State) : Out :=
  let e := s.g.elected
  match s.checkedScr [e] (fun l => (s.g.swOff l f : Int)) 16 with
  | .error s' => .next s'
  | .ok _ =>
    .next (s.comparedStore (s.g.supplied (fun l =>
        [BitVec.ofNat 64 (s.g.swOff l f), (s.g.word l f.b f.lit ++ s.g.word l f.d f.lit).zeroExtend 64])) (fun s =>
      let g := s.g
      let (pair, base, _) := s.window
      let s := s.updPair pair (fun p => p.scrWrite (base + g.swOff e f)
        (bytesOfNat 4 (g.word e f.b f.lit).toNat ++ bytesOfNat 4 0 ++ bytesOfNat 4 (g.word e f.d f.lit).toNat ++ bytesOfNat 4 0))
      (s.retestSw g.team).onGid Gid.advance))

/-- The lanes of a `swarrive` in ascending order: the pair after, and GEN after each lane's arrival. -/
def arriveLanes (base : Nat) (n : Nat → Nat) : List LaneAcc → Pair → Pair × List (Nat × Word)
  | [], p => (p, [])
  | a :: as, p =>
    let p' := p.arrive (base + a.pa) (n a.lane)
    let (p'', rs) := arriveLanes base n as p'
    (p'', (a.lane, p'.gen (base + a.pa)) :: rs)

/-- `swarrive` (R332): checks of every lane, the "before" actions of a team-scope release, then the arrivals. -/
def execSwarrive (f : RForm) (s : State) : Out :=
  match s.checkedScr s.g.actives (fun l => (s.g.swOff l f : Int)) 16 with
  | .error s' => .next s'
  | .ok as =>
    match s.before 2 with
    | .error s' => .next s'
    | .ok () =>
      .next (s.comparedStore (fun l => [BitVec.ofNat 64 (s.g.swOff l f), (s.g.word l f.b f.lit).zeroExtend 64]) (fun s =>
        let g := s.g
        let (pair, base, _) := s.window
        let doers := as.filter (fun a => g.doers.contains a.lane)
        let (p, rs) := arriveLanes base (fun l => (g.word l f.b f.lit).toNat) doers (s.pair pair)
        let s := s.updPair pair (fun _ => p)
        (s.retestSw g.team).onGid (fun g => (g.putAll f.d (fun l => [Tab.get 0 rs (g.prim l)])).advance)))

/-- `swwait` (R333): at once where the word has reached the generation, with the acquire of R148; else the gang's
threads wait. At die scope or wider it commits (R386). -/
def execSwwait (f : RForm) (s : State) : Out :=
  let e := s.g.elected
  match s.checkedScr [e] (fun l => (s.g.swOff l f : Int)) 16 with
  | .error s' => .next s'
  | .ok _ =>
    .next (s.guarded (s.g.supplied (fun l => [BitVec.ofNat 64 (s.g.swOff l f), (s.g.word l f.b f.lit).zeroExtend 64])) (fun s =>
      match (if f.p.scope.toNat < 3 then .ok () else s.commitFirst) with
      | .error s' => s'
      | .ok () =>
      let g := s.g
      let (pair, base, _) := s.window
      let gen := g.word e f.b f.lit
      if reached ((s.pair pair).gen (base + g.swOff e f)) gen then
        (s.invalidateAllClean pair).onGid (fun g => g.continueAt s.ptime g.gang.next)
      else s.waitOn (.swwait (g.swOff e f) gen f.p.scope g.gang.hdr g.gang.off)))

end Sys2Proof.Machine
end

