-- ==== Sys2Proof/Machine/Engines.lean ====
section
/-!
DEFINITION. Copy-engine commands (12 R319 to R330, 04 R123, R124), the typecase instructions (12 R334 to R336), and the
completion of long-latency operations (08 R208).
-/

namespace Sys2Proof.Machine

/-! ### Descriptors (R319, R320) -/

/-- Byte field of a descriptor held as eight words: `n` bytes from byte `k`. -/
def dfield (d : List Dword) (k n : Nat) : Nat :=
  (d.mapIdx (fun i w => w.toNat * 2 ^ (64 * i))).foldl (· + ·) 0 / 2 ^ (8 * k) % 2 ^ (8 * n)

/-- A signed 32-bit stride. -/
def stride (d : List Dword) (k : Nat) : Int := (BitVec.ofNat 32 (dfield d k 4)).toInt

/-- CTL bits: source and destination in scratchpad, arrivals, conversion. -/
def ctl (d : List Dword) (k : Nat) : Bool := (dfield d 62 1).testBit k

/-- Source and destination type codes. -/
def sfmt (d : List Dword) : Nat := dfield d 60 1
def dfmt (d : List Dword) : Nat := dfield d 61 1

/-- Elements per run and the counts of levels 1 to 4. -/
def runLen (d : List Dword) : Nat := dfield d 16 4
def levels (d : List Dword) : List Nat := [dfield d 20 2, dfield d 22 2, dfield d 24 2, dfield d 26 2]

/-- A malformed descriptor (R320); an `xpf` ignores DST, the DS strides and conversion (R328). -/
def malformed (d : List Dword) (pf : Bool) : Bool :=
  let cvt := ctl d 3 && !pf
  let unit := cvtUnit cvt (sfmt d) (dfmt d)
  let (es, ed) := cvtSizes cvt (sfmt d) (dfmt d)
  let off (k : Nat) (e : Nat) : Bool := stride d k % e != 0
  dfield d 62 1 / 16 != 0 || dfield d 63 1 != 0
    || (ctl d 0 && dfield d 4 4 != 0) || (ctl d 1 && !pf && dfield d 12 4 != 0)
    || (match unit with
      | none => true
      | some (n, _, _) => runLen d % n != 0)
    || dfield d 0 8 % es != 0 || [28, 32, 36, 40].any (fun k => off k es)
    || (!pf && (dfield d 8 8 % ed != 0 || [44, 48, 52, 56].any (fun k => off k ed)))
    || (pf && ctl d 0)

/-- The indices (i1, i2, i3, i4) of run `r`: level 1 fastest (R322). -/
def runIndex (d : List Dword) (r : Nat) : List Nat :=
  let n := levels d
  let n1 := max 1 (n.getD 0 1)
  let n2 := max 1 (n.getD 1 1)
  let n3 := max 1 (n.getD 2 1)
  [r % n1, r / n1 % n2, r / (n1 * n2) % n3, r / (n1 * n2 * n3)]

/-- Runs of a command; none where N0 or a level count is 0. -/
def runs (d : List Dword) : Nat := if runLen d = 0 then 0 else (levels d).foldl (· * ·) 1

/-- Base of a run: the base field at byte `base` with the strides from byte `st`, as an integer. -/
def runBase (d : List Dword) (base st r : Nat) : Int :=
  ((runIndex d r).mapIdx (fun i (n : Nat) => (n : Int) * stride d (st + 4 * i))).foldl (· + ·) ((dfield d base 8 : Nat) : Int)

/-- Destination bytes of one run, and source bytes. -/
def runBytes (d : List Dword) (pf : Bool) : Nat × Nat :=
  match cvtUnit (ctl d 3 && !pf) (sfmt d) (dfmt d) with
  | some (n, s, t) => (runLen d / n * t, runLen d / n * s)
  | none => (0, 0)

/-! ### Issue (R320, R324, R327) -/

/-- The descriptor in scratchpad at an offset. -/
def Pair.descAt (p : Pair) (a : Nat) : List Dword := (List.range 8).map (fun i => BitVec.ofNat 64 (p.scrRead (a + 8 * i) 8))

/-- The descriptor in y0 to y15. -/
def Gid.descY (g : Gid) : List Dword :=
  (List.range 8).map (fun i => Tab.get 0 g.y (2 * i + 1) ++ Tab.get 0 g.y (2 * i))

/-- XFAULT0 and XFAULT1 take the first unreported fault of the launch on the core (Tables 4 and 5 of R326). -/
def State.recordXfault (s : State) (core kslot reason : Nat) (swv : Bool) (sw i0 : Nat) (ix : List Nat) : State :=
  s.updLc core kslot (fun c =>
    if c.xfault0.getLsbD 63 then c
    else
      { c with
        xfault0 := BitVec.ofNat 64 (2 ^ 63 + reason * 2 ^ 60 + (if swv then 2 ^ 56 else 0) + sw % 2 ^ 23 * 2 ^ 32 + i0 % 2 ^ 32)
        xfault1 := BitVec.ofNat 64 (ix.getD 0 0 + ix.getD 1 0 * 2 ^ 16 + ix.getD 2 0 * 2 ^ 32 + ix.getD 3 0 * 2 ^ 48) })

/-- Commands outstanding on a core. -/
def State.cmdCount (s : State) (core : Nat) : Nat := s.cmds.countP (fun e => e.2.core == core)

/-- The most commands an engine holds (R327). -/
def cmdMax : Nat := 512

/-- `xcopy` and `xpf` (R320, R324, R327): the checks, the write-back of the pair's dirty words after the thread's earlier accesses
(R148), and a command. -/
def State.engineIssue (s : State) (pf : Bool) (f : RForm) : Out :=
  let g := s.g
  let e := g.elected
  let inY := f.a = 96
  let dOff := (g.word e f.a f.lit).toNat
  let swOff := (g.word e f.b f.lit).toNat
  let me := (s.cur, g.gang.uid)
  .next (s.guarded (g.supplied (fun l => [(g.word l f.a f.lit ++ g.word l f.b f.lit).zeroExtend 64])) (fun s =>
    match (if inY then .ok [] else s.checkedScr [e] (fun _ => (dOff : Int)) 64) with
    | .error s' => s'
    | .ok _ =>
      let (pair, base, _) := s.window
      let d := if inY then g.descY else (s.pair pair).descAt (base + dOff)
      match (if ctl d 2 then s.checkedScr [e] (fun _ => (swOff : Int)) 16 else .ok []) with
      | .error s' => s'
      | .ok _ =>
        if malformed d pf then
          (s.recordXfault g.core g.kslot 1 (ctl d 2) swOff 0 [0, 0, 0, 0]).raiseExact 0x06 e
        else if g.flagRoom g.gang.fb.toNat = false then s
        else if cmdMax ≤ s.cmdCount g.core ∨ ((s.core g.core).engineStalls ≠ [] ∧ (s.core g.core).engineStalls.head? ≠ some me) then
          s.updCore g.core (fun c => if c.engineStalls.contains me then c else { c with engineStalls := c.engineStalls ++ [me] })
        else if g.gang.stage = 0 then
          if pf = false ∧ s.accessesOpen s.cur g.gang.active = true then s
          else
            let (ids, s) := if pf then s.commit s.cur g.team else s.flushPair
            s.onGid (fun g => g.waitFor 1 ids)
        else
          let (id, s) := s.fresh
          let fl := g.gang.fb.toNat
          let l := s.launch g.launch
          let c : Cmd :=
            { gid := s.cur, core := g.core, flag := fl, scope := f.p.scope, pf := pf, desc := d
              sw := if ctl d 2 then swOff else 0
              asid := l.asid, tenant := l.tenant, kslot := g.kslot, launch := g.launch, team := g.team }
          let s := { s with cmds := Tab.ins s.cmds id c }
          let s := s.updCore g.core (fun c => { c with engineStalls := c.engineStalls.filter (· != me) })
          let s := s.onGid (fun g =>
            let g := (g.flagUp fl).advance
            if fl = 15 then { g with gang := { g.gang with pend := [id] } } else g)
          s.soon (if pf then .xpfRange id else .engineWrite id)))

/-- `xcopy` (R320, R324). -/
def execXcopy (f : RForm) (s : State) : Out := s.engineIssue false f
/-- `xpf` (R328). -/
def execXpf (f : RForm) (s : State) : Out := s.engineIssue true f

/-- ENGINE_QUEUE_RETRY (R327): the oldest gang stalled at a full engine tries again. -/
def execEngineQueueRetry (core : Nat) (s : State) : Out :=
  .next (match (s.core core).engineStalls with
    | [] => s
    | (k, uid) :: _ => s.post s.ptime (.issue k uid))

/-! ### Progress (R322 to R326) -/

/-- A command. -/
def State.cmd (s : State) (id : Nat) : Cmd := Tab.get { gid := 0, core := 0 } s.cmds id

/-- A command changes. -/
def State.updCmd (s : State) (id : Nat) (f : Cmd → Cmd) : State := { s with cmds := Tab.ins s.cmds id (f (s.cmd id)) }

/-- The pins of a command's lines are released; what they held back goes on, in its order of arrival (R124). -/
def State.unpin (s : State) (id : Nat) : State :=
  ((s.l2.filter (fun e => e.2.pin == some id)).map (·.1)).foldl (fun (s : State) k => s.unpinLine (k / 2 ^ 41) (k % 2 ^ 41)) s

/-- Requests are forgotten. -/
def State.dropReqs (s : State) (ids : List Nat) : State := { s with reqs := s.reqs.filter (fun e => !ids.contains e.1) }

/-- A command completes with an outcome of R330 (1 done, 2 cancelled, 3 faulted): its flags reach GSTICKY and its flag
falls. The cycles it spent are free. -/
def State.endCmd (s : State) (id outcome : Nat) : State :=
  let c := s.cmd id
  let s := (s.unpin id).dropReqs (c.srcs ++ c.dsts)
  let s := { s with reqs := s.reqs.filter (fun e => !(e.2.kind == ReqKind.engine && e.2.op == id)) }
  let (n, s) := s.tick
  let s := s.updGid c.gid (fun g =>
    { (g.stick c.flags).flagDown c.flag with
      xdone := outcome, ecyc := min 0xFFFFFFFF (g.ecyc + (Config.freeWord n).toNat) })
  let s := ({ s with cmds := Tab.del s.cmds id }).unpend c.gid id
  if (s.core c.core).engineStalls = [] then s else s.soonOnce (.engineQueueRetry c.core)

/-- An arrival of `n` bytes at a command's word (R323). -/
def State.cmdArrive (s : State) (id n : Nat) : State :=
  let c := s.cmd id
  if ctl c.desc 2 then
    let t := s.team c.team
    (s.updPair t.pair (fun p => p.arrive (t.winBase + c.sw) n)).retestSw c.team
  else s

/-- Threads waiting at a `swwait` on a faulted command's word leave WAITING as one stopped gang (R325) (DEDUCED, log entry 82). -/
def State.stopWaiters (s : State) (k sw : Nat) (c : BitVec 8) : State :=
  let g := s.gid k
  let at_ (t : Thread) : Option (Dword × Nat) := match t.await with
    | some (.swwait off _ _ hdr ofs) => if off = sw ∧ t.st = .waiting then some (hdr, ofs) else none
    | _ => none
  match g.lanes.filterMap at_ with
  | [] => s
  | (hdr, ofs) :: _ =>
    let ls := (List.range g.lanes.length).filter (fun l => at_ (g.lane l) == some (hdr, ofs))
    let (uid, s) := s.fresh
    let gang : Gang := { uid := uid, active := maskOf ls, hdr := hdr, off := ofs, since := s.ptime }
    let s := s.updGid k (fun g =>
      { g.mapLanes (fun l t => if ls.contains l then { t with st := .issuing, await := none, pc := hdr } else t) with
        others := if g.gang.active = 0 then g.others else g.gang :: g.others
        gang := gang })
    s.stopGang k { cause := c, lane := ls.headD 0, ofsv := true, pc := hdr }

/-- The write a command is at: destination base and length, source base and length, and the units it covers. -/
structure WritePlan where
  dst : Int
  n : Nat
  src : Int
  slen : Nat
  /-- Bytes of the first unit that precede the write. -/
  skip : Nat
  /-- First element of the write within the run. -/
  i0 : Nat
  deriving DecidableEq, Repr

/-- The element of a unit of `n` elements and `ut` bytes in type code `c` that holds byte `r`: the scale and micro-exponent bytes of a
block come with its first element (R181, R183). -/
def unitElem (n ut c r : Nat) : Nat :=
  if c ≤ 3 then r * n / ut else (r - (if c ≤ 6 then 1 else 2)) * 8 / elemBits c

/-- The part of the current run up to the next boundary of 2,048 bytes (R322). -/
def Cmd.plan (c : Cmd) : WritePlan :=
  let d := c.desc
  let (n, us, ut) := (cvtUnit (ctl d 3) (sfmt d) (dfmt d)).getD (1, 1, 1)
  let t := runBase d 8 44 c.run + c.off
  let left := (runBytes d false).1 - c.off
  let room := 2048 - (t % 2048).toNat
  let len := min left room
  let u0 := c.off / ut
  let u1 := (c.off + len + ut - 1) / ut
  { dst := t, n := len, src := runBase d 0 28 c.run + us * u0, slen := us * (u1 - u0), skip := c.off - u0 * ut
    i0 := if n = 1 then u0 else n * u0 + unitElem n ut (dfmt d) (c.off - u0 * ut) }

/-- A scratchpad range of a command's team lies in its window. -/
def State.inWindow (s : State) (team : Nat) (o : Int) (n : Nat) : Bool :=
  decide (0 ≤ o) && decide (o + n ≤ ((s.team team).winSize : Int))

/-- What translating a command's range comes to. -/
inductive Ranges where
  | ok (ps : List (Nat × Nat × TlbEntry))
  | wait (s : State)
  | cause (c : BitVec 8)

/-- A command's global range is translated line by line with a right (R325). -/
def State.engineRange (s : State) (id : Nat) (a : Int) (n : Nat) (right : BitVec 4) : Ranges :=
  let c := s.cmd id
  let xs := (lineStarts a n).map (fun p => (p, s.translate (clusterOf c.core) c.launch p.1 p.2 right))
  let causes := xs.filterMap (fun x => match x.2 with
    | .cause c => some c
    | _ => none)
  match causes with
  | c :: cs => .cause (cs.foldl (fun a b => if priority b < priority a then b else a) c)
  | [] =>
    let blocked := xs.any (fun x => match x.2 with
      | .ok _ _ => false
      | _ => true)
    if blocked then
      .wait (xs.foldl (fun (s : State) x => match x.2 with
        | .walk => s.soonOnce (.tlbWalk (clusterOf c.core) c.launch x.1.1 right)
        | .renew r => s.renew c.launch r
        | _ => s) s)
    else .ok (xs.filterMap (fun x => match x.2 with
      | .ok pa e => some (pa, x.1.2, e)
      | _ => none))

/-- A command stops with a fault (R325): pins released, XFAULT recorded where the table gives a REASON, and the gang id
takes the cause. A cause that ends the launch does so even where no gang of the gang id issues again. -/
def State.faultCmd (s : State) (id : Nat) (c : BitVec 8) (i0 : Nat) : State :=
  let cm := s.cmd id
  let reason := if c = 0x06 then 2 else if c = 0x18 then 3 else if c = 0x14 then 4 else 0
  let g := s.gid cm.gid
  let s := if reason = 0 then s else s.recordXfault cm.core cm.kslot reason (ctl cm.desc 2) cm.sw i0 (runIndex cm.desc cm.run)
  let s := s.endCmd id 3
  let busy := g.lanes.any (fun t => t.st == .waiting && (match t.await with
    | some (.swwait off _ _ _ _) => off == cm.sw
    | _ => false))
  if ctl cm.desc 2 = true ∧ busy = true ∧ (g.inHandler = false ∨ outcome c ≠ .handler) then s.stopWaiters cm.gid cm.sw c
  else if g.lanes.all (fun t => t.st == .exited) ∧ outcome c = .launch then s.endLaunch cm.launch c g.gid g.teamId 0
  else if g.inHandler = true ∧ c = 0x06 then s
  else s.report cm.gid { cause := c }

/-- The command looks again later. -/
def State.againCmd (s : State) (id : Nat) : State := s.later 10 (if (s.cmd id).pf then .xpfRange id else .engineWrite id)

/-- A request of a command's engine on a line (R70): a read, or ownership for a write. -/
def State.engineReq (s : State) (id pa : Nat) (nc own : Bool) (m : LineMask) (d : Line) : Nat × State :=
  let c := s.cmd id
  let (rid, s) := s.newReq
    { kind := .engine, core := c.core, op := id, gid := c.gid, asid := c.asid, kslot := c.kslot, pline := pa / 128
      master := BitVec.ofNat 12 (1024 + c.core), tenant := c.tenant, mask := m, data := d
      cls := if own then 0x02 else if nc then 0x06 else 0x01 }
  (rid, if nc then s.direct rid else s.requestL2 rid)

/-- A direct write of a command's engine: NCWR, or ZWR of no byte (R125). -/
def State.engineDirect (s : State) (id pa : Nat) (cls : BitVec 8) (m : LineMask) (d : Line) : Nat × State :=
  let c := s.cmd id
  let (rid, s) := s.newReq
    { kind := .engine, core := c.core, op := id, gid := c.gid, asid := c.asid, kslot := c.kslot, pline := pa / 128
      master := BitVec.ofNat 12 (1024 + c.core), tenant := c.tenant, mask := m, data := d, cls := cls }
  (rid, s.direct rid)

/-- The replies of some requests, if all have arrived. -/
def State.replies (s : State) (ids : List Nat) : Option (List LineData) :=
  ids.mapM (fun id => (s.req id).reply)

/-- The worst cause some replies report. -/
def repliesCause (ds : List LineData) : Option (BitVec 8) :=
  (worst (ds.filterMap (fun d => (causeOf d).map (fun c => { cause := c : Stop })))).map Stop.cause

/-- The bytes a range takes from its lines. -/
def gather (ps : List (Nat × Nat × TlbEntry)) (ds : List LineData) : List Byte :=
  (ps.zip ds).flatMap (fun x => (List.range x.1.2.1).map (fun i => lineByte x.2.bytes (x.1.1 % 128 + i)))

/-- The destination bytes of a write from its source bytes, and the flags (R321). -/
def convertRange (d : List Dword) (p : WritePlan) (bs : List Byte) : List Byte × Nat :=
  let (_, us, _) := (cvtUnit (ctl d 3) (sfmt d) (dfmt d)).getD (1, 1, 1)
  let rs := (pieces us bs.length (bs.map BitVec.toNat)).map (convertUnit (ctl d 3) (sfmt d) (dfmt d))
  (((rs.flatMap (·.1)).drop p.skip |>.take p.n).map (BitVec.ofNat 8), rs.foldl (fun a r => a ||| r.2) 0)

/-- The bytes of a write that fall on one line, as data and mask. -/
def onLine (bs : List Byte) (start pa n : Nat) : Line × LineMask :=
  let o := pa % 128
  (BitVec.ofNat 1024 (natOfBytes ((bs.drop start).take n) * 2 ^ (8 * o)), bytesMask o n)

/-- Start offsets of the pieces of a write. -/
def startsOf : List (Nat × Nat × TlbEntry) → Nat → List Nat
  | [], _ => []
  | p :: ps, k => k :: startsOf ps (k + p.2.1)

/-- The write is done: the command goes to its next one, or completes (R323); a cancelled one stops (R329). -/
def State.nextWrite (s : State) (id n : Nat) : State :=
  let s := s.cmdArrive id n
  let c := s.cmd id
  let total := if c.pf then (runBytes c.desc true).2 else (runBytes c.desc false).1
  let (run, off) := if c.off + n < total then (c.run, c.off + n) else (c.run + 1, 0)
  let s := (s.dropReqs (c.srcs ++ c.dsts)).updCmd id (fun c =>
    { c with run := run, off := off, stage := 0, srcs := [], dsts := [], bytes := [] })
  if runs c.desc ≤ run then s.endCmd id 1
  else if c.cancelled then s.endCmd id 2
  else s.soon (if c.pf then .xpfRange id else .engineWrite id)

/-- The destination lines are owned and pinned: the write lands (R123, R124); a WT line is written by PWR, an NC one by
NCWR. -/
def State.landWrite (s : State) (id : Nat) (ps : List (Nat × Nat × TlbEntry)) : State :=
  let c := s.cmd id
  let chip := chipOf (pairOf c.core)
  let (ids, s) := (ps.zip (startsOf ps 0)).foldl (fun (ids, s) x =>
    let (pa, n, e) := x.1
    let (d, m) := onLine c.bytes x.2 pa n
    if e.nc then
      let (r, s) := State.engineDirect s id pa 0x07 m d
      (ids ++ [r], s)
    else
      let l := s.l2Line chip (pa / 128)
      if l.wt then
        let (r, s) := s.engineDirect id pa 0x08 m d
        (ids ++ [r], s)
      else (ids, s.updL2 chip (pa / 128) (fun l =>
        { l with st := .m, data := mergeLine l.data d m, poison := l.poison && m != fullMask }))) ([], s)
  let s := s.unpin id
  if ids = [] then s.nextWrite id c.bytes.length
  else (s.updCmd id (fun c => { c with stage := 3, dsts := ids })).againCmd id

/-- A zero-length command (R322, R125). -/
def State.zeroLength (s : State) (id : Nat) : State :=
  let c := s.cmd id
  if c.pf then (s.cmdArrive id 0).endCmd id 1
  else if c.stage = 3 then
    match s.replies c.dsts with
    | none => s.againCmd id
    | some ds => match repliesCause ds with
      | some cause => s.faultCmd id cause 0
      | none => (s.cmdArrive id 0).endCmd id 1
  else if ctl c.desc 1 then
    if s.inWindow c.team (dfield c.desc 8 8) 0 then (s.cmdArrive id 0).endCmd id 1 else s.faultCmd id 0x06 0
  else match s.translate (clusterOf c.core) c.launch (BitVec.ofNat 64 (dfield c.desc 8 8)) 1 rightW with
    | .cause k => s.faultCmd id k 0
    | .renew r => (s.renew c.launch r).againCmd id
    | .walk => (s.soonOnce (.tlbWalk (clusterOf c.core) c.launch (BitVec.ofNat 64 (dfield c.desc 8 8)) rightW)).againCmd id
    | .ok pa _ =>
      let (r, s) := s.engineDirect id pa 0x09 0 0
      (s.updCmd id (fun c => { c with stage := 3, dsts := [r] })).againCmd id

/-- The global ranges of a write: its source and destination lines, none for a scratchpad side. -/
def State.writeRanges (s : State) (id : Nat) (p : WritePlan) : Ranges × Ranges :=
  let d := (s.cmd id).desc
  (if ctl d 0 then .ok [] else s.engineRange id p.src p.slen rightR, if ctl d 1 then .ok [] else s.engineRange id p.dst p.n rightW)

/-- Requests of a command's engine for the lines of a range, other than NC lines where ownership is asked for. -/
def State.engineReqs (s : State) (id : Nat) (own : Bool) (ps : List (Nat × Nat × TlbEntry)) : List Nat × State :=
  (ps.filter (fun x => !own || !x.2.2.nc)).foldl (fun (ids, s) x =>
    let (r, s) := State.engineReq s id x.1 (x.2.2.nc && !own) own 0 0
    (ids ++ [r], s)) ([], s)

/-- Stage 0 of a write: every check of R325; then the source lines are asked for, and the destination lines in ownership: for the
first write that is as the command issues (R123) (DEDUCED, log entry 37). -/
def State.startWrite (s : State) (id : Nat) (p : WritePlan) : State :=
  let c := s.cmd id
  let d := c.desc
  if (ctl d 0 && !s.inWindow c.team p.src p.slen) || (ctl d 1 && !s.inWindow c.team p.dst p.n) then s.faultCmd id 0x06 p.i0
  else match s.writeRanges id p with
    | (.cause a, .cause b) => s.faultCmd id (if priority b < priority a then b else a) p.i0
    | (.cause a, _) => s.faultCmd id a p.i0
    | (_, .cause b) => s.faultCmd id b p.i0
    | (.wait s', _) => s'.againCmd id
    | (_, .wait s') => s'.againCmd id
    | (.ok src, .ok dst) =>
      let ncDenied := dst.find? (fun x => x.2.2.nc && spaceOf x.1 == .device
        && (s.permits (s.targetOf x.1) (1024 + c.core) c.tenant x.1 .write).isNone)
      match ncDenied with
      | some x => (s.recordDenial (s.targetOf x.1) .write (1024 + c.core) (x.1 - x.1 % 128)).faultCmd id 0x18 p.i0
      | none =>
        let (srcs, s) := s.engineReqs id false src
        let (dsts, s) := s.engineReqs id true dst
        (s.updCmd id (fun c => { c with stage := 1, srcs := srcs, dsts := dsts })).againCmd id

/-- Requests of a command stand for the lines of a range as it is now translated. -/
def State.standFor (s : State) (ids : List Nat) (ps : List (Nat × Nat × TlbEntry)) : Bool :=
  ids.map (fun id => (s.req id).pline) == ps.map (·.1 / 128)

/-- A write begins again: what it asked for is given up. -/
def State.restartWrite (s : State) (id : Nat) : State :=
  let c := s.cmd id
  (((s.dropReqs (c.srcs ++ c.dsts)).unpin id).updCmd id (fun c => { c with stage := 0, srcs := [], dsts := [] })).againCmd id

/-- Stage 1: the source bytes are captured as they have been supplied (R123) and converted. Where the record of a range has lapsed
meanwhile, the write waits for its renewal (R325); where a page has moved, it begins again. -/
def State.captureWrite (s : State) (id : Nat) (p : WritePlan) : State :=
  let c := s.cmd id
  let d := c.desc
  match s.replies c.srcs with
  | none => s.againCmd id
  | some ds => match repliesCause ds, s.writeRanges id p with
    | some cause, _ => s.faultCmd id cause p.i0
    | none, (.ok src, .ok dst) =>
      if s.standFor c.srcs src = false ∨ s.standFor c.dsts (dst.filter (fun x => !x.2.2.nc)) = false then s.restartWrite id
      else
        let t := s.team c.team
        let bs := if ctl d 0 then
            (List.range p.slen).map (fun i => (s.pair t.pair).scrByte (t.winBase + p.src.toNat + i))
          else gather src ds
        let (out, fl) := convertRange d p bs
        let s := (s.dropReqs c.srcs).updCmd id (fun c => { c with stage := 2, srcs := [], bytes := out, flags := c.flags ||| fl })
        if ctl d 1 then
          (s.updPair t.pair (fun q => q.scrWrite (t.winBase + p.dst.toNat) out)).retestSw c.team |>.nextWrite id p.n
        else s.againCmd id
    | none, (.cause a, _) => s.faultCmd id a p.i0
    | none, (_, .cause b) => s.faultCmd id b p.i0
    | none, (.wait s', _) => s'.againCmd id
    | none, (_, .wait s') => s'.againCmd id

/-- Stage 2: every destination line is owned and pinned, and the write lands. -/
def State.finishWrite (s : State) (id : Nat) (p : WritePlan) : State :=
  let c := s.cmd id
  match s.replies c.dsts, (s.writeRanges id p).2 with
  | some ds, .ok dst => match repliesCause (ds.map (fun d => { d with poison := false })) with
    | some cause => s.faultCmd id cause p.i0
    | none =>
      if s.standFor c.dsts (dst.filter (fun x => !x.2.2.nc)) then s.landWrite id dst
      else s.restartWrite id
  | _, .cause k => s.faultCmd id k p.i0
  | _, .wait s' => s'.againCmd id
  | none, .ok _ => s.againCmd id

/-- A command that has not started waits for every older one of its core to start (R327). -/
def State.mayStart (s : State) (id : Nat) : Bool :=
  (s.cmd id).started || s.cmds.all (fun e => e.2.core != (s.cmd id).core || decide (id ≤ e.1) || e.2.started)

/-- ENGINE_WRITE (R322 to R325): the command goes on with its current write (DESIGN CHOICE, log entry 84). -/
def execEngineWrite (cmd : Nat) (s : State) : Out :=
  .next (
    match Tab.find s.cmds cmd with
    | none => s
    | some c =>
      if s.mayStart cmd = false then s.againCmd cmd
      else
        let s := s.updCmd cmd (fun c => { c with started := true })
        if runs c.desc = 0 then s.zeroLength cmd
        else
          let p := c.plan
          match c.stage with
          | 0 => if c.cancelled then s.endCmd cmd 2 else s.startWrite cmd p
          | 1 => s.captureWrite cmd p
          | 2 => s.finishWrite cmd p
          | _ => match s.replies c.dsts with
            | none => s.againCmd cmd
            | some ds => match repliesCause ds with
              | some cause => s.faultCmd cmd cause p.i0
              | none => s.nextWrite cmd p.n)

/-- XPF_RANGE (R328): each line of the next source range is asked for in S or better; then the arrival. A poisoned line is a fault of
the command, as R325 gives. -/
def execXpfRange (cmd : Nat) (s : State) : Out :=
  .next (
    match Tab.find s.cmds cmd with
    | none => s
    | some c =>
      if s.mayStart cmd = false then s.againCmd cmd
      else
        let s := s.updCmd cmd (fun c => { c with started := true })
        if runs c.desc = 0 then s.zeroLength cmd
        else
          let a := runBase c.desc 0 28 c.run + c.off
          let n := min ((runBytes c.desc true).2 - c.off) (2048 - (a % 2048).toNat)
          if c.stage = 0 then
            if c.cancelled then s.endCmd cmd 2
            else match s.engineRange cmd a n rightR with
              | .cause k => s.faultCmd cmd k c.off
              | .wait s' => s'.againCmd cmd
              | .ok src =>
                let (ids, s) := s.engineReqs cmd false (src.filter (fun x => !x.2.2.nc))
                (s.updCmd cmd (fun c => { c with stage := 1, srcs := ids })).againCmd cmd
          else match s.replies c.srcs with
            | none => s.againCmd cmd
            | some ds => match repliesCause ds with
              | some cause => s.faultCmd cmd cause c.off
              | none => s.nextWrite cmd n)

/-- `xcancel` (R329): the selected commands stop after the write they are performing; the gang waits for them. -/
def execXcancel (f : RForm) (s : State) : Out :=
  .next (s.guarded (s.g.supplied (fun l => [(s.g.word l f.a f.lit).zeroExtend 64])) (fun s =>
  let g := s.g
  let sel := s.cmds.filter (fun e => e.2.gid == s.cur
    && (f.a == 116 || (ctl e.2.desc 2 && e.2.sw == (g.word g.elected f.a f.lit).toNat)))
  let sel := if g.gang.stage = 0 then sel else []
  if sel = [] then s.onGid Gid.advance
  else
    let s := sel.foldl (fun (s : State) e => s.updCmd e.1 (fun c => { c with cancelled := true })) s
    s.onGid (fun g => g.waitFor 1 (sel.map (·.1)))))

/-- `xstat` (R330), an elected form (DESIGN CHOICE, log entry 38). -/
def execXstat (f : RForm) (s : State) : Out :=
  let g := s.g
  let v : Dword := BitVec.ofNat 64 (g.ecyc * 2 ^ 32 + g.xdone * 2 ^ 13 + s.cmds.countP (fun e => e.2.gid == s.cur))
  s.computeOn g.isElected f.d 2 (fun _ => splitD v) 0 (ccNs 8)

/-! ### Typecase instructions (R334 to R336) -/

/-- A `tcload` of the lines `as` issues: each line comes by the L1 path (Table 2 of R76). -/
def State.tcloadIssue (s : State) (first count : Nat) (as : List LaneAcc) : State :=
  let g := s.g
  let fl := g.gang.fb.toNat
  let (op, s) := s.fresh
  let o : Op :=
    { gid := s.cur, kind := .engine, flag := fl, issued := s.ptime, first := first, count := count, gang := g.gang.uid }
  let s := { s with ops := Tab.ins s.ops op o }
  let s := as.foldl (fun (s : State) x =>
    let (rid, s) := s.fresh
    let s := { s with ops := Tab.upd o s.ops op (fun o =>
      { o with loads := o.loads ++ [({ lane := x.lane, ea := x.ea, pline := x.pa / 128, req := rid } : LaneLoad)] }) }
    match (if s.stillHits x then (s.pair (pairOf g.core)).line s.asid g.kslot (x.ea.toNat / 128) else none) with
    | some l => s.putReq rid { kind := .bypass, core := g.core, op := op, gid := s.cur, pline := l.pline, reply := some { bytes := l.words } }
    | none => s.fetchLine rid op .l1 0 [x]) s
  let s := (s.later 10 (.longOpComplete op)).later 50000 (.loadReplyTimeout op)
  s.onGid (fun g =>
    let g := (g.flagUp fl).advance
    if fl = 15 then { g with gang := { g.gang with pend := [op] } } else g)

/-- One line of a `tcload`'s image: alignment, then the checks of a plain read, then the access table of its target (R334). -/
def State.probeImage (s : State) (a : Dword) (p : Dword × Nat) : Probe :=
  let g := s.g
  if a.toNat % 16 ≠ 0 then .stop g.elected 0x07
  else match s.probeAt g.elected p.1 p.2 rightR true false false with
    | .acc x => if (s.permits (s.targetOf x.pa) g.core (s.launch g.launch).tenant x.pa .fetch).isNone then .stop g.elected 0x18 else .acc x
    | q => q

/-- The first line of an image that its access table denies is recorded there (R72). -/
def State.recordImage (s : State) (a : Dword) (ps : List (Dword × Nat)) : State :=
  match ps.find? (fun p => s.probeImage a p == .stop s.g.elected 0x18) with
  | none => s
  | some p => match s.probeAt s.g.elected p.1 p.2 rightR true false false with
    | .acc x => s.recordDenial (s.targetOf x.pa) .fetch s.g.core (x.pa - x.pa % 128)
    | _ => s

/-- `tcload` (R334, R411): form, checks of the whole image, then the reads; entries are written as data arrives. -/
def execTcload (f : RForm) (s : State) : Out :=
  let g := s.g
  let e := g.elected
  let a := g.dword e f.a f.lit
  let sel := g.word e f.b f.lit
  let first := sel.toNat % 256
  let count := sel.toNat / 256 % 512
  .next (s.guarded (g.supplied (fun k => [g.dword k f.a f.lit, (g.word k f.b f.lit).zeroExtend 64])) (fun s =>
    if count = 0 ∨ 256 < count ∨ 256 < first + count then s.raiseExact 0x10 e
    else if g.flagRoom g.gang.fb.toNat = false then s
    else
      let chunks := lineStarts (a.toNat : Int) (16 * count)
      let probes := chunks.map (s.probeImage a)
      let denied := probes.contains (.stop e 0x18) && probes.all (fun p => match p with
        | .walk _ | .renew _ => false
        | _ => true)
      match (if denied then s.recordImage a chunks else s).checkLanes rightR probes [(e, a)] with
      | .error s' => s'
      | .ok as =>
        let lim := (s.launch g.launch).forme.tcimg.toNat
        if (s.launch g.launch).forme.att = true ∧ ¬(lim ≤ a.toNat ∧ a.toNat + 16 * count ≤ lim + 4096) then s.raiseExact 0x18 e
        else s.tcloadIssue first count as))

/-- Entries of a bank take bytes: 16 to an entry. -/
def Pair.putEntries (p : Pair) (kslot first : Nat) (bs : List Byte) : Pair :=
  { p with bank := putFrom p.bank (256 * kslot + first) ((pieces 16 bs.length bs).map (fun e => BitVec.ofNat 128 (natOfBytes e))) }

/-- Entries not written take V = 0 (R334). -/
def Pair.voidEntries (p : Pair) (kslot first n : Nat) : Pair :=
  { p with bank := (List.range n).foldl (fun b i =>
      Tab.upd 0 b (256 * kslot + first + i) (fun v => v &&& ~~~((1#128) <<< 80))) p.bank }

/-- A `tcload` ends: its requests are forgotten, its flag falls. -/
def State.endTcload (s : State) (op : Nat) (o : Op) : State :=
  let s := s.updGid o.gid (fun g => g.flagDown o.flag)
  { s with ops := Tab.del s.ops op, reqs := s.reqs.filter (fun e => e.2.op != op) }.unpend o.gid op

/-- A `tcload` writes the entries whose data has arrived, in ascending order and after every older `tcload` of its
kernel slot on the core (R334); a denial or poison voids the rest. -/
def State.tcloadGo (s : State) (op : Nat) (o : Op) : State :=
  let g := s.gid o.gid
  let older := s.ops.any (fun e => decide (e.1 < op) && e.2.kind == .engine && (s.gid e.2.gid).core == g.core
    && (s.gid e.2.gid).kslot == g.kslot)
  if older then s.later 10 (.longOpComplete op)
  else
    let got := o.loads.takeWhile (fun ll => (s.req ll.req).reply.isSome)
    let ds := got.map (fun ll => ((s.req ll.req).reply.getD { bytes := 0 }))
    let good := (got.zip ds).takeWhile (fun x => (causeOf x.2).isNone)
    let total := 16 * o.count
    let a0 := match o.loads with
      | [] => 0
      | ll :: _ => ll.ea.toNat
    let bs := good.flatMap (fun x =>
      let r := s.req x.1.req
      let line := mergeLine x.2.bytes r.data r.mask
      let off := x.1.ea.toNat % 128
      (List.range (min (128 - off) (a0 + total - x.1.ea.toNat))).map (fun i => lineByte line (off + i)))
    let s := s.updPair (pairOf g.core) (fun p => p.putEntries g.kslot o.first bs)
    let done := bs.length / 16
    match repliesCause ds with
    | some c =>
      ((s.updPair (pairOf g.core) (fun p => p.voidEntries g.kslot (o.first + done) (o.count - done))).report o.gid { cause := c }).endTcload
        op o
    | none =>
      if o.count ≤ done then s.endTcload op o
      else ({ s with ops := Tab.ins s.ops op { o with written := done } }).later 10 (.longOpComplete op)

/-- A `tcload` of a gang's core and kernel slot is outstanding. -/
def State.tcloadOpen (s : State) (f : Nat → Gid → Bool) : Bool :=
  s.ops.any (fun e => e.2.kind == .engine && f e.2.gid (s.gid e.2.gid))

/-- `tcfence` (R335). -/
def execTcfence (s : State) : Out :=
  let g := s.g
  if s.tcloadOpen (fun _ o => o.core == g.core && o.kslot == g.kslot) then .next s
  else .next (s.onGid (fun g => g.continueAt s.ptime g.gang.next))

/-- `tcread` (R336): after the gang id's earlier `tcload` instructions. -/
def execTcread (f : RForm) (s : State) : Out :=
  let g := s.g
  if s.tcloadOpen (fun k _ => k == s.cur) then .next s
  else
    let p := s.pair (pairOf g.core)
    s.compute f.d 4 (fun l => splitN 4 (Tab.get 0 p.bank (256 * g.kslot + (g.word l f.b f.lit).toNat % 256)).toNat) 0 (ccNs 8)

end Sys2Proof.Machine
end

