-- ==== Sys2Proof/Machine/Matrix.lean ====
section
/-!
DEFINITION. The matrix unit: tiles, the weight latch, the array and the accumulators (11 R287 to R306, 07 R188 to R190),
and the count of metered work at the core (15 R392 to R394). An operation whose operands stand in the core takes effect
when it issues, and its registers, flags and counts follow when it completes; one that reads memory takes effect when
its data has arrived, and later operations on the state it uses wait for it (R208, R289).
-/

namespace Sys2Proof.Machine

/-! ### The array's arithmetic (R188, R189) -/

/-- `ext_round`: 24 significant bits, to nearest even; and whether it is inexact (R188). -/
def extRound (v : Num) : Num × Nat :=
  match v with
  | .fin n m e =>
    if Nat.log2 m < 24 then (.fin n m e, 0)
    else
      let k := Nat.log2 m - 23
      let (q, nx) := roundShift 0 n m k
      (.fin n q (e + k), if nx then flNX else 0)
  | v => (v, 0)

/-- One addition of the tree, with the flags so far (R189). -/
def addExt (a b : Num × Nat) : Num × Nat :=
  let (v, bad) := addNum 0 a.1 b.1
  let (r, fl) := extRound v
  (r, a.2 ||| b.2 ||| fl ||| nvIf bad)

/-- One level of the tree: neighbours are added. -/
def treeLevel : List (Num × Nat) → List (Num × Nat)
  | a :: b :: l => addExt a b :: treeLevel l
  | _ => []

/-- `tree16` (R189). -/
def tree16 (p : List (Num × Nat)) : Num × Nat := (treeLevel (treeLevel (treeLevel (treeLevel p)))).headD (.fin false 0 0, 0)

/-- `acc_add` (R189). -/
def accAdd (acc : Word) (s : Num × Nat) : Word × Nat :=
  let a := f32.decode acc.toNat
  let (v, bad) := addNum 0 a s.1
  let r := f32.round 0 v
  (BitVec.ofNat 32 r.bits, r.flags ||| s.2 ||| nvIf (bad || a.isSnan))

/-- A product of the array: exact, or +0 where it is skipped (R188, R190). -/
def product (skip : Bool) (x w : Num) : Num × Nat :=
  if skip then (.fin false 0 0, 0) else
    let (v, bad) := mulNum x w
    (v, nvIf bad)

/-- One output element: the K-blocks in stream order, from `c` (R302). -/
def mmaElem (k : Nat) (c : Word × Nat) (x w : Nat → Num) (skip : Nat → Bool) : Word × Nat :=
  (List.range ((k + 15) / 16)).foldl (fun a kb =>
    let ps := (List.range 16).map (fun i =>
      let j := 16 * kb + i
      if k ≤ j then ((.fin false 0 0, 0) : Num × Nat) else product (skip j) (x j) (w j))
    let r := accAdd a.1 (tree16 ps)
    (r.1, a.2 ||| r.2)) c

/-! ### Shapes and rows (R290, R291) -/

def shRows (v : Dword) : Nat := field v 7 0
def shCols (v : Dword) : Nat := field v 15 8
def shFmt (v : Dword) : Nat := field v 20 16
def shZmv (v : Dword) : Bool := v.getLsbD 22

/-- VALID of a shape (R290). -/
def shapeOk (rows cols fmt : Nat) : Bool :=
  decide (1 ≤ rows ∧ rows ≤ 128 ∧ 1 ≤ cols ∧ cols ≤ 128 ∧ 2 ≤ fmt ∧ fmt ≤ 9)
    && (if fmt < 4 then true else if fmt ≤ 6 then cols % 32 == 0 else cols % 16 == 0)

/-- TSHAPE with new RW fields: VALID recomputed and ZMV clear (R290). -/
def shapeReg (rows cols fmt : Nat) : Dword :=
  BitVec.ofNat 64 (rows % 256 + cols % 256 * 2 ^ 8 + fmt % 32 * 2 ^ 16
    + (if shapeOk (rows % 256) (cols % 256) (fmt % 32) then 2 ^ 21 else 0))

def Mat.shape (m : Mat) (t : Nat) : Dword := Tab.get 0 m.tshape t
def Mat.tag (m : Mat) (t : Nat) : Dword := Tab.get 0 m.ttag t

/-- RB of Table 2. -/
def rowLen (fmt cols : Nat) : Nat := if fmt < 4 then 2 * cols else blockBytes fmt * cols / blockLen fmt

/-- ρ of Table 2. -/
def rateOf (fmt : Nat) : Nat := match fmt with
  | 2 | 3 => 1
  | 6 | 7 => 4
  | _ => 2

/-- Byte `i` of row `r` of a tile. -/
def Mat.tileByte (m : Mat) (t r i : Nat) : Byte := Tab.get 0 m.tiles (32768 * t + 256 * r + i)

/-- `n` bytes of a tile row. -/
def Mat.rowBytes (m : Mat) (t r n : Nat) : List Nat :=
  let w := Tab.window m.tiles (32768 * t + 256 * r) n
  (List.range n).map (fun i => (Tab.get 0 w (32768 * t + 256 * r + i)).toNat)

/-- Bytes of a tile row are written from its start. -/
def Mat.putRow (m : Mat) (t r : Nat) (bs : List Byte) : Mat := { m with tiles := putFrom m.tiles (32768 * t + 256 * r) bs }

/-- A row padded with zero bytes to a multiple of 32 (R291). -/
def padRow (bs : List Byte) : List Byte := bs ++ List.replicate ((32 - bs.length % 32) % 32) 0

/-- The elements of a stored row (R291). -/
def rowNums (fmt cols : Nat) (bs : List Nat) : List Num :=
  if fmt < 4 then (pieces 2 cols bs).map (fun p => (fmtOf fmt).decode (natOfList p))
  else (pieces (blockBytes fmt) (cols / blockLen fmt) bs).flatMap (unpackBlock fmt)

/-- Exact zero, positive. -/
def numZero : Num := .fin false 0 0

/-- Element (r, c) of rows of elements. -/
def elemAt (m : List (List Num)) (r c : Nat) : Num := (m.getD r []).getD c numZero

/-- The elements of a tile by its shape. -/
def Mat.elems (m : Mat) (t : Nat) : List (List Num) :=
  let v := m.shape t
  (List.range (shRows v)).map (fun r => rowNums (shFmt v) (shCols v) (m.rowBytes t r (rowLen (shFmt v) (shCols v))))

/-- The zero-block map is no longer used (R297). -/
def Mat.clearMap (m : Mat) (t : Nat) : Mat := { m with tshape := Tab.upd 0 m.tshape t (fun v => v &&& ~~~(1#64 <<< 22)) }

/-- A zero-block map becomes valid (R297). -/
def Mat.setMap (m : Mat) (t : Nat) (z : BitVec 256) : Mat :=
  { m with zmap := Tab.ins m.zmap t z, tshape := Tab.upd 0 m.tshape t (fun v => v ||| (1#64 <<< 22)) }

/-- A value that decodes to ±0. -/
def Num.isZero : Num → Bool
  | .fin _ m _ => m == 0
  | _ => false

/-- The zero-block map of rows of elements (R297): positions outside count as zero. -/
def zeroMap (es : List (List Num)) : BitVec 256 :=
  BitVec.ofNat 256 ((List.range 256).foldl (fun a b =>
    let zero := (List.range 8).all (fun i => (List.range 8).all (fun j => (elemAt es (8 * (b / 16) + i) (8 * (b % 16) + j)).isZero))
    if zero then a + 2 ^ b else a) 0)

/-! ### Operands (R288) -/

/-- Matrix operands are read from the elected lane; in protected mode its shadow's are compared (R389). -/
def State.matrixForm (s : State) (f : RForm) (act : State → State) : Out :=
  let g := s.g
  .next (s.guarded (g.supplied (fun l => [g.dword l f.a f.lit, (g.word l f.b f.lit).zeroExtend 64])) act)

/-- The core's matrix state changes. -/
def State.updMat (s : State) (core : Nat) (f : Mat → Mat) : State := s.updCore core (fun c => { c with mat := f c.mat })

end Sys2Proof.Machine

namespace Sys2Proof

/-! Fields of a T prefix (R201), 0 where the form has none. -/

def RForm.ta (f : RForm) : Nat := match f.p with
  | .t p => p.ta.toNat
  | _ => 0
def RForm.tb (f : RForm) : Nat := match f.p with
  | .t p => p.tb.toNat
  | _ => 0
def RForm.acc (f : RForm) : Nat := match f.p with
  | .t p => p.acc.toNat
  | _ => 0
def RForm.sb (f : RForm) : Nat := match f.p with
  | .t p => p.sb.toNat
  | _ => 0
def RForm.tr (f : RForm) : Bool := match f.p with
  | .t p => p.tr = 1
  | _ => false
def RForm.spb (f : RForm) : Bool := match f.p with
  | .t p => p.spb = 1
  | _ => false
def RForm.tz (f : RForm) : Bool := match f.p with
  | .t p => p.z = 1
  | _ => false
def RForm.td (f : RForm) : Bool := match f.p with
  | .t p => p.d = 1
  | _ => false
def RForm.afmt (f : RForm) : Nat := match f.p with
  | .t p => p.afmt.toNat
  | _ => 0

end Sys2Proof

namespace Sys2Proof.Machine

/-- Bits of the matrix state that an operation uses: tiles, accumulators, the latch, bindings (see `Op.tiles`). -/
def tileBit (t : Nat) : BitVec 17 := 1#17 <<< t
def accBit (a : Nat) : BitVec 17 := 1#17 <<< (8 + a)
def latchBit : BitVec 17 := 1#17 <<< 12
def bindBit (b : Nat) : BitVec 17 := 1#17 <<< (13 + b)

/-- A matrix operation issues (R208): it counts in its flag and completes after `cc` cycles. -/
def State.issueMat (s : State) (o : Op) (cc : Nat) : State :=
  s.issueOp { o with kind := .matrix, lanes := s.g.gang.active } (ccNs cc) .matrixOpComplete

/-- An instruction that waits while its flag holds 63 operations (R208). -/
def State.withRoom (s : State) (fl : Nat) (act : State → State) : State := if s.g.flagRoom fl then act s else s

/-! ### Counting (R392 to R394) -/

/-- Page of a core's slot in the imprint port, as an address in X1's window (R393). -/
def imprintSlot (core : Nat) : Nat := 0xF00000000000 + 33 * 2 ^ 30 + 0x200000 + 16 * core

/-- A core sends its pending count to X1 (R392, R393). -/
def State.flushCount (s : State) (core : Nat) : State :=
  let c := s.core core
  if c.pcnt = 0 then s
  else
    let pa := imprintSlot core
    let o := pa % 128
    let v := c.pcnt % 2 ^ 32 + c.preg.toNat * 2 ^ 32 + c.pten.toNat * 2 ^ 48
    let (id, s) := s.newReq
      { kind := .flush, core := core, pline := pa / 128, master := BitVec.ofNat 12 core, tenant := c.pten, cls := 0x07
        mask := bytesMask o 16, data := BitVec.ofNat 1024 (v * 2 ^ (8 * o)), target := x1 }
    (s.updCore core (fun c => { c with pcnt := 0 })).direct id

/-- MACs are counted for a key (R392). -/
def State.countMacs (s : State) (core : Nat) (region tenant : BitVec 12) (n : Nat) : State :=
  let c := s.core core
  let s := if c.pcnt ≠ 0 ∧ (c.preg ≠ region ∨ c.pten ≠ tenant) then s.flushCount core else s
  let s := s.updCore core (fun c => { c with preg := region, pten := tenant, pcnt := c.pcnt + n })
  if 2 ^ 20 ≤ (s.core core).pcnt then s.soonOnce (.imprintThresholdFlush core) else s

/-- IMPRINT_THRESHOLD_FLUSH (R392). -/
def execImprintThresholdFlush (core : Nat) (s : State) : Out :=
  .next (if 2 ^ 20 ≤ (s.core core).pcnt then s.flushCount core else s)

/-- Counts a core holds that X1 has not applied (R394). -/
def State.unapplied (s : State) (core : Nat) : Nat :=
  (s.core core).pcnt
    + s.ops.foldl (fun a e => if e.2.metered && (s.gid e.2.gid).core == core then a + e.2.macs else a) 0
    + s.reqs.foldl (fun a e => if e.2.kind = .flush ∧ e.2.core = core
        then a + e.2.data.toNat / 2 ^ (8 * (imprintSlot core % 128)) % 2 ^ 32 else a) 0

/-- Most MACs a core may hold (R394). -/
def macLimit : Nat := 2 ^ 23

/-- MXSTAT gains skipped blocks and array cycles, each saturating (Table 6 of R303). -/
def mxstatAdd (v : Dword) (skips cycles : Nat) : Dword :=
  BitVec.ofNat 64 (min (field v 63 32 + skips) 0xFFFFFFFF * 2 ^ 32 + min (field v 31 0 + cycles) 0xFFFFFFFF)

/-- A matrix operation completes (R289): its registers and flags are written, MXSTAT and the count gain its work. -/
def State.finishMat (s : State) (id : Nat) (o : Op) : State :=
  let g := s.gid o.gid
  let s := s.updMat g.core (fun m => { m with mxstat := mxstatAdd m.mxstat o.skips o.cycles })
  let s := s.completeOp id
  if o.metered ∧ o.macs ≠ 0 then s.countMacs g.core o.region (s.launch g.launch).tenant o.macs else s

/-! ### Rows in memory and scratchpad (R295) -/

/-- The transfer of rows: base, stride, their number and bytes. -/
structure Rows where
  base : Nat
  stride : Nat
  n : Nat
  len : Nat
  deriving DecidableEq, Repr

/-- Address of a row. -/
def Rows.at_ (r : Rows) (k : Nat) : Nat := r.base + k * r.stride

/-- A base or stride that breaks the alignment rule of R295. -/
def Rows.misaligned (r : Rows) (store : Bool) : Bool :=
  r.base % 16 != 0 || r.stride % 16 != 0 || (store && r.n != 1 && decide (r.stride < r.len))

/-- The rows cut at line boundaries. -/
def Rows.parts (r : Rows) : List (Dword × Nat) := (List.range r.n).flatMap (fun k => lineStarts (r.at_ k : Nat) r.len)

/-- The rows an instruction transfers: `a` is a global address, or an offset with `.sp`. -/
def Gid.rowsOf (g : Gid) (f : RForm) (n len : Nat) : Rows :=
  let e := g.elected
  ⟨if f.spb then (g.word e f.a f.lit).toNat else (g.dword e f.a f.lit).toNat, (g.word e f.b f.lit).toNat, n, len⟩

/-- The checks of every byte of the rows before any is transferred (R295). -/
def State.checkRows (s : State) (f : RForm) (r : Rows) (store : Bool) : Except State (List LaneAcc) :=
  let e := s.g.elected
  let at0 : Dword := BitVec.ofNat 64 r.base
  if r.misaligned store then .error (s.raiseExact 0x07 e [(e, at0)])
  else if f.spb then
    s.checkLanes 0 ((List.range r.n).map (fun k => match s.probeScr e (r.at_ k : Nat) 1, s.probeScr e (r.at_ k + r.len - 1 : Nat) 1 with
      | .stop l c, _ => .stop l c
      | _, .stop l c => .stop l c
      | p, _ => p)) [(e, at0)]
  else
    let right := if store then rightW else rightR
    s.checkLanes right (r.parts.map (fun p => s.probeAt e p.1 p.2 right true (!store) store)) [(e, at0)]

/-- SPCONF of rows moved to or from scratchpad: one instruction, the conflicts of each row's access (R82, R83). -/
def State.countRows (s : State) (r : Rows) : State :=
  let g := s.g
  let (pair, base, _) := s.window
  let k := (List.range r.n).foldl (fun a i => a + s.conflicts pair base [{ lane := 0, ea := 0, pa := r.at_ i }] r.len) 0
  s.updCore g.core (fun c =>
    { c with spconf := Tab.upd 0 c.spconf g.team (fun v =>
        BitVec.ofNat 64 (min (field v 63 32 + 1) 0xFFFFFFFF * 2 ^ 32 + min (field v 31 0 + k) 0xFFFFFFFF)) })

/-- Bytes of the rows in scratchpad. -/
def State.scrRows (s : State) (r : Rows) : List (List Byte) :=
  let (pair, base, _) := s.window
  let p := s.pair pair
  (List.range r.n).map (fun k => (List.range r.len).map (fun i => p.scrByte (base + r.at_ k + i)))

/-- Lines of rows whose address registers carry the taint of an `ld.cons` at die scope or wider: their clean words in L1 are treated
as invalid (R145). -/
def State.taintRows (s : State) (f : RForm) (r : Rows) : State :=
  let g := s.g
  let e := g.elected
  if f.spb = false ∧ (g.taintedWide f.a e = true ∨ (g.taintOf e f.b 1 && decide (3 ≤ (g.lane e).consScope.toNat)) = true) then
    s.dropLines (r.parts.map (fun p => p.1.toNat / 128)).eraseDups
  else s

/-- The lines of the rows are asked for on behalf of operation `op` (R76): those in L1 are taken as they stand, unless another tag
of the rows has taken the line (R66). -/
def State.fetchRows (s : State) (op : Nat) (as : List LaneAcc) : State :=
  (linesOf as).foldl (fun (s : State) v =>
    let mine := as.filter (fun a => a.ea.toNat / 128 == v)
    let a := mine.headD default
    let g := s.g
    let (id, s) := s.fresh
    let s := { s with ops := Tab.upd { gid := 0, kind := .matrix } s.ops op (fun o =>
      { o with loads := o.loads ++ [({ lane := a.lane, ea := BitVec.ofNat 64 (128 * v), pline := a.pa / 128, req := id } : LaneLoad)] }) }
    if mine.all s.stillHits then
      let bytes := match (s.pair (pairOf g.core)).line s.asid g.kslot v with
        | some l => l.words
        | none => 0
      s.putReq id { kind := .bypass, core := g.core, op := op, gid := s.cur, pline := a.pa / 128, reply := some { bytes := bytes } }
    else s.fetchLine id op .l1 0 mine) s

/-- Region and version of the last row that lies in a weight page, as the chiplet's table reads at issue (R296). -/
def State.weightTag (s : State) (as : List LaneAcc) : Option Dword :=
  match (as.filter (·.wt)).getLast? with
  | none => none
  | some a =>
    let g := a.ireg.toNat
    let ver := field (s.reg (chipOf (pairOf s.g.core)) (0xE0000 + 8 * (g / 2))) (32 * (g % 2) + 31) (32 * (g % 2))
    some (BitVec.ofNat 64 (ver * 2 ^ 32 + g * 2 ^ 20 + 2 ^ 19))

/-- An operation that waits for rows from memory issues; it goes on as MATRIX_OP_COMPLETE finds its data. -/
def State.issueRows (s : State) (i : Instr) (o : Op) (args : List Nat) (as : List LaneAcc) : State :=
  let id := s.nextId
  let s := s.issueMat { o with todo := some i, args := args } 24
  s.fetchRows id as

/-- The bytes of a row from the lines that have arrived. -/
def State.rowFrom (s : State) (o : Op) (a n : Nat) : List Byte :=
  (List.range n).map (fun i =>
    match o.loads.find? (fun ll => ll.ea.toNat / 128 == (a + i) / 128) with
    | some ll =>
      let r := s.req ll.req
      lineByte (mergeLine ((r.reply.getD { bytes := 0 }).bytes) r.data r.mask) ((a + i) % 128)
    | none => 0)

/-! ### Tile instructions (R294 to R298) -/

/-- The core on which the issuing gang's matrix unit stands. -/
def State.mat (s : State) : Mat := (s.core s.g.core).mat

/-- Held writes of TSHAPE on a core apply, of the gang ids and gangs that `on` names (R290). -/
def State.applyShapes (s : State) (core : Nat) (on : Nat → Nat → Bool) : State :=
  s.updMat core (fun m =>
    let (now, rest) := m.tspend.partition (fun w => on w.1 w.2.1)
    { m with tspend := rest, tshape := now.foldl (fun t w => Tab.ins t w.2.2.1 w.2.2.2) m.tshape })

/-- `tshape` (R294): from the next clause (DEDUCED, log entry 46). -/
def execTshape (f : RForm) (s : State) : Out :=
  s.matrixForm f (fun s =>
    let g := s.g
    let lim (v : Word) : Nat := if v.toNat ≤ 128 then v.toNat else 0
    let v := shapeReg (lim (g.word g.elected f.a f.lit)) (lim (g.word g.elected f.b f.lit)) f.afmt
    (s.updMat g.core (fun m => { m with tspend := m.tspend ++ [(s.cur, g.gang.uid, f.ta, v)] })).onGid Gid.advance)

/-- Rows go into a tile with their padding; its map is not valid (R295, R297). -/
def Mat.putRows (m : Mat) (t : Nat) (rows : List (List Byte)) : Mat :=
  (rows.mapIdx (fun r bs => (r, bs))).foldl (fun m x => m.putRow t x.1 (padRow x.2)) m

/-- `tld` (R295, R296): from memory, TSHAPE changes only as the rows are written (R315). -/
def execTld (f : RForm) (s : State) : Out :=
  s.matrixForm f (fun s =>
    let g := s.g
    let sh := s.mat.shape f.ta
    let r := g.rowsOf f (shRows sh) (rowLen (shFmt sh) (shCols sh))
    let s := s.taintRows f r
    match s.checkRows f r false with
    | .error s' => s'
    | .ok as => s.withRoom g.gang.fb.toNat (fun s =>
      let o : Op := { gid := s.cur, kind := .matrix, flag := g.gang.fb.toNat, tiles := tileBit f.ta }
      if f.spb then
        let rows := s.scrRows r
        ((s.countRows r).updMat g.core (fun m => (m.putRows f.ta rows).clearMap f.ta)).issueMat o (18 + r.n * r.len / 64)
      else
        let tag := s.weightTag as
        let s := s.updMat g.core (fun m => match tag with
          | some v => { m with ttag := Tab.ins m.ttag f.ta v }
          | none => m)
        s.issueRows (.tld f) o [r.base, r.stride, r.n, r.len] as))

/-- Pieces of rows whose words must be valid before bytes of them are written (R86). -/
def partialPieces (as : List LaneAcc) (ps : List (Dword × Nat)) : List LaneAcc :=
  ((as.zip ps).filter (fun x => !x.1.nc && !x.1.hit && (x.2.1.toNat % 4 != 0 || x.2.2 % 4 != 0))).map (·.1)

/-- Rows are stored (R295): checks, commit and fills as for `st.g`, then the bytes; the operation completes later. -/
def State.storeRows (s : State) (f : RForm) (r : Rows) (bytes : Nat → List Byte) (o : Op) : State :=
  match s.checkRows f r true with
  | .error s' => s'
  | .ok as => s.withRoom o.flag (fun s =>
    let g := s.g
    if f.spb then
      let (pair, base, _) := s.window
      let s := s.countRows r
      let s := s.updPair pair (fun p => (List.range r.n).foldl (fun p k => p.scrWrite (base + r.at_ k) (bytes k)) p)
      (s.retestSw g.team).issueMat o (18 + r.n * r.len / 64)
    else if s.mustCommit as then
      let s := (s.commit s.cur g.team).2
      s.onGid (fun g => g.waitFor g.gang.stage (s.openWrites (pairOf g.core)))
    else
      let fills := partialPieces as r.parts
      if fills ≠ [] then
        let (ids, s) := (linesOf fills).foldl (fun (ids, s) v =>
          let (id, s) := State.fresh s
          (ids ++ [id], s.fetchLine id 0 .l1 0 (fills.filter (fun a => a.ea.toNat / 128 == v)))) ([], s)
        s.onGid (fun g => g.waitFor g.gang.stage ids)
      else
        let all := (List.range r.n).flatMap bytes
        let s := ((as.zip r.parts).foldl (fun (acc : State × List Byte) x =>
          let n := x.2.2
          let v := natOfBytes (acc.2.take n)
          (if x.1.nc then acc.1.storeNc x.1 n v else acc.1.storeL1 x.1 n v, acc.2.drop n)) (s, all)).1
        s.issueMat o (24 + r.n * r.len / 64))

/-- `tst` (R295). -/
def execTst (f : RForm) (s : State) : Out :=
  s.matrixForm f (fun s =>
    let g := s.g
    let m := s.mat
    let sh := m.shape f.ta
    let r := g.rowsOf f (shRows sh) (rowLen (shFmt sh) (shCols sh))
    s.storeRows f r (fun k => (m.rowBytes f.ta k r.len).map (BitVec.ofNat 8))
      { gid := s.cur, kind := .matrix, flag := g.gang.fb.toNat })

/-- A tile without its bytes: every byte reads zero. -/
def Mat.zeroTile (m : Mat) (t : Nat) : Mat := { m with tiles := m.tiles.filter (fun e => e.1 / 32768 != t) }

/-- `tzero` (R297). -/
def execTzero (f : RForm) (s : State) : Out :=
  s.matrixForm f (fun s => (s.updMat s.g.core (fun m =>
    let m := (m.zeroTile f.ta).setMap f.ta (BitVec.allOnes 256)
    { m with ttag := Tab.upd 0 m.ttag f.ta (fun v => v &&& ~~~(1#64 <<< 19)) })).onGid Gid.advance)

/-- `tmask` (R297). -/
def execTmask (f : RForm) (s : State) : Out :=
  s.matrixForm f (fun s => (s.updMat s.g.core (fun m => m.setMap f.ta (zeroMap (m.elems f.ta)))).onGid Gid.advance)

/-- `tmov` (R298): every row, padding included, with the tag of R296. -/
def execTmov (f : RForm) (s : State) : Out :=
  s.matrixForm f (fun s => s.withRoom s.g.gang.fb.toNat (fun s =>
    let g := s.g
    let s := s.updMat g.core (fun m =>
      let m := m.clearMap f.ta
      if f.ta = f.tb then m
      else
        let src := m.tiles.filter (fun e => e.1 / 32768 == f.tb)
        let m := m.zeroTile f.ta
        let m := { m with tiles := src.foldr (fun (e : Nat × Byte) (t : Tab Byte) => Tab.ins t (32768 * f.ta + e.1 % 32768) e.2) m.tiles }
        if (m.tag f.tb).getLsbD 19 then { m with ttag := Tab.ins m.ttag f.ta (m.tag f.tb) } else m)
    s.issueMat { gid := s.cur, kind := .matrix, flag := g.gang.fb.toNat, tiles := tileBit f.ta } 132))

/-- Position of lane `l` in the row that a selector names: its row and first byte, where the lane transfers (R298). -/
def fragAt (width sel l : Nat) : Option (Nat × Nat) :=
  let k := sel / 128 % 4 * width + l
  if k < 64 then some (sel % 128, 4 * k) else none

/-- `tfrag d, tA, b` (R298). -/
def execTfragRead (f : RForm) (s : State) : Out :=
  s.matrixForm f (fun s =>
    let g := s.g
    let fl := g.flagFor f.d
    s.withRoom fl (fun s =>
      let m := s.mat
      let sel := (g.word g.elected f.b f.lit).toNat
      let on (l : Nat) : Bool := (fragAt g.width sel l).isSome
      let v (l : Nat) : List Word := match fragAt g.width sel l with
        | some (r, i) => [BitVec.ofNat 32 (natOfList ((List.range 4).map (fun j => (m.tileByte f.ta r (i + j)).toNat)))]
        | none => []
      s.issueMat { gid := s.cur, kind := .matrix, flag := fl, dst := f.d, writes := g.wrOn on f.d v } 8))

/-- `tfrag tA, a, b` (R298). -/
def execTfragWrite (f : RForm) (s : State) : Out :=
  s.matrixForm f (fun s => s.withRoom s.g.gang.fb.toNat (fun s =>
    let g := s.g
    let sel := (g.word g.elected f.b f.lit).toNat
    let put (m : Mat) (l : Nat) : Mat := match fragAt g.width sel l with
      | some (r, i) =>
        let bs := (listOfNat 4 (g.word l f.a f.lit).toNat).map (BitVec.ofNat 8)
        { m with tiles := putFrom m.tiles (32768 * f.ta + 256 * r + i) bs }
      | none => m
    let s := s.updMat g.core (fun m => (g.actives.foldl put m).clearMap f.ta)
    s.issueMat { gid := s.cur, kind := .matrix, flag := g.gang.fb.toNat, tiles := tileBit f.ta } 8))

/-! ### The latch (R299, R300) -/

def laK (v : Dword) : Nat := field v 7 0
def laN (v : Dword) : Nat := field v 15 8
def laFmt (v : Dword) : Nat := field v 16 12
def laValid (v : Dword) : Bool := v.getLsbD 17
def laPair (v : Dword) : Bool := v.getLsbD 18
def laMet (v : Dword) : Bool := v.getLsbD 19
def laReg (v : Dword) : BitVec 12 := v.extractLsb' 20 12
def laVer (v : Dword) : Word := v.extractLsb' 32 32

/-- LATCH from a tag, a format and the mode (Table 4). -/
def latchReg (tag : Dword) (fmt : Nat) (pair : Bool) : Dword :=
  (tag &&& 0xFFFFFFFFFFF80000#64) ||| BitVec.ofNat 64 (fmt * 2 ^ 12 + 2 ^ 17 + (if pair then 2 ^ 18 else 0))

/-- LSHAPE (Table 5). -/
def lshapeReg (sh : Dword) (tr : Bool) : Dword :=
  if tr then BitVec.ofNat 64 (shCols sh + shRows sh * 2 ^ 8) else BitVec.ofNat 64 (shRows sh + shCols sh * 2 ^ 8)

/-- Latched rows from lists of bytes. -/
def rowImage (rows : List (List Byte)) : Tab Byte :=
  (rows.mapIdx (fun r bs => (r, bs))).foldl (fun t x => putFrom t (256 * x.1) x.2) []

/-- The elements of a latched image. -/
def imageNums (lw : Tab Byte) (fmt rows cols : Nat) : List (List Num) :=
  (List.range rows).map (fun r =>
    let w := Tab.window lw (256 * r) 256
    rowNums fmt cols ((List.range (rowLen fmt cols)).map (fun i => (Tab.get 0 w (256 * r + i)).toNat)))

/-- The weights w(k, n), by k: columns of the follower's half from N on. -/
def Mat.weights (m : Mat) : List (List Num) :=
  let k := laK m.lshape
  let n := laN m.lshape
  let (rows, cols) := if m.ltr then (n, k) else (k, n)
  let a := imageNums m.lw (laFmt m.latch) rows cols
  let b := if laPair m.latch then imageNums m.lw2 (laFmt m.latch) rows cols else []
  (List.range k).map (fun i => (List.range (if laPair m.latch then 2 * n else n)).map (fun j =>
    let (src, c) := if j < n then (a, j) else (b, j - n)
    if m.ltr then elemAt src c i else elemAt src i c))

/-- A latch is set (R299): in pair mode the follower's array takes the second half as a single latch. -/
def State.setLatch (s : State) (core : Nat) (sh tag : Dword) (tr pair : Bool) (rows rows2 : List (List Byte)) : State :=
  let set (m : Mat) (p : Bool) (a b : List (List Byte)) : Mat :=
    { m with latch := latchReg tag (shFmt sh) p, lshape := lshapeReg sh tr, ltr := tr, lw := rowImage a, lw2 := rowImage b }
  let s := s.updMat core (fun m => set m pair rows rows2)
  if pair then s.updMat (core + 1) (fun m => set m false rows2 []) else s

/-- `wlatch` (R299): from a tile, or from memory rows; a pair latch reads the follower's tile, which the follower's instructions then
wait for (R300), or rows twice as long. From memory, LATCH and LSHAPE change as the rows arrive (R315). -/
def execWlatch (f : RForm) (s : State) : Out :=
  s.matrixForm f (fun s => s.withRoom s.g.gang.fb.toNat (fun s =>
    let g := s.g
    let m := s.mat
    let sh := m.shape f.ta
    let pair := f.d = 1
    let rb := rowLen (shFmt sh) (shCols sh)
    let k := if f.tr then shCols sh else shRows sh
    let o : Op :=
      { gid := s.cur, kind := .matrix, flag := g.gang.fb.toNat, tiles := latchBit
        ftiles := if pair then (if f.a = 116 then tileBit f.ta else 0) ||| latchBit else 0
        cycles := 16 + k }
    if f.a = 116 then
      let rows (m : Mat) : List (List Byte) := (List.range (shRows sh)).map (fun r => (m.rowBytes f.ta r rb).map (BitVec.ofNat 8))
      let other := if pair then rows (s.core (g.core + 1)).mat else []
      (s.setLatch g.core sh (m.tag f.ta) f.tr pair (rows m) other).issueMat o (16 + k)
    else
      let r := g.rowsOf f (shRows sh) (if pair then 2 * rb else rb)
      let s := s.taintRows f r
      match s.checkRows f r false with
      | .error s' => s'
      | .ok as => s.issueRows (.wlatch f) o [r.base, r.stride, r.n, r.len, sh.toNat, ((s.weightTag as).getD 0).toNat] as))

/-! ### Multiply (R301 to R303) -/

/-- An accumulator element. -/
def Mat.accAt (m : Mat) (a r c : Nat) : Word := Tab.get 0 m.accs (16384 * a + 128 * r + c)

/-- An accumulator element of an operation's result: columns from N on stand on the follower core. -/
def State.accElem (s : State) (core acc n r c : Nat) : Word :=
  if c < n then (s.core core).mat.accAt acc r c else (s.core (core + 1)).mat.accAt acc r (c - n)

/-- Elements (row, column, value) of a result are written. -/
def State.putAcc (s : State) (core acc n : Nat) (es : List (Nat × Nat × Word)) : State :=
  let put (m : Mat) (es : List (Nat × Nat × Word)) : Mat :=
    { m with accs := es.foldl (fun t e => Tab.ins t (16384 * acc + 128 * e.1 + e.2.1) e.2.2) m.accs }
  let s := s.updMat core (fun m => put m (es.filter (fun e => decide (e.2.1 < n))))
  let far := (es.filter (fun e => decide (n ≤ e.2.1))).map (fun e => (e.1, e.2.1 - n, e.2.2))
  if far = [] then s else s.updMat (core + 1) (fun m => put m far)

/-- `mma_exec` (R302) over M rows and NT columns: every element with the flags together. -/
def mmaExec (m nt k : Nat) (start : Nat → Nat → Word × Nat) (x w : Nat → Nat → Num) (skip : Nat → Nat → Bool) :
    List (Nat × Nat × Word) × Nat :=
  let rs := (List.range m).flatMap (fun i => (List.range nt).map (fun j =>
    (i, j, mmaElem k (start i j) (x i) (fun q => w q j) (skip i))))
  (rs.map (fun r => (r.1, r.2.1, r.2.2.1)), rs.foldl (fun a r => a ||| r.2.2.2) 0)

/-- Blocks of 8 rows by 8 of the reduction that are not skipped, by row group (R303). -/
def liveBlocks (m k : Nat) (skip : Nat → Nat → Bool) : List Nat :=
  (List.range ((m + 7) / 8)).map (fun g => (List.range ((k + 7) / 8)).countP (fun b => !skip (8 * g) (8 * b)))

/-- ACYC (R303). -/
def arrayCycles (nz : List Nat) (rho : Nat) : Nat := 24 + (nz.map (fun z => (z + 2 * rho - 1) / (2 * rho))).foldl (· + ·) 0

/-- The operation's columns: N, or 2N in pair mode. -/
def Mat.columns (m : Mat) : Nat := laN m.lshape * (if laPair m.latch then 2 else 1)

/-- What counts of the imprint an operation of `n` MACs makes (R316). -/
def Mat.meter (m : Mat) (n : Nat) (o : Op) : Op := { o with macs := n, metered := laMet m.latch, region := laReg m.latch }

/-- A metered operation waits while the core would hold too many counts (R394). -/
def State.withCount (s : State) (m : Mat) (n : Nat) (act : State → State) : State :=
  if laMet m.latch && decide (macLimit < s.unapplied s.g.core + n) then s else act s

/-- `mma` (R301 to R303) (DEDUCED, log entry 18). -/
def execMma (f : RForm) (s : State) : Out :=
  s.matrixForm f (fun s => s.withRoom s.g.gang.fb.toNat (fun s =>
    let g := s.g
    let m := s.mat
    let sh := m.shape f.tb
    let (rows, k) := if f.tr then (shCols sh, shRows sh) else (shRows sh, shCols sh)
    let n := laN m.lshape
    let nt := m.columns
    let es := m.elems f.tb
    let z := Tab.get 0 m.zmap f.tb
    let skips := f.spb && shZmv sh
    let skip (i j : Nat) : Bool :=
      skips && (if f.tr then z.getLsbD (16 * (j / 8) + i / 8) else z.getLsbD (16 * (i / 8) + j / 8))
    let gamma := (g.word g.elected f.b f.lit).toNat
    let start (i j : Nat) : Word × Nat :=
      if f.tz then (0, 0)
      else
        let c := s.accElem g.core f.acc n i j
        if f.td then
          let r := f32.mul 0 gamma c.toNat
          (BitVec.ofNat 32 r.bits, r.flags)
        else (c, 0)
    s.withCount m (rows * k * nt) (fun s =>
      let ws := m.weights
      let (out, fl) := mmaExec rows nt k start (fun i j => if f.tr then elemAt es j i else elemAt es i j) (elemAt ws) skip
      let live := liveBlocks rows k skip
      let cyc := arrayCycles live (min (rateOf (laFmt m.latch)) (rateOf f.afmt))
      let o : Op :=
        { gid := s.cur, kind := .matrix, flag := g.gang.fb.toNat, tiles := accBit f.acc
          ftiles := if laPair m.latch then accBit f.acc else 0, writes := [.sticky (BitVec.ofNat 64 fl)], cycles := cyc
          skips := (rows + 7) / 8 * ((k + 7) / 8) - live.foldl (· + ·) 0 }
      (s.putAcc g.core f.acc n out).issueMat (m.meter (rows * k * nt) o) cyc)))

/-! ### Accumulator instructions (R304 to R306) -/

/-- `accld` (R304). -/
def execAccld (f : RForm) (s : State) : Out :=
  s.matrixForm f (fun s =>
    let g := s.g
    let sh := s.mat.shape f.ta
    let r := g.rowsOf f (shRows sh) (4 * shCols sh)
    let s := s.taintRows f r
    match s.checkRows f r false with
    | .error s' => s'
    | .ok as => s.withRoom g.gang.fb.toNat (fun s =>
      let o : Op := { gid := s.cur, kind := .matrix, flag := g.gang.fb.toNat, tiles := accBit f.acc }
      if f.spb then
        let es := (s.scrRows r).mapIdx (fun i bs =>
          (pieces 4 bs.length bs).mapIdx (fun j b => (i, j, BitVec.ofNat 32 (natOfBytes b))))
        ((s.countRows r).putAcc g.core f.acc 128 es.flatten).issueMat o (18 + r.n * r.len / 64)
      else s.issueRows (.accld f) o [r.base, r.stride, r.n, r.len] as))

/-- `accst` (R304). -/
def execAccst (f : RForm) (s : State) : Out :=
  s.matrixForm f (fun s =>
    let g := s.g
    let m := s.mat
    let sh := m.shape f.ta
    let r := g.rowsOf f (shRows sh) (4 * shCols sh)
    s.storeRows f r (fun k => (List.range (shCols sh)).flatMap (fun c => (listOfNat 4 (m.accAt f.acc k c).toNat).map (BitVec.ofNat 8)))
      { gid := s.cur, kind := .matrix, flag := g.gang.fb.toNat })

/-- Results written to an accumulator of the core, with their flags, as one operation. -/
def State.accForm (s : State) (f : RForm) (es : List (Nat × Nat × Rslt)) (rows : Nat) : State :=
  let g := s.g
  let fl := es.foldl (fun a e => a ||| e.2.2.flags) 0
  (s.putAcc g.core f.acc 128 (es.map (fun e => (e.1, e.2.1, BitVec.ofNat 32 e.2.2.bits)))).issueMat
    { gid := s.cur, kind := .matrix, flag := g.gang.fb.toNat, tiles := accBit f.acc, writes := [.sticky (BitVec.ofNat 64 fl)] } (8 + rows)

/-- `accscale` (R305). -/
def execAccscale (f : RForm) (s : State) : Out :=
  s.matrixForm f (fun s => s.withRoom s.g.gang.fb.toNat (fun s =>
    let g := s.g
    let gamma := (g.word g.elected f.b f.lit).toNat
    s.accForm f ((List.range 128).flatMap (fun r => (List.range 128).map (fun c =>
      (r, c, f32.mul 0 (s.mat.accAt f.acc r c).toNat gamma)))) 128))

/-- The elements of tile TA with the accumulator position each pairs with (R305). -/
def Mat.paired (m : Mat) (f : RForm) : List (Nat × Nat × Num) :=
  let sh := m.shape f.ta
  let es := m.elems f.ta
  (List.range (shRows sh)).flatMap (fun r => (List.range (shCols sh)).map (fun c =>
    if f.tr then (c, r, elemAt es r c) else (r, c, elemAt es r c)))

/-- `accadd` (R305). -/
def execAccadd (f : RForm) (s : State) : Out :=
  s.matrixForm f (fun s => s.withRoom s.g.gang.fb.toNat (fun s =>
    let m := s.mat
    s.accForm f ((m.paired f).map (fun e =>
      let a := f32.decode (m.accAt f.acc e.1 e.2.1).toNat
      let (v, bad) := addNum 0 a e.2.2
      (e.1, e.2.1, (f32.round 0 v).with_ (nvIf (bad || a.isSnan || e.2.2.isSnan))))) (shRows (m.shape f.ta))))

/-- `tdeq` (R305). -/
def execTdeq (f : RForm) (s : State) : Out :=
  s.matrixForm f (fun s => s.withRoom s.g.gang.fb.toNat (fun s =>
    let m := s.mat
    s.accForm f ((m.paired f).map (fun e => (e.1, e.2.1, f32.round 0 e.2.2))) (shRows (m.shape f.ta))))

/-- A row of values as the bytes of a format, with the flags (R181, R182, R185). -/
def encodeRow (fmt : Nat) (vs : List Num) : List Byte × Nat :=
  if fmt < 4 then
    let rs := vs.map ((fmtOf fmt).round 0)
    ((rs.flatMap (fun r => listOfNat 2 r.bits)).map (BitVec.ofNat 8), rs.foldl (fun a r => a ||| r.flags) 0)
  else
    let bs := (pieces (blockLen fmt) vs.length vs).map (encodeBlock fmt)
    ((bs.flatMap (packBlock fmt)).map (BitVec.ofNat 8), bs.foldl (fun a b => a ||| b.flags) 0)

/-- `tquant` (R305). -/
def execTquant (f : RForm) (s : State) : Out :=
  s.matrixForm f (fun s => s.withRoom s.g.gang.fb.toNat (fun s =>
    let g := s.g
    let m := s.mat
    let sh := m.shape f.ta
    let rows := (List.range (shRows sh)).map (fun r => encodeRow (shFmt sh) ((List.range (shCols sh)).map (fun c =>
      f32.decode (if f.tr then m.accAt f.acc c r else m.accAt f.acc r c).toNat)))
    let fl := rows.foldl (fun a r => a ||| r.2) 0
    let s := s.updMat g.core (fun m => (m.putRows f.ta (rows.map (·.1))).clearMap f.ta)
    s.issueMat { gid := s.cur, kind := .matrix, flag := g.gang.fb.toNat, tiles := tileBit f.ta
                 writes := [.sticky (BitVec.ofNat 64 fl)] } (8 + shRows sh)))

/-- `accrd` (R306). -/
def execAccrd (f : RForm) (s : State) : Out :=
  s.matrixForm f (fun s =>
    let g := s.g
    let fl := g.flagFor f.d
    s.withRoom fl (fun s =>
      let m := s.mat
      let sel := (g.word g.elected f.b f.lit).toNat
      let col (l : Nat) : Nat := sel / 128 % 8 * g.width + l
      s.issueMat
        { gid := s.cur, kind := .matrix, flag := fl, dst := f.d
          writes := g.wrOn (fun l => decide (col l < 128)) f.d (fun l => [m.accAt f.acc (sel % 128) (col l)]) } 8))

/-! ### Completion (R289, R315) -/

/-- Contents of a destination that a reported fault has left undefined: free values (R315) (DESIGN CHOICE, log entry 45). -/
def freeRow (n r len : Nat) : List Byte := (List.range len).map (fun i => Config.freeByte (n + 256 * r + i))

/-- The rows of an operation from memory. -/
def State.arrivedRows (s : State) (o : Op) : List (List Byte) :=
  match o.args with
  | base :: stride :: n :: len :: _ => (List.range n).map (fun r => s.rowFrom o (base + r * stride) len)
  | _ => []

/-- Rows of bytes as elements of an accumulator. -/
def accRows (rows : List (List Byte)) : List (Nat × Nat × Word) :=
  (rows.mapIdx (fun i bs => (pieces 4 bs.length bs).mapIdx (fun j b => (i, j, BitVec.ofNat 32 (natOfBytes b))))).flatten

/-- The data of a matrix load has arrived: its destination is written (R295, R299, R304). -/
def State.rowsArrived (s : State) (o : Op) : State :=
  let core := (s.gid o.gid).core
  let rows := s.arrivedRows o
  match o.todo with
  | some (.tld f) => s.updMat core (fun m => (m.putRows f.ta rows).clearMap f.ta)
  | some (.accld f) => s.putAcc core f.acc 128 (accRows rows)
  | some (.wlatch f) =>
    let half := (rows.map List.length).headD 0 / 2
    let sh := BitVec.ofNat 64 (o.args.getD 4 0)
    let tag := BitVec.ofNat 64 (o.args.getD 5 0)
    if f.d = 1 then s.setLatch core sh tag f.tr true (rows.map (·.take half)) (rows.map (·.drop half))
    else s.setLatch core sh tag f.tr false rows []
  | _ => s

/-- A fault was reported in place of the data of a matrix load (R315): poison leaves everything as it was (R384); after a denial or a
timeout the contents of the destination are free values, and TSHAPE and LATCH are as they were (DESIGN CHOICE, log entry 45). -/
def State.rowsLost (s : State) (o : Op) (c : BitVec 8) : State :=
  if c = 0x14 then s
  else
    let core := (s.gid o.gid).core
    let (k, s) := s.tick
    let rows (n len : Nat) : List (List Byte) := (List.range n).map (fun r => freeRow k r len)
    match o.todo with
    | some (.tld f) => s.updMat core (fun m => m.putRows f.ta (rows (o.args.getD 2 0) (o.args.getD 3 0)))
    | some (.accld f) => s.putAcc core f.acc 128 (accRows (rows (o.args.getD 2 0) (o.args.getD 3 0)))
    | some (.wlatch f) =>
      let image := rowImage (rows 128 256)
      let s := s.updMat core (fun m => { m with lw := image, lw2 := image })
      if f.d = 1 then s.updMat (core + 1) (fun m => { m with lw := image, lw2 := image }) else s
    | _ => s

/-- What the lines an operation waits for have come to: not all there, all there, or a cause (R247, R315). -/
inductive Arrival where
  | waiting
  | good
  | bad (c : BitVec 8)
  deriving DecidableEq, Repr

/-- The lines of an operation; after 50 µs the missing ones have timed out (R247). -/
def State.arrival (s : State) (o : Op) : Arrival :=
  match o.loads.mapM (fun ll => (s.req ll.req).reply) with
  | some ds => match repliesCause ds with
    | some c => .bad c
    | none => .good
  | none => if o.issued + 50000 ≤ s.ptime then .bad 0x13 else .waiting

end Sys2Proof.Machine
end

