-- ==== Sys2Proof/Machine/System.lean ====
section
/-!
DEFINITION. The end of threads (09 R233), barriers and waiting (12 R337 to R343), system instructions (12 R344 to R348),
control registers (08 R221) and the completion of long-latency operations (08 R208).
-/

namespace Sys2Proof.Machine

/-! ### Barriers (R338, R339) -/

/-- The gang ids of a team. -/
def State.gidsOf (s : State) (team : Nat) : List Nat := (s.gids.filter (fun e => e.2.team == team)).map (·.1)

/-- The threads of some gang ids all satisfy `f`. -/
def State.allThreads (s : State) (ks : List Nat) (f : Thread → Bool) : Bool := ks.all (fun k => (s.gid k).lanes.all f)

/-- Teams of the cohort of a team: of one launch and cohort. -/
def State.cohortOf (s : State) (team : Nat) : List Nat :=
  let t := s.team team
  (s.teams.filter (fun e => e.2.launch == t.launch && e.2.cohort == t.cohort)).map (·.1)

/-- The team barrier completes when every thread that has not exited has arrived (R338). -/
def State.tbarTest (s : State) (team : Nat) : State :=
  let w : Option Await := some (.tbar (s.team team).barrier)
  let ks := s.gidsOf team
  if s.allThreads ks (fun t => t.st == .exited || t.await == w) && !s.allThreads ks (fun t => t.await != w) then
    ks.foldl (fun (s : State) k => s.wake k (fun t => t.await == w)) (s.updTeam team (fun t => { t with barrier := t.barrier + 1 }))
  else s

/-- The cohort barrier (R339): over every team of the cohort, with the acquire of device scope on each pair. -/
def State.cbarTest (s : State) (team : Nat) : State :=
  let w : Option Await := some (.cbar (s.team team).cbarrier)
  let ts := s.cohortOf team
  let ks := ts.flatMap s.gidsOf
  if s.allThreads ks (fun t => t.st == .exited || t.await == w) && !s.allThreads ks (fun t => t.await != w) then
    let s := ts.foldl (fun (s : State) t => (s.updTeam t (fun x => { x with cbarrier := x.cbarrier + 1 })).invalidateAllClean (s.team t).pair) s
    ks.foldl (fun (s : State) k => s.wake k (fun t => t.await == w)) s
  else s

/-- Matrix and stereo operations of a gang id are outstanding. -/
def State.matrixOpen (s : State) (k : Nat) : Bool := s.ops.any (fun e => e.2.gid == k && e.2.kind == .matrix)

/-- `tbar` (R338). -/
def execTbar (s : State) : Out :=
  match s.before 2 with
  | .error s' => .next s'
  | .ok () =>
    if s.matrixOpen s.cur then .next s
    else
      let team := s.g.team
      .next ((s.waitOn (.tbar (s.team team).barrier)).tbarTest team)

/-- `cbar` (R339). -/
def execCbar (s : State) : Out :=
  match s.before 4 with
  | .error s' => .next s'
  | .ok () =>
    if s.matrixOpen s.cur then .next s
    else
      let team := s.g.team
      .next ((s.waitOn (.cbar (s.team team).cbarrier)).cbarTest team)

/-- `exit` (R233): after the threads' own operations and direct writes, those to weight pages with them; a barrier may complete by it (R338), and the team
retires with its last thread (R365). -/
def execExit (s : State) : Out :=
  let g := s.g
  if s.threadsBusy s.cur g.gang.active then .next s
  else match s.settleWeights g.gang.stage with
  | .error s' => .next s'
  | .ok () =>
    let s := (s.onGid Gid.exitActive).nowOnce (.clauseStart g.core)
    let s := (s.tbarTest g.team).cbarTest g.team
    .next (if s.teamDone g.team then s.soonOnce (.teamRetire g.team) else s)

/-! ### Transactions of X0 and X1 (R340, R350, R399) -/

/-- Operation `id` of an I/O chiplet sends one line's bytes as a write, and awaits one completion more. -/
def State.ioLine (s : State) (port id : Nat) (master tenant : BitVec 12) (pa : Nat) (bs : List Byte) : State :=
  let o := pa % 128
  let s := { s with io := Tab.change s.io id (fun x => { x with left := x.left + 1 }) }
  s.sendTx port (s.targetOf pa) 0x07 (pa / 128) id 0
    { cls := 0, master := master, tenant := tenant, mask := bytesMask o bs.length
      data := BitVec.ofNat 1024 (natOfBytes bs * 2 ^ (8 * o)) }

/-- An I/O chiplet writes bytes at a physical address by NCWR, one message for each line; `op` says what follows when
all are complete. -/
def State.ioWrite (s : State) (port : Nat) (op : IoOp) (master tenant : BitVec 12) (pa : Nat) (bs : List Byte) : Nat × State :=
  let (id, s) := s.fresh
  let s := { s with io := Tab.ins s.io id { op with left := 0, issued := s.ptime } }
  (id, (lineStarts (pa : Nat) bs.length).foldl (fun (a : State × List Byte) p =>
    (a.1.ioLine port id master tenant p.1.toNat (a.2.take p.2), a.2.drop p.2)) (s, bs) |>.1)

/-! ### Launch queues as instructions see them (R340, R341, R350 to R352) -/

/-- The dispatcher's master identifier (Table 10 of R69). -/
def dispatcherId : BitVec 12 := 2192

def State.lqcfg (s : State) (q : Nat) : Dword := s.reg x0 (0x10000 + 32 * q)
def State.lqtail (s : State) (q : Nat) : Dword := s.reg x0 (0x10008 + 32 * q)
def State.lqhead (s : State) (q : Nat) : Nat := field (s.reg x0 (0x10010 + 32 * q)) 31 0
def lqTenant (v : Dword) : BitVec 12 := v.extractLsb' 48 12
def lqBase (v : Dword) : Nat := field v 47 12 * 4096
def lqSlots (v : Dword) : Nat := 2 ^ field v 11 8
def lqDev (v : Dword) : Bool := v.getLsbD 1
def lqEn (v : Dword) : Bool := v.getLsbD 0

/-- The last tail value seen of a queue. -/
def State.tailOf (s : State) (q : Nat) : Nat := Tab.get 0 s.tails q

/-- How far sequence number `b` lies ahead of `a` (DEDUCED, log entry 48). -/
def seqAhead (a b : Nat) : Nat := (b + 2 ^ 32 - a % 2 ^ 32) % 2 ^ 32

/-- Address of the slot of a sequence number (R350). -/
def State.slotPa (s : State) (q seq : Nat) : Nat := lqBase (s.lqcfg q) + 2048 * (seq % lqSlots (s.lqcfg q))

/-- The tag of an entry (R352). -/
def tagOf (q seq : Nat) : Nat := q * 2 ^ 32 + seq

/-- A tag no launch has (R340). -/
def noTag : Dword := BitVec.allOnes 64

/-- A post is refused (R352). -/
def State.refusesPost (s : State) (q : Nat) (tenant : BitVec 12) : Bool :=
  let c := s.lqcfg q
  !lqEn c || !lqDev c || lqTenant c != tenant || decide (lqSlots c ≤ seqAhead (s.lqhead q) (s.tailOf q))

/-- The dispatcher posts an entry (R340 step 3): it writes the slot, and then the tail word (R352). -/
def State.postEntry (s : State) (q : Nat) (bs : List Byte) : Nat × State :=
  let seq := s.tailOf q
  let s := { s with tails := Tab.ins s.tails q ((seq + 1) % 2 ^ 32) }
  (tagOf q seq, (s.ioWrite x0 { kind := .post q seq } dispatcherId (lqTenant (s.lqcfg q)) (s.slotPa q seq) bs).2)

/-! ### `launch` and `lwait` -/

/-- Requests of the issuing gang's own instruction (R340, R342), in the order they were made (DEDUCED, log entry 54). -/
def State.ownReqs (s : State) (k uid : Nat) : List (Nat × Req) :=
  s.reqs.filter (fun e => e.2.kind == .engine && e.2.gid == k && e.2.op == uid)

/-- The elected lane's plain reads of some bytes (R340): the checks of R246, then a request for each line. -/
def State.ownRead (s : State) (at_ : Dword) (n align stage : Nat) : State :=
  let g := s.g
  let e := g.elected
  let ps := (lineStarts (at_.toNat : Nat) n).map (fun p =>
    if at_.toNat % align ≠ 0 then .stop e 0x07 else s.probeAt e p.1 p.2 rightR false false false)
  match s.checkLanes rightR ps [(e, at_)] with
  | .error s' => s'
  | .ok as =>
    let (ids, s) := as.foldl (fun (ids, s) a =>
      let (w, m) := State.dirtyWords s (pairOf g.core) s.asid g.kslot (a.ea.toNat / 128) (a.pa / 128)
      let (id, s) := s.newReq
        { kind := .engine, core := g.core, op := g.gang.uid, gid := s.cur, asid := s.asid, kslot := g.kslot, pline := a.pa / 128
          vline := a.ea.toNat / 128, master := BitVec.ofNat 12 g.core, tenant := (s.launch g.launch).tenant, data := w, mask := m
          cls := if a.nc then 0x06 else 0x01, lane := e }
      (ids ++ [id], if a.nc then s.direct id else s.requestL2 id)) ([], s)
    s.onGid (fun g => g.waitFor stage ids)

/-- A byte of what the instruction has read. -/
def ownByte (rs : List (Nat × Req)) (a : Nat) : Byte :=
  match rs.find? (fun e => e.2.vline == a / 128) with
  | some (_, r) => lineByte (mergeLine ((r.reply.getD { bytes := 0 }).bytes) r.data r.mask) (a % 128)
  | none => 0

/-- `launch` (R340, R352), an elected form. -/
def execLaunch (f : RForm) (s : State) : Out :=
  let g := s.g
  let e := g.elected
  let a := g.dword e f.a f.lit
  let q := (g.word e f.b f.lit).toNat
  .next (s.guarded (g.supplied (fun l => [g.dword l f.a f.lit, (g.word l f.b f.lit).zeroExtend 64])) (fun s =>
    if 63 < q then s.raiseExact 0x10 e
    else match s.before 4 with
    | .error s' => s'
    | .ok () =>
      let rs := s.ownReqs s.cur g.gang.uid
      match repliesCause (rs.filterMap (fun r => r.2.reply)) with
      | some c => (s.dropReqs (rs.map (·.1))).raiseExact c e [(e, a)]
      | none =>
        let nrec := (ownByte rs a.toNat).toNat
        let more := if 1 ≤ nrec ∧ nrec ≤ 32 then 32 * nrec else 0
        if g.gang.stage ≤ 1 then s.ownRead a 128 64 2
        else if g.gang.stage = 2 ∧ more ≠ 0 then s.ownRead (a + 128) more 64 3
        else
          let s := s.dropReqs (rs.map (·.1))
          let (tag, s) := if s.refusesPost q (s.launch g.launch).tenant then (noTag, s)
            else
              let (t, s) := s.postEntry q ((List.range (128 + more)).map (fun i => ownByte rs (a.toNat + i)))
              (BitVec.ofNat 64 t, s)
          s.onGid (fun g => (g.putOn g.isElected f.d (fun _ => splitD tag) (fun _ => false)).advance)))

/-- What `lwait` answers for a tag where it does not wait: the status, and whether the acquire follows (R341). The
dispatcher holds an entry until HEAD passes it (log entry 40). -/
def State.lwaitNow (s : State) (tag : Dword) (tenant : BitVec 12) : Option (Word × Bool) :=
  let q := tag.toNat / 2 ^ 32
  let seq := tag.toNat % 2 ^ 32
  if 63 < q ∨ lqTenant (s.lqcfg q) ≠ tenant ∨ 2 ^ 31 ≤ seqAhead seq (s.tailOf q) ∨ seq = s.tailOf q then some (0xFFFFFFFF#32, false)
  else if s.unread.contains tag.toNat then some (2, true)
  else if 2 ^ 31 ≤ seqAhead (s.lqhead q) seq then some (0xFFFFFFFE#32, true)
  else (Tab.find s.results tag.toNat).map (fun st => (st, true))

/-- `lwait` (R341), an elected form: of the waiting threads only the elected one takes the status. -/
def execLwait (f : RForm) (s : State) : Out :=
  let g := s.g
  let e := g.elected
  let tag := g.dword e f.a f.lit
  .next (s.guarded (g.supplied (fun l => [g.dword l f.a f.lit])) (fun s =>
    match s.commitFirst with
    | .error s' => s'
    | .ok () => match s.lwaitNow tag (s.launch g.launch).tenant with
      | some (st, acq) =>
        let s := if acq then s.after 4 else s
        s.onGid (fun g => (g.putOn g.isElected f.d (fun _ => [st]) (fun _ => false)).continueAt s.ptime g.gang.next)
      | none => (s.waitOnBy (fun l => .lwait tag (if g.isElected l then f.d else 116))).soonOnce .dispatchChoose))

/-- A waiting thread of `lwait` takes its status. -/
def Gid.lwaitWrite (g : Gid) (tag : Dword) (st : Word) (on : Thread → Bool) : Gid :=
  (List.range g.lanes.length).foldl (fun g l =>
    let t := g.lane l
    match t.await with
    | some (.lwait tg d) => if tg = tag ∧ on t then g.writeLane l d [st] false else g
    | _ => g) g

/-- A launch is complete: the threads that wait for it take its status, acquire and are filed (R341). -/
def State.lwaitDone (s : State) (tag : Dword) (st : Word) : State :=
  let waits (t : Thread) : Bool := t.st == .waiting && (match t.await with
    | some (.lwait tg _) => tg == tag
    | _ => false)
  (s.gids.filter (fun e => e.2.lanes.any waits)).foldl (fun (s : State) e =>
    let s := s.updGid e.1 (fun g => g.lwaitWrite tag st waits)
    (s.invalidateAllClean (pairOf e.2.core)).wake e.1 waits) s

/-! ### `waitw` and `sleep` (R342, R343) -/

/-- The condition of `waitw`. -/
def waitwHolds (cond : Nat) (v b : Word) : Bool :=
  match cond with
  | 0 => v == b
  | 1 => v != b
  | 2 => decide (b.toNat ≤ v.toNat)
  | _ => decide (v.toNat < b.toNat)

/-- The word of a request's reply at a virtual address, the pair's own words in front. -/
def Req.wordAt (r : Req) (va : Nat) : Word :=
  (mergeLine ((r.reply.getD { bytes := 0 }).bytes) r.data r.mask).extractLsb' (8 * (va % 128)) 32

/-- A read of the word for `waitw` by a lane of gang id `k` (R342): from the L2, or as ACQRD at the home. `op` names it. -/
def State.waitwRead (s : State) (k op lane scope va pa : Nat) (nc : Bool) : Nat × State :=
  let g := s.gid k
  let l := s.launch g.launch
  let (w, m) := if 4 ≤ scope then (0, 0) else s.dirtyWords (pairOf g.core) l.asid g.kslot (va / 128) (pa / 128)
  let (id, s) := s.newReq
    { kind := .engine, core := g.core, op := op, gid := k, asid := l.asid, kslot := g.kslot, pline := pa / 128, vline := va
      master := BitVec.ofNat 12 g.core, tenant := l.tenant, data := w, mask := m, lane := lane
      cls := if 4 ≤ scope then 0x0B else if nc then 0x06 else 0x01
      acq := decide (4 ≤ scope), scope := if 4 ≤ scope then BitVec.ofNat 3 (scope - 1) else 0 }
  (id, if 4 ≤ scope ∨ nc = true then s.direct id else s.requestL2 id)

/-- `waitw` (R342). -/
def execWaitw (f : RForm) (s : State) : Out :=
  let g := s.g
  let e := g.elected
  let a := g.dword e f.a f.lit
  let b := g.word e f.b f.lit
  let scope := f.p.scope.toNat
  let cond := f.d.toNat
  .next (s.guarded (g.supplied (fun l => [g.dword l f.a f.lit, (g.word l f.b f.lit).zeroExtend 64])) (fun s =>
    match s.checked [e] (fun _ => a) 4 rightR false false false with
    | .error s' => s'
    | .ok as =>
      let x := as.headD default
      match s.ownReqs s.cur g.gang.uid with
      | [] =>
        match (if scope < 3 then s.commitFirst else s.beforeRead scope as) with
        | .error s' => s'
        | .ok () =>
          let (id, s) := s.waitwRead s.cur g.gang.uid e scope a.toNat x.pa x.nc
          s.onGid (fun g => g.waitFor 2 [id])
      | (id, r) :: _ =>
        let s := s.dropReqs [id]
        if (r.reply.getD { bytes := 0 }).denied then s.raiseExact 0x18 e [(e, a)]
        else if waitwHolds cond (r.wordAt a.toNat) b then
          (s.after scope).onGid (fun g => g.continueAt s.ptime g.gang.next)
        else (s.waitOn (.waitw a x.pa cond b scope e)).laterOnce 10000 (.waitwReread s.cur)))

/-- The distinct words that waiting threads of a gang id await. -/
def Gid.waitws (g : Gid) : List Await :=
  ((g.lanes.filter (fun t => t.st == .waiting)).filterMap (fun t => match t.await with
    | some (.waitw va pa c v sc l) => some (Await.waitw va pa c v sc l)
    | _ => none)).eraseDups

/-- A waiting read's reply is judged: the threads whose condition holds acquire and are filed; a denial ends the launch
(R342, R370) (DEDUCED, log entry 43). -/
def State.waitwJudge (s : State) (k id : Nat) : State :=
  let r := s.req id
  let s := s.dropReqs [id]
  if (r.reply.getD { bytes := 0 }).denied then
    let g := s.gid k
    s.endLaunch g.launch 0x18 g.gid g.teamId (((g.lane r.lane).pc))
  else
    let hit (t : Thread) : Bool := match t.await with
      | some (.waitw va _ c v sc _) => va.toNat == r.vline && (decide (4 ≤ sc) == r.acq) && waitwHolds c (r.wordAt va.toNat) v
      | _ => false
    let scopes := (s.gid k).waitws.filterMap (fun a => match a with
      | .waitw va _ c v sc _ => if va.toNat = r.vline ∧ (decide (4 ≤ sc) == r.acq) ∧ waitwHolds c (r.wordAt va.toNat) v then some sc else none
      | _ => none)
    let s := if scopes.any (fun sc => decide (3 ≤ sc)) then s.invalidateAllClean (pairOf (s.gid k).core) else s
    s.wake k hit

/-- WAITW_REREAD (R342): the reads that have returned are judged; else each awaited word is read again. -/
def execWaitwReread (gid : Nat) (s : State) : Out :=
  .next (
    let own := s.ownReqs gid gid
    let back := own.filter (fun e => e.2.reply.isSome)
    if back ≠ [] then
      let s := back.foldl (fun (s : State) e => s.waitwJudge gid e.1) s
      let again := back.any (fun e => e.2.stale)
      if (s.gid gid).waitws = [] then s else if again then s.soon (.waitwReread gid) else s.laterOnce 10000 (.waitwReread gid)
    else if own ≠ [] then
      let s := own.foldl (fun (s : State) e => s.updReq e.1 (fun r => { r with stale := true })) s
      s.laterOnce 10 (.waitwReread gid)
    else
      let g := s.gid gid
      let s := g.waitws.foldl (fun (s : State) a => match a with
        | .waitw va _ _ _ sc l => match s.translate (clusterOf g.core) g.launch va 4 rightR with
          | .cause c => s.endLaunch g.launch c g.gid g.teamId (g.lane l).pc
          | .renew r => s.renew g.launch r
          | .walk => s.soonOnce (.tlbWalk (clusterOf g.core) g.launch va rightR)
          | .ok pa e => (s.waitwRead gid gid l sc va.toNat pa e.nc).2
        | _ => s) s
      if g.waitws = [] then s else s.later 10 (.waitwReread gid))

/-- `sleep` (R343). -/
def execSleep (f : RForm) (s : State) : Out :=
  let g := s.g
  let e := g.elected
  let n := (g.word e f.a f.lit).toNat
  .next (s.guarded (g.supplied (fun l => [(g.word l f.a f.lit).zeroExtend 64])) (fun s =>
    if n = 0 then (s.onGid (fun g => g.fileActive s.ptime (fun _ => g.gang.next))).nowOnce (.clauseStart g.core)
    else (s.waitOn (.sleep (s.ptime + n))).later n (.sleepExpiry s.cur)))

/-- A thread whose sleep is over. -/
def Thread.slept (t : Thread) (now : Nat) : Bool := match t.await with
  | some (.sleep stop) => decide (stop ≤ now)
  | _ => false

/-- SLEEP_EXPIRY (R343). -/
def execSleepExpiry (gid : Nat) (s : State) : Out := .next (s.wake gid (fun t => t.slept s.ptime))

/-! ### System instructions (R344 to R348) -/

/-- `trap` and `brk`: a cause with the elected lane's code. -/
def State.trapWith (s : State) (c : BitVec 8) (f : RForm) : State :=
  let g := s.g
  let e := g.elected
  s.guarded (g.supplied (fun l => [(g.word l f.a f.lit).zeroExtend 64])) (fun s =>
    s.raiseAfter c e ((g.word e f.a f.lit).extractLsb' 0 16))

/-- `trap` (R344). -/
def execTrap (f : RForm) (s : State) : Out := .next (s.trapWith 0x02 f)
/-- `brk` (R344). -/
def execBrk (f : RForm) (s : State) : Out := .next (s.trapWith 0x03 f)

/-- A WAITING thread returned by `eret` is tested again (R337, R380): whether what it awaits has come about. A word in
memory is read again. -/
def State.awaitMet (s : State) (g : Gid) (t : Thread) : Bool :=
  let tm := s.team g.team
  match t.await with
  | some (.tbar n) => decide (n < tm.barrier)
  | some (.cbar n) => decide (n < tm.cbarrier)
  | some (.swwait _ _ _ _ _) => t.swDone (s.pair tm.pair) tm.winBase
  | some (.lwait tag _) => (s.lwaitNow tag (s.launch g.launch).tenant).isSome
  | some (.sleep _) => t.slept s.ptime
  | some (.waitw _ _ _ _ _ _) => false
  | none => true

/-- The threads of a resumed gang id are filed at EPC, or wait again (R380). -/
def State.resumeThreads (s : State) (k : Nat) : State :=
  let g := s.gid k
  let s := g.lanes.foldl (fun (s : State) t => match t.await with
    | some (.lwait tag _) => match s.lwaitNow tag (s.launch g.launch).tenant with
      | some (st, _) => s.updGid k (fun g => g.lwaitWrite tag st (fun _ => true))
      | none => s
    | _ => s) s
  let s := s.updGid k (fun g =>
    { g.mapLanes (fun _ t =>
        if t.st == .exited then t
        else if s.awaitMet g t then { t with st := .filed, filedAt := s.ptime, pc := t.epc, await := none, wasWaiting := false }
        else { t with st := .waiting, pc := t.epc, wasWaiting := false }) with
      gang := {}, gcause := 0, frozen := false })
  if (s.gid k).waitws = [] then s else s.nowOnce (.waitwReread k)

/-- A gang id's threads become EVICTED (R363, R380, R381): their lane registers are undefined from now on (DEDUCED, log entry 49). -/
def State.evict (s : State) (k : Nat) : State :=
  let (n, s) := s.tick
  let g := s.gid k
  let s := s.updGid k (fun g =>
    { g.mapLanes (fun l t => if t.st == .exited then t else { t with st := .evicted, x := [], xFree := some (n + 256 * l), taint := [] }) with
      gang := {}, gcause := 0, preempt := false, evicted := true, frozen := true })
  (s.updPair (pairOf g.core) (fun p => { p with evictions := p.evictions ++ [k] })).soonOnce .dispatchChoose

/-- After a handler the oldest held gang enters its own; a pre-emption asked for meanwhile is served first where none is
held (R376 step 5, R371). -/
def State.afterHandler (s : State) (k : Nat) : State :=
  let g := s.gid k
  if g.held ≠ [] ∨ g.preempt = true then (s.updGid k (fun g => { g with frozen := true })).soonOnce (.handlerEntry k)
  else s.nowOnce (.clauseStart g.core)

/-- `eret` (R345, R376, R380) (DEDUCED, log entry 41). -/
def execEret (s : State) : Out :=
  let k := s.cur
  let g := s.g
  if g.inHandler = false then .next (s.raiseAfter 0x10 0)
  else
    let s := ((s.invalidateAllClean (pairOf g.core)).applyShapes g.core (fun j u => j == k && u == g.gang.uid)).passShapes k 0 g.gang.uid
    if field g.gcause 7 0 = 1 then
      let s := s.onGid (fun g => g.mapActive (fun _ t => { t with wbase := t.ewb.toNat }))
      .next (if g.gcause.getLsbD 16 then (s.resumeThreads k).afterHandler k else s.evict k)
    else .next ((s.onGid (fun g => g.eret s.ptime)).afterHandler k)

/-- Operations of a gang id that can raise a flag are outstanding (R346, R196). -/
def State.flagsOpen (s : State) (k : Nat) : Bool :=
  s.ops.any (fun e => e.2.gid == k && (e.2.kind == .compute || e.2.kind == .amo || e.2.kind == .matrix))
  || s.cmds.any (fun e => e.2.gid == k && ctl e.2.desc 3 && !e.2.pf)

/-- `getfl` (R346). -/
def execGetfl (f : RForm) (s : State) : Out :=
  if s.flagsOpen s.cur then .next s
  else s.retire (fun g => g.putAll f.d (fun _ => [(g.sticky.extractLsb' 0 6).zeroExtend 32]))

/-- `clrfl` (R346). -/
def execClrfl (f : RForm) (s : State) : Out :=
  if s.flagsOpen s.cur then .next s
  else
    let g := s.g
    let e := g.elected
    .next (s.guarded (g.supplied (fun l => [(g.word l f.a f.lit).zeroExtend 64])) (fun s =>
      s.onGid (fun g =>
        let m := (g.word e f.a f.lit).extractLsb' 0 6
        let old := g.sticky.extractLsb' 0 6
        { g.putAll f.d (fun _ => [old.zeroExtend 32]) with sticky := g.sticky &&& ~~~(m.zeroExtend 64) }.advance)))

/-- `tfence` (R197, R346): the arithmetic exception where a flag and its enable are both set. -/
def execTfence (s : State) : Out :=
  let g := s.g
  if s.flagsOpen s.cur then .next s
  else if g.sticky.extractLsb' 0 6 &&& g.sticky.extractLsb' 8 6 ≠ 0 then .next (s.raiseAfter 0x04 0)
  else .next (s.onGid (fun g => g.continueAt s.ptime g.gang.next))

/-- `rdtime` (R347) (DESIGN CHOICE, log entry 86). -/
def execRdtime (f : RForm) (s : State) : Out :=
  s.retire (fun g => g.putAll f.d (fun _ => splitD (BitVec.ofNat 64 s.ptime)))

/-- The counter of a key at X1; 0 where there is none (R348, R396). -/
def State.counterValue (s : State) (region tenant : BitVec 12) : Nat :=
  match s.counters.find? (fun c => c.region == region && c.tenant == tenant && c.st == .opened) with
  | some c => c.count
  | none => match s.counters.find? (fun c => c.region == region && c.tenant == tenant && c.st == .closed) with
    | some c => c.count
    | none => 0

/-- `imprintq` (R348), an elected form: the flush of the core's pending count (R392), then the counter as X1 holds it. -/
def execImprintq (f : RForm) (s : State) : Out :=
  let g := s.g
  let e := g.elected
  let fl := g.flagFor f.d
  .next (s.guarded (g.supplied (fun l => [(g.word l f.a f.lit).zeroExtend 64])) (fun s =>
    s.withRoom fl (fun s =>
      let region := (g.word e f.a f.lit).extractLsb' 0 12
      let s := s.flushCount g.core
      s.issueOp { gid := s.cur, kind := .imprint, flag := fl, dst := f.d, nregs := 2, lanes := g.gang.active, region := region
                  writes := g.wrOn g.isElected f.d (fun _ => [0, 0]) } 2000 .longOpComplete)))

/-- An `imprintq` completes once its core's flushes are applied at X1: every word of its destination takes its half. -/
def State.finishImprint (s : State) (id : Nat) (o : Op) : State :=
  let g := s.gid o.gid
  if s.reqs.any (fun e => e.2.kind == .flush && e.2.core == g.core) then s.later 10 (.longOpComplete id)
  else
    let v := splitD (BitVec.ofNat 64 (s.counterValue o.region (s.launch g.launch).tenant))
    let half (i : Nat) : Word := v.getD (i % 2) 0
    let ws := o.writes.map (fun w => match w with
      | .x l r _ => .x l r (half r)
      | .w l r _ => .w l r (half r)
      | .y r _ => .y r (half r)
      | w => w)
    { s with ops := Tab.ins s.ops id { o with writes := ws } }.completeOp id

/-- LONG_OP_COMPLETE (R208): an operation of the vector unit or conversion queue ends; a `tcload` or `imprintq` goes on. -/
def execLongOpComplete (op : Nat) (s : State) : Out :=
  .next (match Tab.find s.ops op with
    | none => s
    | some o => match o.kind with
      | .engine => s.tcloadGo op o
      | .imprint => s.finishImprint op o
      | _ => s.completeOp op)

/-! ### Control registers (R221) -/

/-- The registers held for each lane (Table 3 of R372). -/
def perLane (n : Nat) : Bool := decide (0x43 ≤ n ∧ n ≤ 0x49)

/-- TRUN (Table 7 of R386). -/
def State.trun (s : State) (g : Gid) : Dword :=
  let t := s.team g.team
  BitVec.ofNat 64 (t.held.length * 2 ^ 8 + t.run % 16 * 2 ^ 4 + (if g.prot then 4 else 0) + (if t.rst then 2 else 0))

/-- SPWIN (Table 4 of R80). -/
def Team.spwin (t : Team) : Dword := BitVec.ofNat 64 (t.winBase * 2 ^ 32 + t.winSize)

/-- GALQ (Table 8 of R97). -/
def LaunchCore.galq (c : LaunchCore) : Dword := BitVec.ofNat 64 (c.limit * 2 ^ 16 + c.split * 2 ^ 8 + c.quota)

/-- BINCTL (Table 3 of R164). -/
def LaunchCore.binctl (c : LaunchCore) : Dword := BitVec.ofNat 64 (c.aged * 2 ^ 32 + c.age)

/-- A control register as lane `l` of the issuing gang reads it (Table 11 of R221). -/
def State.ctlRead (s : State) (l n : Nat) : Dword :=
  let g := s.g
  let t := g.lane l
  let c := s.lc g.core g.kslot
  let m := s.mat
  if n = 0x000 then g.gcause
  else if n = 0x001 then g.sticky
  else if n = 0x002 then c.galq
  else if n = 0x003 then c.binctl
  else if n = 0x004 then (s.team g.team).spwin
  else if n = 0x005 then Tab.get 0 (s.core g.core).spconf g.team
  else if n = 0x006 then g.rng
  else if n = 0x007 then s.ihsel
  else if 0x10 ≤ n ∧ n ≤ 0x17 then m.shape (n - 0x10)
  else if n = 0x020 then m.mxstat
  else if n = 0x021 then m.latch
  else if n = 0x022 then m.lshape
  else if 0x28 ≤ n ∧ n ≤ 0x2F then m.tag (n - 0x28)
  else if n = 0x040 then c.tvec
  else if n = 0x041 then g.rpc
  else if n = 0x042 then g.eact
  else if n = 0x043 then t.epc
  else if n = 0x044 then t.ewb
  else if n = 0x045 then t.eaddr
  else if 0x46 ≤ n ∧ n ≤ 0x49 then (Tab.get 0 t.ew (n - 0x46)).zeroExtend 64
  else if 0x4A ≤ n ∧ n ≤ 0x4D then Tab.get 0 g.ks (n - 0x4A)
  else if n = 0x04E then c.wp0
  else if n = 0x04F then c.wp1
  else if n = 0x050 then s.trun g
  else if n = 0x080 then c.xfault0
  else if n = 0x081 then c.xfault1
  else 0

/-- Control register numbers that are assigned (Table 11 of R221, R290, R299, R303, R326, R372). -/
def ctlAssigned (n : Nat) : Bool :=
  decide (n ≤ 7) || decide (0x10 ≤ n ∧ n ≤ 0x17) || decide (0x20 ≤ n ∧ n ≤ 0x22) || decide (0x28 ≤ n ∧ n ≤ 0x2F)
    || decide (0x40 ≤ n ∧ n ≤ 0x50) || decide (0x80 ≤ n ∧ n ≤ 0x81)

/-- `getc` (R221). -/
def execGetc (f : IForm) (s : State) : Out :=
  let n := f.imm.toNat
  let e := s.g.elected
  s.retire (fun g => g.putAll f.d (fun l => splitD (s.ctlRead (if perLane n then l else e) n)))

/-- GALQ as written (R97). -/
def LaunchCore.setGalq (c : LaunchCore) (v : Dword) : LaunchCore :=
  { c with split := field v 13 8, quota := max 1 (min (field v 6 0) c.limit) }

/-- BINCTL as written (R164). -/
def LaunchCore.setBinctl (c : LaunchCore) (v : Dword) : LaunchCore := { c with aged := field v 63 32, age := max 16 (field v 11 0) }

/-- WP0 and WP1 as written (Table 4 of R379). -/
def wpStore (v : Dword) : Dword := setField (v &&& 0x7FFFFFFFFFFFFFFF#64) 62 57 (max 3 (field v 62 57))

/-- A control register that is held once takes the elected lane's value: its RW fields (R221). BINCTL applies to the launch's groups from
the next cycle (R164). -/
def State.ctlWrite (s : State) (n : Nat) (v : Dword) : State :=
  let g := s.g
  let lc (f : LaunchCore → LaunchCore) : State := s.updLc g.core g.kslot f
  if n = 0x001 then s.onGid (fun g => { g with sticky := v &&& 0x3F3F#64 })
  else if n = 0x002 then lc (fun c => c.setGalq v)
  else if n = 0x003 then (lc (fun c => c.setBinctl v)).later 1 (.clauseStart g.core)
  else if n = 0x005 then s.updCore g.core (fun c => { c with spconf := Tab.ins c.spconf g.team v })
  else if n = 0x006 then s.onGid (fun g => { g with rng := rngStore v })
  else if 0x10 ≤ n ∧ n ≤ 0x17 then
    s.updMat g.core (fun m => { m with tspend := m.tspend ++ [(s.cur, g.gang.uid, n - 0x10, shapeReg (field v 7 0) (field v 15 8) (field v 20 16))] })
  else if n = 0x020 then s.updMat g.core (fun m => { m with mxstat := v })
  else if n = 0x040 then lc (fun c => { c with tvec := v &&& 0x01FFFFFFFFFFFFFD#64 })
  else if n = 0x042 then s.onGid (fun g => { g with eact := v })
  else if 0x4A ≤ n ∧ n ≤ 0x4D then s.onGid (fun g => { g with ks := Tab.ins g.ks (n - 0x4A) v })
  else if n = 0x04E then lc (fun c => { c with wp0 := wpStore v })
  else if n = 0x04F then lc (fun c => { c with wp1 := wpStore v })
  else if n = 0x080 then lc (fun c => if v.getLsbD 63 then { c with xfault0 := setField c.xfault0 63 63 0 } else c)
  else s

/-- A thread's register takes its own value. -/
def Thread.ctlWrite (t : Thread) (n : Nat) (v : Dword) : Thread :=
  if n = 0x043 then { t with epc := v }
  else if n = 0x044 then { t with ewb := v }
  else if 0x46 ≤ n ∧ n ≤ 0x49 then { t with ew := Tab.ins t.ew (n - 0x46) (v.extractLsb' 0 32) }
  else t

/-- `setc` (R221). -/
def execSetc (f : IForm) (s : State) : Out :=
  let n := f.imm.toNat
  let g := s.g
  let e := g.elected
  if perLane n then s.retire (fun g => g.mapActive (fun l t => t.ctlWrite n (g.dword l f.a f.lit)))
  else .next (s.guarded (g.supplied (fun l => [g.dword l f.a f.lit])) (fun s =>
    (s.ctlWrite n (g.dword e f.a f.lit)).onGid Gid.advance))

end Sys2Proof.Machine
end

