-- ==== Sys2Proof/Machine/Stereo.lean ====
section
/-!
DEFINITION. Stereo plates: descriptors, the plate cache, `dmma` and the instructions on bindings (11 R307 to R315), and
the completion of matrix operations (11 R289, R315).
-/

namespace Sys2Proof.Machine

/-! ### Descriptors (Table 7 of R307) -/

/-- A field of a descriptor: `n` bytes from byte `k`. -/
def Plate.get (p : Plate) (k n : Nat) : Nat := natOfBytes ((p.desc.drop k).take n)

/-- The descriptor with a field replaced. -/
def Plate.put (p : Plate) (k n v : Nat) : Plate :=
  { p with desc := p.desc.take k ++ bytesOfNat n v ++ p.desc.drop (k + n), dirty := true }

def Plate.layer (p : Plate) : Nat := p.get 0 2
def Plate.ten (p : Plate) : Nat := p.get 2 2
def Plate.reg (p : Plate) : Nat := p.get 4 2
def Plate.thr (p : Plate) : Nat := p.get 6 2
def Plate.ver (p : Plate) : Nat := p.get 8 4
def Plate.period (p : Plate) : Nat := p.get 12 1
def Plate.cnt (p : Plate) : Nat := p.get 13 1
def Plate.fmt (p : Plate) : Nat := p.get 14 1
def Plate.flags (p : Plate) : Nat := p.get 15 1
def Plate.valid (p : Plate) : Bool := p.flags.testBit 0
def Plate.inv (p : Plate) : Bool := p.flags.testBit 1
def Plate.met (p : Plate) : Bool := p.flags.testBit 2
def Plate.rows (p : Plate) : Nat := p.get 16 2
def Plate.kd (p : Plate) : Nat := p.get 18 2
def Plate.nt (p : Plate) : Nat := p.get 20 2
def Plate.opAddr (p : Plate) : Nat := p.get 24 8
def Plate.resAddr (p : Plate) : Nat := p.get 32 8

/-- FLAGS with the three bits given. -/
def Plate.setFlags (p : Plate) (valid inv met : Bool) : Plate := p.put 15 1 (valid.toNat + 2 * inv.toNat + 4 * met.toNat)

/-- A malformed descriptor (R309) (DEDUCED, log entry 53). -/
def Plate.malformed (p : Plate) : Bool :=
  p.period == 0 || decide (256 < p.thr) || !decide (7 ≤ p.fmt ∧ p.fmt ≤ 9)
    || p.get 2 2 / 4096 != 0 || p.get 4 2 / 4096 != 0 || p.flags / 8 != 0 || p.get 22 2 != 0 || p.get 40 24 != 0
    || p.opAddr % 128 != 0 || p.resAddr % 128 != 0
    || (p.valid && !(decide (1 ≤ p.rows ∧ p.rows ≤ 128) && decide (16 ≤ p.kd ∧ p.kd ≤ 128) && p.kd % 16 == 0
      && decide (1 ≤ p.nt ∧ p.nt ≤ 256)))

/-- OPD(m, k) and RES(m, n). -/
def Plate.opdAt (p : Plate) (m k : Nat) : Word := Tab.get 0 p.opd (128 * m + k)
def Plate.resAt (p : Plate) (m n : Nat) : Word := Tab.get 0 p.res (256 * m + n)

/-! ### The plate cache (R308) -/

/-- A plate of a pair by the address of its descriptor. -/
def Pair.plate (p : Pair) (va : Dword) (asid : Nat) : Option Plate := p.plates.find? (fun q => q.va == va && q.asid == asid)

/-- A plate takes its place in the cache. -/
def Pair.setPlate (p : Pair) (q : Plate) : Pair :=
  if (p.plate q.va q.asid).isSome then
    { p with plates := p.plates.map (fun o => if o.va == q.va && o.asid == q.asid then q else o) }
  else { p with plates := p.plates ++ [q] }

/-- It changes, where it is cached. -/
def State.updPlate (s : State) (pair : Nat) (va : Dword) (asid : Nat) (f : Plate → Plate) : State :=
  s.updPair pair (fun p => match p.plate va asid with
    | some q => p.setPlate (f q)
    | none => p)

/-- Bytes it takes. -/
def Plate.size (p : Plate) : Nat := 64 + (if p.arrays || p.fetching then 4 * p.rows * (p.kd + p.nt) else 0)

/-- A word of the arrays at a virtual address: its value, where the address lies in OPD or RES. -/
def Plate.wordAt (p : Plate) (a : Nat) : Option Word :=
  if p.opAddr ≤ a ∧ a < p.opAddr + 4 * p.rows * p.kd then
    let i := (a - p.opAddr) / 4
    some (p.opdAt (i / p.kd) (i % p.kd))
  else if p.resAddr ≤ a ∧ a < p.resAddr + 4 * p.rows * p.nt then
    let i := (a - p.resAddr) / 4
    some (p.resAt (i / p.nt) (i % p.nt))
  else none

/-- A line of the arrays, by its virtual line: data and the words that belong to them. -/
def Plate.lineAt (p : Plate) (v : Nat) : Line × BitVec 32 :=
  (List.range 32).foldl (fun (d, m) i => match p.wordAt (128 * v + 4 * i) with
    | some w => (d ||| (w.zeroExtend 1024 <<< (32 * i)), m ||| (1#32 <<< i))
    | none => (d, m)) ((0 : Line), (0 : BitVec 32))

/-- Words of a plate go to the die's L2, or straight to the target of an NC page (R313). -/
def State.plateWrite (s : State) (gid kslot : Nat) (p : Plate) (line : Nat) (d : Line) (m : BitVec 32) : List Nat × State :=
  if line % 2 = 0 then s.postWords gid p.core p.asid kslot (line / 2) p.tenant d m false
  else
    let (id, s) := s.newReq
      { kind := .write, core := p.core, gid := gid, asid := p.asid, kslot := kslot, pline := line / 2
        master := BitVec.ofNat 12 p.core, tenant := p.tenant, mask := byteMask m, data := d, cls := 0x07 }
    ([id], s.direct id)

/-- The dirty arrays of a plate are written back: the requests to wait for. -/
def State.writeArrays (s : State) (gid kslot : Nat) (p : Plate) : List Nat × State :=
  if p.adirty then
    p.lines.foldl (fun (ids, s) e =>
      let (d, m) := p.lineAt e.1
      let (i, s) := State.plateWrite s gid kslot p e.2 d m
      (ids ++ i, s)) ([], s)
  else ([], s)

/-- The descriptor is written back. -/
def State.writeDesc (s : State) (gid kslot : Nat) (p : Plate) : List Nat × State :=
  let o := p.pa % 128
  s.plateWrite gid kslot p (2 * (p.pa / 128)) (BitVec.ofNat 1024 (natOfBytes p.desc * 2 ^ (8 * o))) (wordsAt o 64)

/-- A plate is written back whole and is clean (R313). -/
def State.writePlate (s : State) (gid kslot pair : Nat) (p : Plate) : List Nat × State :=
  let (a, s) := s.writeArrays gid kslot p
  let (b, s) := s.writeDesc gid kslot p
  (a ++ b, s.updPlate pair p.va p.asid (fun q => { q with dirty := false, adirty := false }))

/-- Kernel slot of the gang id that issues, for charging a denied write-back. -/
def State.slotOfGid (s : State) (k : Nat) : Nat := (s.gid k).kslot

/-- Virtual lines of the arrays of a plate of the given shape. -/
def Plate.spans (p : Plate) (m k nt : Nat) : List (Dword × Nat) :=
  lineStarts (p.opAddr : Nat) (4 * m * k) ++ lineStarts (p.resAddr : Nat) (4 * m * nt)

/-- PLATE_CACHE_EVICT (R308): the plate's dirty arrays and descriptor are written back, and the arrays leave the cache;
the descriptor of a bound plate stays. -/
def execPlateCacheEvict (pair : Nat) (va : BitVec 64) (s : State) : Out :=
  .next ((s.pair pair).plates.foldl (fun (s : State) p =>
    if p.va = va then
      let s := (s.writePlate 0 0 pair p).2
      s.updPlate pair p.va p.asid (fun q => { q with arrays := false, opd := [], res := [] })
    else s) s)

/-- The plate cache's capacity (R308). -/
def plateCacheBytes : Nat := 262144

/-- The plates whose arrays leave the cache so that a plate with `need` bytes of arrays fits (R308). -/
def State.plateVictims (s : State) (pair : Nat) (va : Dword) (asid need : Nat) : List Plate :=
  let own (p : Plate) : Bool := p.va == va && p.asid == asid
  let ps := (s.pair pair).plates
  let total := need + 64 + ((ps.filter (fun p => !own p)).map Plate.size).foldl (· + ·) 0
  (ps.foldl (fun (vs, left) p =>
    if left ≤ plateCacheBytes ∨ own p ∨ p.arrays = false then (vs, left)
    else (vs ++ [p], left - (p.size - 64))) (([] : List Plate), total)).1

/-- Write-backs that a gang id's instruction has caused: it reports their denial (R308). -/
def State.reporting (s : State) (ids : List Nat) : State :=
  ids.foldl (fun (s : State) id => if (Tab.find s.reqs id).isSome then s.updReq id (fun r => { r with report := true }) else s) s

/-- Arrays leave the cache, written back on behalf of the gang id's instruction. -/
def State.evictPlates (s : State) (gid pair : Nat) (ps : List Plate) : State :=
  ps.foldl (fun (s : State) p =>
    let (ids, s) := s.writeArrays gid (s.gid gid).kslot p
    (s.reporting ids).updPlate pair p.va p.asid (fun q => { q with arrays := false, adirty := false, opd := [], res := [] })) s

/-! ### Bindings (R309, R313) -/

/-- Binding `b` of a core. -/
def State.binding (s : State) (core b : Nat) : Binding := Tab.get {} (s.core core).mat.sb b

/-- It changes. -/
def State.setBinding (s : State) (core b : Nat) (x : Binding) : State :=
  s.updMat core (fun m => { m with sb := Tab.ins m.sb b x })

/-- Some binding of a pair names the plate. -/
def State.named (s : State) (pair : Nat) (va : Dword) (asid : Nat) : Bool :=
  [2 * pair, 2 * pair + 1].any (fun c => (s.core c).mat.sb.any (fun e => e.2.bound && e.2.va == va && e.2.asid == asid))

/-- A binding is flushed and emptied (R313): the write-backs to wait for. The plate leaves the cache with its last
binding. -/
def State.unbind (s : State) (gid core b : Nat) : List Nat × State :=
  let x := s.binding core b
  let pair := pairOf core
  if x.bound then
    let (ids, s) := match (s.pair pair).plate x.va x.asid with
      | some p => s.writePlate gid (s.slotOfGid gid) pair p
      | none => ([], s)
    let s := s.setBinding core b {}
    (ids, if s.named pair x.va x.asid then s
      else s.updPair pair (fun p => { p with plates := p.plates.filter (fun q => !(q.va == x.va && q.asid == x.asid)) }))
  else ([], s)

/-- Every L1 copy of some physical lines leaves the pair's L1, dirty words written back first, so that the plate's own
reads and writes of them follow the thread's earlier ones (DEDUCED, log entry 50). -/
def State.clearL1 (s : State) (gid pair : Nat) (lines : List Nat) : State :=
  (((s.pair pair).l1.filter (fun l => lines.contains l.pline)).foldl (fun (s : State) l =>
    ((State.writeBack s gid pair l).2.updPair pair (fun p => p.dropLine l))) s).staleFills pair (fun r => lines.contains r.pline)

/-- `stbind` (R309): checks, commit, flush of the old plate, then the descriptor is read; a plate another binding names
is shared. -/
def execStbind (f : RForm) (s : State) : Out :=
  s.matrixForm f (fun s =>
    let g := s.g
    let e := g.elected
    let a := g.dword e f.a f.lit
    let layer := (g.word e f.b f.lit).toNat % 2 ^ 16
    let pair := pairOf g.core
    match s.checkLanes (rightR ||| rightW)
        [if a.toNat % 64 ≠ 0 then .stop e 0x07 else s.probeAt e a 64 (rightR ||| rightW) false false false] [(e, a)] with
    | .error s' => s'
    | .ok as => match s.commitFirst with
      | .error s' => s'
      | .ok () => s.withRoom g.gang.fb.toNat (fun s =>
        let x := as.headD default
        let (ids, s) := s.unbind s.cur g.core f.sb
        let s := (s.clearL1 s.cur pair [x.pa / 128]).setBinding g.core f.sb { bound := true, va := a, asid := s.asid }
        let o : Op := { gid := s.cur, kind := .matrix, flag := g.gang.fb.toNat, tiles := bindBit f.sb
                        todo := some (.stbind f), args := [a.toNat, layer, x.pa, s.asid, ids.length] ++ ids }
        let id := s.nextId
        let s := s.issueMat o 24
        if ((s.pair pair).plate a s.asid).isSome then s
        else
          let (r, s) := s.newReq
            { kind := .bypass, core := g.core, op := id, gid := s.cur, asid := s.asid, kslot := g.kslot, vline := a.toNat / 128
              pline := x.pa / 128, master := BitVec.ofNat 12 g.core, tenant := (s.launch g.launch).tenant
              cls := if x.nc then 0x06 else 0 }
          let ll : LaneLoad := { lane := e, ea := a, pline := x.pa / 128, req := r }
          let s := { s with ops := Tab.change s.ops id (fun o => { o with loads := [ll] }) }
          if x.nc then s.direct r else s.requestL2 r))

/-- `stinval` (R313). -/
def execStinval (f : RForm) (s : State) : Out :=
  s.matrixForm f (fun s =>
    let g := s.g
    let b := s.binding g.core f.sb
    (if b.bound then s.updPlate (pairOf g.core) b.va b.asid (fun p => p.setFlags p.valid true p.met) else s).onGid Gid.advance)

/-- `stflush` (R313): it completes when every line written has been accepted. -/
def execStflush (f : RForm) (s : State) : Out :=
  s.matrixForm f (fun s => s.withRoom s.g.gang.fb.toNat (fun s =>
    let g := s.g
    let (ids, s) := s.unbind s.cur g.core f.sb
    s.issueMat { gid := s.cur, kind := .matrix, flag := g.gang.fb.toNat, tiles := bindBit f.sb, todo := some (.stflush f)
                 args := [0, 0, 0, 0, ids.length] ++ ids } 8))

/-- The report of a binding (R314); CNT is the descriptor's while no operation has been made. -/
def State.reportOf (s : State) (core b : Nat) : Dword :=
  let x := s.binding core b
  if x.bound = false then 0
  else if field x.report 3 0 ≠ 0 then x.report
  else match (s.pair (pairOf core)).plate x.va x.asid with
    | some p => BitVec.ofNat 64 (p.cnt * 2 ^ 8)
    | none => 0

/-- `stquery` (R314): the elected lane takes the report (R288). -/
def execStquery (f : RForm) (s : State) : Out :=
  s.matrixForm f (fun s =>
    let g := s.g
    let fl := g.flagFor f.d
    s.withRoom fl (fun s =>
      let v := s.reportOf g.core f.sb
      s.issueMat { gid := s.cur, kind := .matrix, flag := fl, dst := f.d, writes := g.wrOn g.isElected f.d (fun _ => splitD v) } 8))

/-! ### `dmma` and `strefresh` (R310, R312) -/

/-- What an operation on a plate works with: the shape and format of its operand, the latch, and the launch's tenant. -/
structure Stereo where
  core : Nat
  m : Nat
  k : Nat
  nt : Nat
  n : Nat
  afmt : Nat
  tenant : Nat
  /-- The operand (none in `strefresh`). -/
  x : List (List Num)

/-- It is read from the core, its tile shape as the operation found it. -/
def State.stereoOf (s : State) (core : Nat) (tenant : BitVec 12) (f : RForm) (sh : Dword) : Stereo :=
  let m := (s.core core).mat
  let rows := (List.range (shRows sh)).map (fun r => rowNums (shFmt sh) (shCols sh) (m.rowBytes f.tb r (rowLen (shFmt sh) (shCols sh))))
  { core := core, m := shRows sh, k := shCols sh, nt := m.columns, n := laN m.lshape, afmt := f.afmt, tenant := tenant.toNat, x := rows }

/-- NaN or infinite. -/
def Num.nonfinite : Num → Bool
  | .fin _ _ _ => false
  | _ => true

/-- The case before Δ is formed (Table 8): 1 stands for delta (DEDUCED, log entry 52). -/
def stereoCase (p : Plate) (latch : Dword) (t : Stereo) : Nat :=
  if p.valid = false ∨ p.inv = true then 2
  else if p.rows ≠ t.m ∨ p.kd ≠ t.k ∨ p.nt ≠ t.nt then 3
  else if p.ten ≠ t.tenant then 4
  else if p.met ≠ laMet latch ∨ (p.met = true ∧ (p.reg ≠ (laReg latch).toNat ∨ p.ver ≠ (laVer latch).toNat)) then 5
  else if p.period ≤ p.cnt then 6
  else if t.x.any (fun r => r.any Num.nonfinite) then 7
  else 1

/-- What a run of the array leaves: elements, flags, cycles, skipped blocks, the plate after, and the report. -/
structure StereoRun where
  out : List (Nat × Nat × Word)
  flags : Nat
  cycles : Nat
  skips : Nat
  plate : Plate
  report : Dword

/-- The report of R314. -/
def stereoReport (cycles nz cnt code : Nat) : Dword := BitVec.ofNat 64 (cycles * 2 ^ 32 + nz * 2 ^ 16 + cnt * 2 ^ 8 + code)

/-- A plate takes a result and an operand. -/
def Plate.setArrays (p : Plate) (opd : List (Nat × Nat × Word)) (out : List (Nat × Nat × Word)) : Plate :=
  { p with
    opd := opd.foldl (fun (t : Tab Word) e => Tab.ins t (128 * e.1 + e.2.1) e.2.2) p.opd
    res := out.foldl (fun (t : Tab Word) e => Tab.ins t (256 * e.1 + e.2.1) e.2.2) p.res
    arrays := true, adirty := true }

/-- Values rounded to binary32, with their flags (R178). -/
def roundRows (m k : Nat) (v : Nat → Nat → Num) : List (Nat × Nat × Word) × Nat :=
  let rs := (List.range m).flatMap (fun i => (List.range k).map (fun j => (i, j, f32.round 0 (v i j))))
  (rs.map (fun r => (r.1, r.2.1, BitVec.ofNat 32 r.2.2.bits)), rs.foldl (fun a r => a ||| r.2.2.flags) 0)

/-- The dense path (R310). -/
def denseRun (p : Plate) (mt : Mat) (t : Stereo) (code nz : Nat) : StereoRun :=
  let ws := mt.weights
  let (out, fl) := mmaExec t.m t.nt t.k (fun _ _ => (0, 0)) (elemAt t.x) (elemAt ws) (fun _ _ => false)
  let (opd, fl2) := roundRows t.m t.k (elemAt t.x)
  let cyc := arrayCycles (liveBlocks t.m t.k (fun _ _ => false)) (min (rateOf (laFmt mt.latch)) (rateOf t.afmt))
  let la := mt.latch
  let p := (((((((({ p with opd := [], res := [] }.setFlags true false (laMet la)).put 16 2 t.m).put 18 2 t.k).put 20 2 t.nt).put 2 2
    t.tenant).put 4 2 (laReg la).toNat).put 8 4 (laVer la).toNat).put 13 1 1).setArrays opd out
  { out := out, flags := fl ||| fl2, cycles := cyc, skips := 0, plate := p, report := stereoReport cyc nz 1 code }

/-- The quantised difference of the operand and OPD (R310), row by row in blocks of 16; with its flags. -/
def deltaRows (p : Plate) (t : Stereo) : List (List Num) × Nat :=
  let rows := (List.range t.m).map (fun m => (List.range (t.k / 16)).map (fun j =>
    encodeBlock p.fmt ((List.range 16).map (fun i =>
      let k := 16 * j + i
      (addNum 0 (elemAt t.x m k) (f32.decode (p.opdAt m k).toNat).neg).1))))
  (rows.map (fun r => r.flatMap (fun b => unpackBlock p.fmt (packBlock p.fmt b))),
    rows.foldl (fun a r => r.foldl (fun a b => a ||| b.flags) a) 0)

/-- An 8 × 8 block of Δ has no non-zero magnitude. -/
def zeroBlock (dq : List (List Num)) (i j : Nat) : Bool :=
  (List.range 8).all (fun a => (List.range 8).all (fun b => (elemAt dq (8 * i + a) (8 * j + b)).isZero))

/-- The delta path, or the dense one where Δ is too full (R310). -/
def deltaRun (p : Plate) (mt : Mat) (t : Stereo) : StereoRun :=
  let (dq, qf) := deltaRows p t
  let nblk := (t.m + 7) / 8 * (t.k / 8)
  let nz := (List.range ((t.m + 7) / 8)).foldl (fun a i => a + (List.range (t.k / 8)).countP (fun j => !zeroBlock dq i j)) 0
  if p.thr * nblk < 256 * nz then denseRun p mt t 8 nz
  else
    let zs := (List.range ((t.m + 7) / 8)).map (fun i => (List.range (t.k / 8)).map (zeroBlock dq i))
    let skip (i j : Nat) : Bool := (zs.getD (i / 8) []).getD (j / 8) true
    let ws := mt.weights
    let (out, fl) := mmaExec t.m t.nt t.k (fun m n => (p.resAt m n, 0)) (elemAt dq) (elemAt ws) skip
    let (opd, fl2) := roundRows t.m t.k (fun m k => (addNum 0 (f32.decode (p.opdAt m k).toNat) (elemAt dq m k)).1)
    let live := liveBlocks t.m t.k skip
    let cyc := arrayCycles live (min (rateOf (laFmt mt.latch)) (rateOf p.fmt))
    let cnt := p.cnt + 1
    { out := out, flags := fl ||| fl2 ||| qf, cycles := cyc, skips := nblk - nz, plate := (p.put 13 1 cnt).setArrays opd out
      report := stereoReport cyc nz cnt 1 }

/-- `strefresh` on a usable plate (R312). -/
def refreshRun (p : Plate) (mt : Mat) (nt : Nat) : StereoRun :=
  let m := p.rows
  let k := p.kd
  let la := mt.latch
  let ws := mt.weights
  let xs := (List.range m).map (fun i => (List.range k).map (fun j => f32.decode (p.opdAt i j).toNat))
  let (out, fl) := mmaExec m nt k (fun _ _ => (0, 0)) (elemAt xs) (elemAt ws) (fun _ _ => false)
  let cyc := arrayCycles (liveBlocks m k (fun _ _ => false)) 1
  let p := ((((p.setFlags true false (laMet la)).put 4 2 (laReg la).toNat).put 8 4 (laVer la).toNat).put 13 1 1).setArrays [] out
  { out := out, flags := fl, cycles := cyc, skips := 0, plate := p, report := stereoReport cyc 0 1 9 }

/-- The tile, latch and accumulators that a plate operation uses. -/
def stereoBits (m : Mat) (f : RForm) : BitVec 17 × BitVec 17 :=
  (tileBit f.tb ||| accBit f.acc ||| latchBit ||| bindBit f.sb, if laPair m.latch then accBit f.acc ||| latchBit else 0)

/-- The elected thread's checks of the arrays of a plate that comes into the cache and of the plates `vs` that are written back for it
(R308), with the lines of the former, or of those that stand in the cache already; L1 copies leave (DEDUCED, log entry 51). -/
def State.checkArrays (s : State) (p : Plate) (here : Bool) (m k nt : Nat) (vs : List Plate) : Except State (State × Tab Nat) :=
  let g := s.g
  let e := g.elected
  let probe (a : Dword × Nat) : Probe := s.probeAt e a.1 a.2 (rightR ||| rightW) false false false
  let own := if here then [] else p.spans m k nt
  let out := (vs.filter (·.adirty)).flatMap (fun q => q.spans q.rows q.kd q.nt)
  match s.checkLanes (rightR ||| rightW) ((own ++ out).map probe) [(e, p.va)] with
  | .error s' => .error s'
  | .ok as =>
    let mine := as.take own.length
    .ok (s.clearL1 s.cur (pairOf g.core) (mine.map (fun a => a.pa / 128)),
      if here then p.lines
      else mine.foldl (fun (t : Tab Nat) a => Tab.ins t (a.ea.toNat / 128) (2 * (a.pa / 128) + if a.nc then 1 else 0)) [])

/-- A run takes effect: accumulators, plate and report; the operation's flags, cycles and counts are set. -/
def State.stereoDone (s : State) (core acc b : Nat) (n : Nat) (r : StereoRun) : State :=
  let x := s.binding core b
  ((s.putAcc core acc n r.out).updPair (pairOf core) (fun q => q.setPlate r.plate)).setBinding core b { x with report := r.report }

/-- The parts of an operation that a run fixes. -/
def Op.withRun (o : Op) (r : StereoRun) (m : Mat) (macs : Nat) : Op :=
  m.meter macs { o with writes := [.sticky (BitVec.ofNat 64 r.flags)], cycles := r.cycles, skips := r.skips }

/-- A plate operation that needs arrays from memory: it waits for them (R308). -/
def State.stereoFetch (s : State) (o : Op) (f : Instr) (args : List Nat) (p : Plate) (spans : List (Dword × Nat)) : State :=
  let g := s.g
  let id := s.nextId
  let s := s.issueMat { o with todo := some f, args := args } 24
  (spans.map (fun a => a.1.toNat / 128)).eraseDups.foldl (fun (s : State) v =>
    let line := Tab.get 0 p.lines v
    let (r, s) := s.newReq
      { kind := .bypass, core := g.core, op := id, gid := s.cur, asid := p.asid, kslot := g.kslot, vline := v, pline := line / 2
        master := BitVec.ofNat 12 g.core, tenant := (s.launch g.launch).tenant, cls := if line % 2 = 1 then 0x06 else 0 }
    let ll : LaneLoad := { lane := g.elected, ea := BitVec.ofNat 64 (128 * v), pline := line / 2, req := r }
    let s := { s with ops := Tab.change s.ops id (fun o => { o with loads := o.loads ++ [ll] }) }
    if line % 2 = 1 then s.direct r else s.requestL2 r) s

/-- `dmma` (R310): every check, of the arrays it needs and of those it puts out of the cache (R308), then the operation. -/
def execDmma (f : RForm) (s : State) : Out :=
  s.matrixForm f (fun s => s.withRoom s.g.gang.fb.toNat (fun s =>
    let g := s.g
    let pair := pairOf g.core
    let mt := s.mat
    let x := s.binding g.core f.sb
    let sh := mt.shape f.tb
    let t := s.stereoOf g.core (s.launch g.launch).tenant f sh
    let bits := stereoBits mt f
    let o : Op := { gid := s.cur, kind := .matrix, flag := g.gang.fb.toNat, tiles := bits.1, ftiles := bits.2 }
    match (s.pair pair).plate x.va x.asid with
    | none => s.onGid Gid.advance
    | some p =>
      s.withCount mt (t.m * t.k * t.nt) (fun s =>
        let c := stereoCase p mt.latch t
        let same := p.rows = t.m ∧ p.kd = t.k ∧ p.nt = t.nt
        let here := decide (p.arrays = true ∧ same)
        let vs := s.plateVictims pair p.va p.asid (4 * t.m * (t.k + t.nt)) ++ (if p.arrays = true ∧ ¬same then [p] else [])
        match s.checkArrays p here t.m t.k t.nt vs with
        | .error s' => s'
        | .ok (s, lines) =>
          let s := s.evictPlates s.cur pair vs
          let p := { p with lines := lines, core := g.core, tenant := (s.launch g.launch).tenant }
          if c = 1 ∧ p.arrays = false then
            (s.updPair pair (fun q => q.setPlate { p with fetching := true })).stereoFetch o (.dmma f) [sh.toNat] p (p.spans t.m t.k t.nt)
          else
            let r := if c = 1 then deltaRun p mt t else denseRun p mt t c 0
            (s.stereoDone g.core f.acc f.sb t.n r).issueMat
              (o.withRun r mt (t.m * t.k * t.nt)) (2 * t.m + r.cycles))))

/-- `strefresh` (R312). -/
def execStrefresh (f : RForm) (s : State) : Out :=
  s.matrixForm f (fun s => s.withRoom s.g.gang.fb.toNat (fun s =>
    let g := s.g
    let pair := pairOf g.core
    let mt := s.mat
    let x := s.binding g.core f.sb
    let ten := (s.launch g.launch).tenant
    let bits := stereoBits mt f
    let o : Op := { gid := s.cur, kind := .matrix, flag := g.gang.fb.toNat, tiles := accBit f.acc ||| latchBit ||| bindBit f.sb
                    ftiles := bits.2 }
    match (s.pair pair).plate x.va x.asid with
    | none => s.onGid Gid.advance
    | some p =>
      let nt := mt.columns
      if p.valid = false ∨ p.ten ≠ ten.toNat ∨ p.kd ≠ laK mt.lshape ∨ p.nt ≠ nt then
        (s.setBinding g.core f.sb { x with report := stereoReport 0 0 p.cnt 10 }).issueMat o 8
      else
        s.withCount mt (p.rows * p.kd * nt) (fun s =>
          let vs := s.plateVictims pair p.va p.asid (4 * p.rows * (p.kd + p.nt))
          match s.checkArrays p p.arrays p.rows p.kd p.nt vs with
          | .error s' => s'
          | .ok (s, lines) =>
            let s := s.evictPlates s.cur pair vs
            let p := { p with lines := lines, core := g.core, tenant := ten }
            if p.arrays = false then
              (s.updPair pair (fun q => q.setPlate { p with fetching := true })).stereoFetch o (.strefresh f) [0] p (p.spans p.rows p.kd p.nt)
            else
              let r := refreshRun p mt nt
              (s.stereoDone g.core f.acc f.sb (laN mt.lshape) r).issueMat (o.withRun r mt (p.rows * p.kd * nt)) r.cycles)))

/-! ### Completion (R289, R315) -/

/-- The arrays of a plate from the lines an operation has fetched. -/
def State.fillPlate (s : State) (o : Op) (p : Plate) : Plate :=
  let word (a : Nat) : Word := BitVec.ofNat 32 (natOfBytes (s.rowFrom o a 4))
  let opd := (List.range p.rows).flatMap (fun m => (List.range p.kd).map (fun k => (m, k, word (p.opAddr + 4 * (m * p.kd + k)))))
  let res := (List.range p.rows).flatMap (fun m => (List.range p.nt).map (fun n => (m, n, word (p.resAddr + 4 * (m * p.nt + n)))))
  { ({ p with opd := [], res := [] }.setArrays opd res) with adirty := false, fetching := false }

/-- A plate operation whose arrays could not be read (R315): the plate is not valid; ACC is free after a denial or a timeout, and
unchanged after poison, which writes nothing (R384) (DESIGN CHOICE, log entry 45). -/
def State.stereoBad (s : State) (core : Nat) (f : RForm) (p : Plate) (m nt n : Nat) (c : BitVec 8) : State :=
  let (k, s) := s.tick
  let es := if c = 0x14 then []
    else (List.range m).flatMap (fun i => (List.range nt).map (fun j => (i, j, Config.freeWord (k + 256 * i + j))))
  (s.putAcc core f.acc n es).updPair (pairOf core) (fun q => q.setPlate ({ p with fetching := false }.setFlags false p.inv p.met))

/-- A `dmma` or `strefresh` whose arrays have come, or not. -/
def State.stereoArrived (s : State) (id : Nat) (o : Op) (f : RForm) (refresh : Bool) (fault : Option (BitVec 8)) : State :=
  let g := s.gid o.gid
  let core := g.core
  let mt := (s.core core).mat
  let x := s.binding core f.sb
  let n := laN mt.lshape
  match (s.pair (pairOf core)).plate x.va x.asid with
  | none => s.finishMat id o
  | some p =>
    let t := s.stereoOf core (s.launch g.launch).tenant f (BitVec.ofNat 64 (o.args.headD 0))
    match fault with
    | some c => (s.stereoBad core f p p.rows p.nt n c).finishMat id o
    | none =>
      let p := s.fillPlate o p
      let r := if refresh then refreshRun p mt mt.columns else deltaRun p mt t
      let o := o.withRun r mt (p.rows * p.kd * p.nt)
      let s := s.stereoDone core f.acc f.sb n r
      { s with ops := Tab.ins s.ops id o }.finishMat id o

/-- An `stbind` whose descriptor has come (R309), or not (R315). -/
def State.bindArrived (s : State) (id : Nat) (o : Op) (f : RForm) (bad : Bool) : State :=
  let g := s.gid o.gid
  let core := g.core
  let pair := pairOf core
  match o.args with
  | va :: layer :: pa :: asid :: _ =>
    if bad then (s.setBinding core f.sb {}).finishMat id o
    else
      let v := BitVec.ofNat 64 va
      let p := match (s.pair pair).plate v asid with
        | some p => p
        | none => { va := v, asid := asid, pa := pa, desc := s.rowFrom o va 64, core := core, tenant := (s.launch g.launch).tenant }
      let malformed := p.malformed
      let p := if malformed = false ∧ p.layer ≠ layer then (p.put 0 2 layer).setFlags false p.inv p.met else p
      let s := s.updPair pair (fun q => q.setPlate p)
      let s := s.finishMat id o
      if malformed then s.report o.gid { cause := 0x0A } else s
  | _ => s.finishMat id o

/-- Write-backs an operation waits for. -/
def State.flushing (s : State) (o : Op) : Bool := (o.args.drop 5).any (fun id => (Tab.find s.reqs id).isSome)

/-- MATRIX_OP_COMPLETE (R289, R315): an operation that waits for memory looks again; else it takes effect, or its fault is
reported, and it completes. -/
def execMatrixOpComplete (op : Nat) (s : State) : Out :=
  .next (match Tab.find s.ops op with
    | none => s
    | some o => match o.todo with
      | none => s.finishMat op o
      | some (.stflush _) => if s.flushing o then s.later 10 (.matrixOpComplete op) else s.finishMat op o
      | some i =>
        let a := s.arrival o
        let waits := (match i with
          | .stbind _ => s.flushing o
          | _ => false) && (match a with
          | .bad _ => false
          | _ => true)
        if a = .waiting ∨ waits = true then s.later 10 (.matrixOpComplete op)
        else
          let fault : Option (BitVec 8) := match a with
            | .bad c => some c
            | _ => none
          let s := match i, fault with
            | .stbind f, _ => s.bindArrived op o f fault.isSome
            | .dmma f, _ => s.stereoArrived op o f false fault
            | .strefresh f, _ => s.stereoArrived op o f true fault
            | _, some c => (s.rowsLost o c).finishMat op o
            | _, none => (s.rowsArrived o).finishMat op o
          let s := match fault with
            | some c => s.report o.gid { cause := c }
            | none => s
          { s with reqs := s.reqs.filter (fun e => e.2.op != op || e.2.kind == .write) })

end Sys2Proof.Machine
end

