-- ==== Sys2Proof/Machine/Sort.lean ====
section
/-!
DEFINITION. Sort words and the typecase (08 R211 to R216).
-/

namespace Sys2Proof.Machine

/-! ### Entries (R211 to R213) -/

def entryWord0 (e : BitVec 128) : Word := e.extractLsb' 0 32
def entryWord1 (e : BitVec 128) : Word := e.extractLsb' 32 32
/-- HMAP: the target code of hole `k`, 0 A, 1 B, 2 C; 3 is the reserved nibble. -/
def holeCode (e : BitVec 128) (k : Nat) : Nat := (e.extractLsb' (64 + 4 * k) 4).toNat

/-- The field that a hole code names: whether it lies in the prefix word, its lowest bit and its width (Table 5). -/
def holeField (c : Nat) : Bool × Nat × Nat :=
  match c with
  | 1 => (false, 19, 7)
  | 2 => (false, 12, 7)
  | 3 => (false, 5, 7)
  | 4 => (false, 0, 5)
  | 5 => (false, 0, 7)
  | 6 => (true, 17, 7)
  | 7 => (true, 21, 3)
  | 8 => (true, 18, 3)
  | 9 => (true, 16, 2)
  | _ => (true, 14, 2)

/-- A template as its prefix word, if any, and its instruction word. -/
def templateOf (e : BitVec 128) : Option Word × Word :=
  if majorOf (entryWord0 e) = 0x3E then (some (entryWord0 e), entryWord1 e) else (none, entryWord0 e)

/-- PK of a template's prefix; 4 without one. -/
def pkOf (p : Option Word) : Nat := match p with
  | some w => (w.extractLsb' 24 2).toNat
  | none => 4

/-- A register field of a template holds 127 (R213). -/
def holds127 (p : Option Word) (i : Word) : Bool :=
  (match formatOf (majorOf i) with
    | .rf => dOf i == 127 || aOf i == 127 || bOf i == 127
    | .imm | .mf => dOf i == 127 || aOf i == 127
    | .jf => dOf i == 127
    | _ => false)
  || (match p with
    | some w => (w.extractLsb' 24 2 == 1#2) && w.extractLsb' 17 7 == 127
    | none => false)

/-- Majors that no template's instruction word has: header, prefix and sort word (R213). -/
def badMajor (w : Word) : Bool := majorOf w == 0 || majorOf w == 0x3E || majorOf w == 0x3F

/-- A hole code names a field that the template has (R213). -/
def codeFits (p : Option Word) (i : Word) (c : Nat) : Bool :=
  if c ≤ 4 then true
  else if c = 5 then (match formatOf (majorOf i) with
    | .imm | .mf | .bf | .jf => true
    | _ => false)
  else if c = 6 then pkOf p == 1
  else decide (c ≤ 10) && pkOf p == 2

/-- A well-formed entry (R213). -/
def wellFormed (e : BitVec 128) : Bool :=
  let (p, i) := templateOf e
  let codes := ((List.range 3).map (holeCode e)).filter (· != 0)
  e.extractLsb' 80 8 == 1#8 && e.extractLsb' 88 40 == 0#40 && holeCode e 3 == 0
    && pkOf p != 3 && !badMajor i && (p.isSome || entryWord1 e == 0)
    && !holds127 p i && codes.all (codeFits p i) && decide codes.Nodup

/-- A word with `v` in a field. -/
def putBits (w : Word) (lo width v : Nat) : Word :=
  let m : Word := BitVec.ofNat 32 ((2 ^ width - 1) * 2 ^ lo)
  (w &&& ~~~m) ||| BitVec.ofNat 32 (v * 2 ^ lo)

/-- The holes of a sort word (R200). -/
def holes (f : SForm) : List Nat := [f.ha.toNat, f.hb.toNat, f.hc.toNat]

/-- The holes are filled in, in order; none where one is wider than its field (R212, R215). -/
def fillHoles (e : BitVec 128) : List (Nat × Nat) → Option Word × Word → Option (Option Word × Word)
  | [], t => some t
  | (k, v) :: rest, (p, i) =>
    let c := holeCode e k
    if c = 0 then fillHoles e rest (p, i)
    else
      let (inPre, lo, width) := holeField c
      if 2 ^ width ≤ v then none
      else if inPre then fillHoles e rest (p.map (fun w => putBits w lo width v), i)
      else fillHoles e rest (p, putBits i lo width v)

/-- The words a sort word stands for, or the cause its expansion raises (R213, R215). -/
def expandEntry (e : BitVec 128) (f : SForm) : Except (BitVec 8) (List Word) :=
  if wellFormed e then
    match fillHoles e ((List.range 3).zip (holes f)) (templateOf e) with
    | none => .error 0x10
    | some (p, i) => if holds127 p i then .error 0x10 else .ok (p.toList ++ [i])
  else .error 0x11

/-- The entry of a sort word in the bank of a gang id's kernel slot (R211). -/
def State.sortEntry (s : State) (g : Gid) (f : SForm) : BitVec 128 :=
  Tab.get 0 (s.pair (pairOf g.core)).bank (256 * g.kslot + f.index.toNat)

/-- A sort word takes its expansion's place at the head of the clause; its address stays (R215, R229). -/
def Gid.replaceHead (g : Gid) (ws : List Word) : Gid :=
  { g with gang := { g.gang with buf := match g.gang.buf with
      | [] => []
      | sl :: rest => { sl with words := ws } :: rest } }

/-- A sort word (R215): its expansion, which runs in its place; or the undefined-sort or illegal-instruction cause, at the
header. -/
def execSort (f : SForm) (s : State) : Out :=
  .next (match expandEntry (s.sortEntry s.g f) f with
    | .ok ws => s.onGid (fun g => g.replaceHead ws)
    | .error c => s.raiseHeader s.cur c)

end Sys2Proof.Machine
end

