-- ==== Sys2Proof/Machine/Forms.lean ====
section
/-!
DEFINITION. What each form accepts (08 R201, R202, R206, R213 and the tables of chapters 09 to 12): the role of every
field, the prefix, the constants, and the instructions that end their clause. A word that decodes and breaks one of
these rules takes the illegal-instruction cause at its header (R207).
-/

namespace Sys2Proof.Machine

/-- What a field of a form is. `n` counts registers: 1, 2 or 4 (R225). -/
inductive Role where
  /-- A field the form does not use: it holds 116 (R201). -/
  | unused
  | src (n : Nat)
  /-- A lane, y or w register, or the zero operand (R226). -/
  | dst (n : Nat)
  /-- A lane register or the zero operand (R249). -/
  | xdst (n : Nat)
  /-- A lane register (R283). -/
  | lane
  /-- A lane or y register (R306). -/
  | xy
  /-- The link of `call`: an even lane or y pair, or the zero operand (R230). -/
  | link
  /-- y0 to y15, written (R253) or read (R301). -/
  | ydst (n : Nat)
  | ysrc
  /-- m0 to m7 (R201). -/
  | mask
  /-- A constant, judged by the form. -/
  | k
  /-- A descriptor in y0–y15 where the field holds 96, else a scratchpad offset (R320). -/
  | desc
  deriving DecidableEq, Repr

/-- The group of registers a field value lies in starts here (Table 4 of R170). -/
def groupBase (v : Nat) : Nat := if v < 96 then 0 else if v < 112 then 96 else 112

/-- A field that names registers names the first of an aligned group of `n` (R225). -/
def alignedField (v n : Nat) : Bool := decide ((v - groupBase v) % n = 0)

/-- A field value that its role accepts (R170, R201, R225, R226). -/
def Role.accepts (r : Role) (f : BitVec 7) : Bool :=
  let v := f.toNat
  match r with
  | .unused => v == 116
  | .src n => if v < 116 then alignedField v n else v != 126
  | .dst n => if v < 116 then alignedField v n else v == 116
  | .xdst n => if v < 96 then alignedField v n else v == 116
  | .lane => decide (v < 96)
  | .xy => decide (v < 112)
  | .link => if v < 112 then alignedField v 2 else v == 116
  | .ydst n => decide (96 ≤ v ∧ v < 112) && alignedField v n
  | .ysrc => decide (96 ≤ v ∧ v < 112)
  | .mask => decide (v < 8)
  | .k => true
  | .desc => (decide (v ≤ 96) || decide (112 ≤ v)) && v != 126

/-- Registers a role reads or writes. -/
def Role.regs : Role → Nat
  | .src n | .dst n | .xdst n | .ydst n => n
  | .lane | .xy | .ysrc | .desc => 1
  | .link => 2
  | .unused | .mask | .k => 0

/-- Whether the role writes its registers. -/
def Role.writes : Role → Bool
  | .dst _ | .xdst _ | .lane | .xy | .link | .ydst _ => true
  | _ => false

/-- A form with the values of its fields. -/
structure Form where
  /-- The prefix, or its absence, is one the form takes (R202). -/
  pre : Bool
  fields : List (Role × BitVec 7)
  /-- Its constants and other fields are ones the form takes. -/
  ok : Bool := true
  /-- It must be the last of its clause (R206). -/
  last : Bool := false
  /-- Its literal, and whether its words have one (R203). -/
  lit : Word := 0
  needs : Bool := false

/-! ### Prefixes (R202) -/

/-- No prefix. -/
def noPre : Pre → Bool
  | .none => true
  | _ => false

/-- No prefix, or W. -/
def widePre : Pre → Bool
  | .none | .w _ => true
  | _ => false

/-- W is required (`movl.64`, R240). -/
def needWide : Pre → Bool
  | .w _ => true
  | _ => false

/-- An O prefix without QUAL and SCOPE is required. -/
def needO : Pre → Bool
  | .o p => p.qual == 0 && p.scope == 0
  | _ => false

/-- An O prefix without QUAL and SCOPE, or none. -/
def optO (p : Pre) : Bool := noPre p || needO p

/-- An O prefix with QUAL 0 and a SCOPE of at least `lo` is required (R251, R264, R318). -/
def needScope (lo : Nat) : Pre → Bool
  | .o p => p.qual == 0 && decide (lo ≤ p.scope.toNat) && decide (p.scope.toNat ≤ 5)
  | _ => false

/-- An O prefix with QUAL `q` and a SCOPE, RM = 0 (R248, R250, R257). -/
def needQual (q : Nat) : Pre → Bool
  | .o p => p.qual.toNat == q && decide (1 ≤ p.scope.toNat) && decide (p.scope.toNat ≤ 5) && p.rm == 0
  | _ => false

/-- An O prefix with QUAL 1–3 and SCOPE 1–5 (R259). -/
def needAnyQual : Pre → Bool
  | .o p => decide (1 ≤ p.qual.toNat) && decide (p.qual.toNat ≤ 3) && decide (1 ≤ p.scope.toNat) && decide (p.scope.toNat ≤ 5)
  | _ => false

/-- The fields of a T prefix (Table 3 of R292). -/
structure TUse where
  ta : Bool := false
  tb : Bool := false
  acc : Bool := false
  sb : Bool := false
  tr : Bool := false
  spb : Bool := false
  zad : Bool := false
  afmt : Bool := false

/-- A T prefix is required; the fields it does not list are zero, and AFMT where listed is at least 2 (R292). -/
def needT (u : TUse) : Pre → Bool
  | .t p =>
    (u.ta || p.ta == 0) && (u.tb || p.tb == 0) && (u.acc || p.acc == 0) && (u.sb || p.sb == 0) && (u.tr || p.tr == 0)
      && (u.spb || p.spb == 0) && (u.zad || (p.z == 0 && p.a == 0 && p.d == 0))
      && (if u.afmt then decide (2 ≤ p.afmt.toNat) && decide (p.afmt.toNat ≤ 9) else p.afmt == 0)
  | _ => false

/-- C of an O prefix as a field of `n` registers. -/
def cField (p : Pre) (n : Nat) : List (Role × BitVec 7) := match p with
  | .o q => [(.src n, q.c)]
  | _ => []

/-- C of an O prefix holds a constant below 8 (R237). -/
def cBelow8 (p : Pre) : Bool := decide (p.c.toNat < 8)

/-! ### Shapes that many forms share -/

/-- An RF form from its prefix rule and the roles of d, a and b. -/
def rf (f : RForm) (pre : Bool) (d a b : Role) (ok : Bool := true) (last : Bool := false) : Form :=
  { pre := pre, fields := [(d, f.d), (a, f.a), (b, f.b)], ok := ok, last := last, lit := f.lit
    needs := f.d == 127 || f.a == 127 || f.b == 127 }

/-- Two sources of `n` registers, no prefix. -/
def bin (f : RForm) (n : Nat) : Form := rf f (noPre f.p) (.dst n) (.src n) (.src n)
/-- One source. -/
def un (f : RForm) (n : Nat) : Form := rf f (noPre f.p) (.dst n) (.src n) .unused
/-- Three sources, the third in C of a required O prefix. -/
def tri (f : RForm) (n : Nat) : Form :=
  { pre := needO f.p, fields := [(.dst n, f.d), (.src n, f.a), (.src n, f.b)] ++ cField f.p n, lit := f.lit
    needs := f.d == 127 || f.a == 127 || f.b == 127 || f.p.c == 127 }

/-- Registers of a floating-point type 0 f64, 1 f32, 2 f16, 3 bf16 (R266). -/
def fpRegs (t : BitVec 2) : Nat := if t = 0 then 2 else 1

/-- Two floating-point sources, O allowed. -/
def fbin (f : RForm) (n : Nat) : Form := rf f (optO f.p) (.dst n) (.src n) (.src n)
/-- One. -/
def fun1 (f : RForm) (n : Nat) : Form := rf f (optO f.p) (.dst n) (.src n) .unused
/-- One source, in no f64 form (Table 7 of R219: fn 10 to 18 are not in major 0x20). -/
def sfu (t : BitVec 2) (f : RForm) : Form := rf f (optO f.p) (.dst 1) (.src 1) .unused (t != 0#2)

/-- A memory form: its access size is one of Table 1 of R200. -/
def mem (f : MForm) (pre : Bool) (d a : Role) (last : Bool := false) : Form :=
  { pre := pre, fields := [(d, f.d), (a, f.a)], ok := f.sz != 7#3, last := last, lit := f.lit
    needs := f.d == 127 || f.a == 127 }

/-- An immediate form. -/
def imm (f : IForm) (pre : Bool) (d a : Role) (ok : Bool := true) : Form :=
  { pre := pre, fields := [(d, f.d), (a, f.a)], ok := ok, lit := f.lit, needs := f.d == 127 || f.a == 127 }

/-- An atomic of width `w`. -/
def amo (w : BitVec 1) (f : RForm) (pre : Bool) : Form := rf f pre (.dst (nregs w)) (.src 2) (.src (nregs w))

/-- A form whose word is fixed. -/
def plain (last : Bool := false) : Form := { pre := true, fields := [], last := last }

/-- The type codes of Table 9 that are integers, IEEE formats and block formats. -/
def isInt (c : Nat) : Bool := decide (16 ≤ c ∧ c ≤ 23)
def isIeee (c : Nat) : Bool := decide (c ≤ 3)
def isBlock (c : Nat) : Bool := decide (4 ≤ c ∧ c ≤ 9)

/-- A conversion of variant `v`: its codes must satisfy the table of R220. -/
def conv (v : Nat) (c : BitVec 5) (f : RForm) (pre ok : Bool) : Form :=
  rf f pre (.dst (codeWords c.toNat)) (.src (codeWords (srcCode f))) .k (ok && decide ((f.b.extractLsb' 5 2).toNat = v))

/-- RM of the prefix is 0. -/
def rmZero (p : Pre) : Bool := p.rm == 0

/-- Matrix rows: the address is a scratchpad offset with SPB = 1, else global (R295). -/
def rowsForm (f : RForm) (u : TUse) : Form := rf f (needT u f.p) .unused (.src (if f.spb then 1 else 2)) (.src 1)

/-- Z, A and D of `mma` (R301). -/
def mmaMode (p : Pre) : Nat := match p with
  | .t t => 4 * t.z.toNat + 2 * t.a.toNat + t.d.toNat
  | _ => 0

/-- A mask-form field that is not used. -/
def mask1 (f : RForm) : Form := rf f (noPre f.p) .mask .mask .unused

/-- What each instruction's form is; none for the steps of other agents, which no word encodes (DEDUCED, log entry 11). -/
def formOf : Instr → Option Form
  | .br f => some { pre := noPre f.p, fields := [], ok := f.mreg == 0#3 && f.neg == 0#1, last := true }
  | .brM f => some { pre := noPre f.p, fields := [], last := true }
  | .call f => some { pre := noPre f.p, fields := [(.link, f.d)], last := true, lit := f.lit, needs := f.d == 127 }
  | .jmp f => some (rf f (noPre f.p) .unused (.src 2) .unused true true)
  | .callReg f => some (rf f (noPre f.p) .link (.src 2) .unused true true)
  | .ret f => some (rf f (noPre f.p) .unused (.src 2) .unused true true)
  | .reform => some (plain true)
  | .exit => some (plain true)
  | .nop => some plain
  | .yield => some (plain true)
  | .reservedHint _ f => some { pre := noPre f.p, fields := [(.k, f.d), (.k, f.a), (.k, f.b)], lit := f.lit }
  | .wbase f => some (rf f (noPre f.p) .unused (.src 1) .unused true true)
  | .add w f => some (bin f (nregs w))
  | .sub w f => some (bin f (nregs w))
  | .mul w f => some (bin f (nregs w))
  | .mulhS w f => some (bin f (nregs w))
  | .mulhN w f => some (bin f (nregs w))
  | .mad w f => some (tri f (nregs w))
  | .neg w f => some (un f (nregs w))
  | .abs w f => some (un f (nregs w))
  | .minS w f => some (bin f (nregs w))
  | .minN w f => some (bin f (nregs w))
  | .maxS w f => some (bin f (nregs w))
  | .maxN w f => some (bin f (nregs w))
  | .and w f => some (bin f (nregs w))
  | .or w f => some (bin f (nregs w))
  | .xor w f => some (bin f (nregs w))
  | .not w f => some (un f (nregs w))
  | .shl w f => some (bin f (nregs w))
  | .shr w f => some (bin f (nregs w))
  | .sar w f => some (bin f (nregs w))
  | .rot w f => some (bin f (nregs w))
  | .clz w f => some (un f (nregs w))
  | .popc w f => some (un f (nregs w))
  | .brev w f => some (un f (nregs w))
  | .bfeN w f => some (tri f (nregs w))
  | .bfeS w f => some (tri f (nregs w))
  | .bfi w f => some (tri f (nregs w))
  | .sel w f => some (rf f (needO f.p) (.dst (nregs w)) (.src (nregs w)) (.src (nregs w)) (cBelow8 f.p))
  | .lea w f => some (rf f (needO f.p) (.dst (nregs w)) (.src (nregs w)) (.src 1) (cBelow8 f.p))
  | .mov w f => some (un f (nregs w))
  | .ext w f =>
    let c := f.b.toNat
    some (rf f (noPre f.p) (.dst (nregs w)) (.src (if c = 18 then 1 else nregs w)) .k
      (c == 16 || c == 17 || c == 18 || c == 20 || c == 21 || (c == 19 && w == 1#1)))
  | .dot4 f => some (tri f 1)
  | .movl f => some (imm f (noPre f.p) (.dst 1) .unused)
  | .movl64 f => some (imm f (needWide f.p) (.dst 2) .unused)
  | .cmp w c f => some (rf f (noPre f.p) .mask (.src (nregs w)) (.src (nregs w)) (decide (c.toNat ≤ 9)))
  | .mand f => some (rf f (noPre f.p) .mask .mask .mask)
  | .mor f => some (rf f (noPre f.p) .mask .mask .mask)
  | .mnot f => some (mask1 f)
  | .mmov f => some (mask1 f)
  | .ldG f => some (mem f (widePre f.p) (.xdst (szRegs f.sz)) (.src 2) true)
  | .ldGAcq f => some (mem f (needQual 1 f.p) (.xdst (szRegs f.sz)) (.src 2) true)
  | .stG f => some (mem f (widePre f.p) (.src (szRegs f.sz)) (.src 2))
  | .stGRel f => some (mem f (needQual 2 f.p) (.src (szRegs f.sz)) (.src 2))
  | .ldCons f => some (mem f (needScope 1 f.p && rmZero f.p) (.dst (szRegs f.sz)) (.src 2))
  | .ldNc f => some (mem f (widePre f.p) (.dst (szRegs f.sz)) (.src 2))
  | .ldS f => some (mem f (widePre f.p) (.dst (szRegs f.sz)) (.src 1))
  | .stS f => some (mem f (widePre f.p) (.src (szRegs f.sz)) (.src 1))
  | .ldY f => some (mem f (widePre f.p) (.ydst (szRegs f.sz)) (.src 2))
  | .pf f => some (mem f (widePre f.p) .unused (.src 2))
  | .gdrain => some plain
  | .fenceAcq f => some (rf f (needScope 1 f.p) .unused .unused .unused)
  | .fenceRel f => some (rf f (needScope 1 f.p) .unused .unused .unused)
  | .fenceAr f => some (rf f (needScope 1 f.p) .unused .unused .unused)
  | .amoAdd w f => some (amo w f (optO f.p))
  | .amoMinS w f => some (amo w f (optO f.p))
  | .amoMaxS w f => some (amo w f (optO f.p))
  | .amoAnd w f => some (amo w f (optO f.p))
  | .amoOr w f => some (amo w f (optO f.p))
  | .amoXor w f => some (amo w f (optO f.p))
  | .amoXchg w f => some (amo w f (optO f.p))
  | .amoCas w f =>
    let x := amo w f (needO f.p)
    some { x with fields := x.fields ++ cField f.p (nregs w), needs := x.needs || f.p.c == 127 }
  | .amoFadd w f => some (amo w f (optO f.p))
  | .amoMinN w f => some (amo w f (optO f.p))
  | .amoMaxN w f => some (amo w f (optO f.p))
  | .amoQualified w op f =>
    let x := amo w f (needAnyQual f.p)
    some { x with
      fields := x.fields ++ (if op = 7 then cField f.p (nregs w) else [])
      ok := decide (op.toNat ≤ 10), needs := x.needs || (op == 7 && f.p.c == 127) }
  | .samoAdd f => some (bin f 1)
  | .samoMinS32 f => some (bin f 1)
  | .samoMaxS32 f => some (bin f 1)
  | .samoXchg f => some (bin f 1)
  | .fadd t f => some (fbin f (fpRegs t))
  | .fsub t f => some (fbin f (fpRegs t))
  | .fmul t f => some (fbin f (fpRegs t))
  | .fma t f => some (tri f (fpRegs t))
  | .fmin t f => some (fbin f (fpRegs t))
  | .fmax t f => some (fbin f (fpRegs t))
  | .fclass t f => some (rf f (optO f.p) (.dst 1) (.src (fpRegs t)) .unused)
  | .frnd t f => some (fun1 f (fpRegs t))
  | .fscale t f => some (rf f (optO f.p) (.dst (fpRegs t)) (.src (fpRegs t)) (.src 1))
  | .sqrt t f => some (fun1 f (fpRegs t))
  | .exp2 t f => some (sfu t f)
  | .log2 t f => some (sfu t f)
  | .rcp t f => some (sfu t f)
  | .rsqrt t f => some (sfu t f)
  | .sin t f => some (sfu t f)
  | .cos t f => some (sfu t f)
  | .tanh t f => some (sfu t f)
  | .sigm t f => some (sfu t f)
  | .erf t f => some (sfu t f)
  | .haddF16x2 f => some (fbin f 1)
  | .hmulF16x2 f => some (fbin f 1)
  | .hfmaF16x2 f => some (tri f 1)
  | .haddBf16x2 f => some (fbin f 1)
  | .hmulBf16x2 f => some (fbin f 1)
  | .hfmaBf16x2 f => some (tri f 1)
  | .fcmp t _ f => some (rf f (noPre f.p) .mask (.src (fpRegs t)) (.src (fpRegs t)))
  | .cvt c f => some (conv 0 c f (optO f.p) (isIeee c.toNat && isIeee (srcCode f)))
  | .cvti c f =>
    let d := c.toNat
    let s := srcCode f
    some (conv 1 c f (optO f.p) ((isInt d || isIeee d) && (isInt s || isIeee s) && (isInt d || isInt s)))
  | .cvtq c f => some (conv 2 c f (optO f.p && rmZero f.p) (isBlock c.toNat && isIeee (srcCode f)))
  | .dcvtq c f => some (conv 3 c f (optO f.p) (isIeee c.toNat && isBlock (srcCode f)))
  | .cvts c f => some (rf f (noPre f.p) (.dst 1) (.src 1) .unused (decide (2 ≤ c.toNat ∧ c.toNat ≤ 9)))
  | .bcast f => some (un f 1)
  | .rdlane f => some (bin f 1)
  | .wrlane f => some (rf f (noPre f.p) .lane (.src 1) (.src 1))
  | .voteAny f => some (mask1 f)
  | .voteAll f => some (mask1 f)
  | .voteUni f => some (mask1 f)
  | .ballot f => some (rf f (noPre f.p) (.dst 2) .mask .unused)
  | .shflIdx f => some (bin f 1)
  | .shflUp f => some (bin f 1)
  | .shflDown f => some (bin f 1)
  | .shflXor f => some (bin f 1)
  | .elect f => some (rf f (noPre f.p) (.dst 1) .unused .unused)
  | .reduce _ f => some (un f 1)
  | .scan _ f => some (un f 1)
  | .tshape f => some (rf f (needT { ta := true, afmt := true } f.p) .unused (.src 1) (.src 1))
  | .tld f => some (rowsForm f { ta := true, spb := true })
  | .tst f => some (rowsForm f { ta := true, spb := true })
  | .tzero f => some (rf f (needT { ta := true } f.p) .unused .unused .unused)
  | .tmov f => some (rf f (needT { ta := true, tb := true } f.p) .unused .unused .unused)
  | .tfragRead f => some (rf f (needT { ta := true } f.p) (.dst 1) .unused (.src 1) (f.d != 116#7))
  | .tfragWrite f => some (rf f (needT { ta := true } f.p) .unused (.src 1) (.src 1) (f.a != 116#7))
  | .wlatch f =>
    some (rf f (needT { ta := true, tr := true } f.p) .k (.src 2) (.src 1)
      (decide (f.d.toNat ≤ 1) && (f.a != 116#7 || f.b == 116#7)))
  | .mma f =>
    some (rf f (needT { tb := true, acc := true, tr := true, spb := true, zad := true, afmt := true } f.p) .unused .unused
      (if mmaMode f.p = 3 then .ysrc else .unused) (mmaMode f.p == 4 || mmaMode f.p == 2 || mmaMode f.p == 3))
  | .tmask f => some (rf f (needT { ta := true } f.p) .unused .unused .unused)
  | .accld f => some (rowsForm f { ta := true, acc := true, spb := true })
  | .accst f => some (rowsForm f { ta := true, acc := true, spb := true })
  | .accscale f => some (rf f (needT { acc := true } f.p) .unused .unused (.src 1))
  | .accrd f => some (rf f (needT { acc := true } f.p) .xy .unused (.src 1))
  | .accadd f => some (rf f (needT { ta := true, acc := true, tr := true } f.p) .unused .unused .unused)
  | .tquant f => some (rf f (needT { ta := true, acc := true, tr := true } f.p) .unused .unused .unused)
  | .tdeq f => some (rf f (needT { ta := true, acc := true, tr := true } f.p) .unused .unused .unused)
  | .stbind f => some (rf f (needT { sb := true } f.p) .unused (.src 2) (.src 1))
  | .dmma f => some (rf f (needT { tb := true, acc := true, sb := true, afmt := true } f.p) .unused .unused .unused)
  | .strefresh f => some (rf f (needT { acc := true, sb := true } f.p) .unused .unused .unused)
  | .stinval f => some (rf f (needT { sb := true } f.p) .unused .unused .unused)
  | .stflush f => some (rf f (needT { sb := true } f.p) .unused .unused .unused)
  | .stquery f => some (rf f (needT { sb := true } f.p) (.dst 2) .unused .unused)
  | .tcload f => some (rf f (noPre f.p) .unused (.src 2) (.src 1))
  | .tcfence => some (plain true)
  | .tcread f => some (rf f (noPre f.p) (.dst 4) .unused (.src 1))
  | .xcopy f => some (rf f (needScope 2 f.p) .unused .desc (.src 1))
  | .xpf f => some (rf f (needScope 2 f.p) .unused .desc (.src 1))
  | .xcancel f => some (rf f (noPre f.p) .unused (.src 1) .unused)
  | .xstat f => some (rf f (noPre f.p) (.dst 2) .unused .unused)
  | .swinit f => some (rf f (noPre f.p) (.src 1) (.src 1) (.src 1))
  | .swarrive f => some (bin f 1)
  | .swwait f => some (rf f (needScope 2 f.p) .unused (.src 1) (.src 1) true true)
  | .tbar => some (plain true)
  | .cbar => some (plain true)
  | .launch f => some (rf f (noPre f.p) (.dst 2) (.src 2) (.src 1))
  | .lwait f => some (rf f (noPre f.p) (.dst 1) (.src 2) .unused true true)
  | .waitw f => some (rf f (needScope 2 f.p) .k (.src 2) (.src 1) (decide (f.d.toNat ≤ 3)) true)
  | .sleep f => some (rf f (noPre f.p) .unused (.src 1) .unused true true)
  | .trap f => some (rf f (noPre f.p) .unused (.src 1) .unused true true)
  | .eret => some (plain true)
  | .getfl f => some (rf f (noPre f.p) (.dst 1) .unused .unused)
  | .clrfl f => some (rf f (noPre f.p) (.dst 1) (.src 1) .unused)
  | .tfence => some (plain true)
  | .brk f => some (rf f (noPre f.p) .unused (.src 1) .unused true true)
  | .rdtime f => some (rf f (noPre f.p) (.dst 2) .unused .unused)
  | .imprintq f => some (rf f (noPre f.p) (.dst 2) (.src 1) .unused)
  | .getc f => some (imm f (noPre f.p) (.dst 2) .unused (ctlAssigned f.imm.toNat))
  | .setc f => some (imm f (noPre f.p) .unused (.src 2) (ctlAssigned f.imm.toNat))
  | .sort f => some { pre := noPre f.p, fields := [] }
  | _ => none

/-- The fields, prefix and constants are ones the form accepts (R201, R202) (DEDUCED, log entry 14). -/
def Form.legal (x : Form) : Bool := x.pre && x.ok && x.fields.all (fun p => p.1.accepts p.2)

/-- An instruction whose encoding raises no illegal-instruction cause by itself. -/
def formOk (i : Instr) : Bool := match formOf i with
  | some x => x.legal
  | none => false

/-- The instruction must end its clause (R206). -/
def endsClause (i : Instr) : Bool := match formOf i with
  | some x => x.last
  | none => false

/-- Every lane-register field of a thread lies below REGS (R170, R171, R225). -/
def inBounds (i : Instr) (regs wbase : Nat) : Bool := match formOf i with
  | some x => x.fields.all (fun p => p.1.regs == 0 || decide (96 ≤ p.2.toNat) || decide (wbase + p.2.toNat + p.1.regs ≤ regs))
  | none => true

/-! ### The canonical form -/

/-- An instruction without a literal word keeps 0 in its place (R203): it is what its words decode to. -/
def canonical (i : Instr) : Bool := match formOf i with
  | some x => x.needs || x.lit == 0
  | none => false

end Sys2Proof.Machine
end

