-- ==== Sys2Proof/Machine/Scheduler.lean ====
section
/-!
DEFINITION. The issue policy of a core (13 R368), eligible groups and their drawing (06 R162 to R165), and the start of
a clause (08 R204 to R210): its fetch, its expansion, and the checks that raise a cause at its header.
-/

namespace Sys2Proof.Machine

/-! ### Gangs of a gang id -/

/-- The issuing gangs of a gang id. -/
def Gid.issuing (g : Gid) : List Gang := (if g.gang.uid = 0 then [] else [g.gang]) ++ g.others

/-- Gang `uid` of a gang id, if it issues. -/
def Gid.gangOf (g : Gid) (uid : Nat) : Option Gang := if uid = 0 then none else g.issuing.find? (fun o => o.uid == uid)

/-- Gang `uid` becomes the one that issues now. -/
def Gid.front (g : Gid) (uid : Nat) : Gid :=
  if g.gang.uid = uid then g
  else match g.others.find? (fun o => o.uid == uid) with
    | none => g
    | some o => { g with gang := o, others := (if g.gang.uid = 0 then [] else [g.gang]) ++ g.others.filter (fun o => o.uid != uid) }

/-- Gang `uid` of gang id `k` is the one the meanings act on. -/
def State.front (s : State) (k uid : Nat) : State := { s.updGid k (fun g => g.front uid) with cur := k }

/-- Gang `uid` changes. -/
def Gid.updGang (g : Gid) (uid : Nat) (f : Gang → Gang) : Gid :=
  let h (o : Gang) : Gang := if o.uid = uid then f o else o
  { g with gang := h g.gang, others := g.others.map h }

/-- Gang `uid` gives its context back. -/
def Gid.dropGang (g : Gid) (uid : Nat) : Gid :=
  { g with gang := if g.gang.uid = uid then {} else g.gang, others := g.others.filter (fun o => o.uid != uid) }

/-- The gang ids of a core. -/
def State.onCore (s : State) (core : Nat) : List (Nat × Gid) := s.gids.filter (fun e => e.2.core == core)

/-- Issue contexts in use on a core (R368): issuing gangs, and stopped gangs that keep theirs. -/
def State.contexts (s : State) (core : Nat) : Nat :=
  (s.onCore core).foldl (fun n e => n + e.2.issuing.length + e.2.held.length) 0

/-- Issue contexts of a core (R368). -/
def contextMax : Nat := 32

/-- A gang stands at a clause boundary: no clause of it runs, and it does not return into one (R376). -/
def Gang.atBoundary (o : Gang) : Bool := o.uid != 0 && !o.running && o.stage != 1

/-- A gang returns into its clause at its offset (R210, R376). -/
def Gang.midClause (o : Gang) : Bool := !o.running && o.stage == 1

/-- The threads of a gang are filed at the clause header it has reached. -/
def Gid.fileGang (g : Gid) (now : Nat) (o : Gang) : Gid :=
  g.fileLanes now (fun l => if o.active.getLsbD l && decide (l < g.lanes.length) then some o.hdr else none)

/-- While a gang of the gang id waits for its handler, or the gang id is a victim, every gang that reaches a clause
boundary stops there and is filed (R373 step 1, R380 step 1). -/
def Gid.sweep (g : Gid) (now : Nat) : Gid :=
  if g.frozen && !g.inHandler then
    let g' := (g.issuing.filter Gang.atBoundary).foldl (fun g o => g.fileGang now o) g
    { g' with gang := if g.gang.atBoundary then {} else g.gang, others := g.others.filter (fun o => !o.atBoundary) }
  else g

/-- A team whose threads issue no more: it has ended, its launch has, or a divergence or a relaunch discards it. -/
def State.stopping (s : State) (team : Nat) : Bool :=
  let t := s.team team
  let l := s.launch t.launch
  t.ending.isSome || t.retiring || l.endBy.isSome || l.phase == .ending || l.phase == .complete || s.awaits (.divergenceRerun team)

/-! ### Groups (R162, R163) -/

/-- The PCs of the groups of a gang id. -/
def Gid.groups (g : Gid) : List Dword := ((g.lanes.filter (fun t => t.st == .filed)).map (·.pc)).eraseDups

/-- The home lanes of a group. -/
def Gid.members (g : Gid) (pc : Dword) : List Nat :=
  (List.range g.lanes.length).filter (fun l => (g.lane l).st == .filed && (g.lane l).pc == pc)

/-- Full: every thread that has not exited is in the group (R163 case 1). -/
def Gid.isFull (g : Gid) (pc : Dword) : Bool := g.lanes.all (fun t => t.st == .exited || (t.st == .filed && t.pc == pc))

/-- Lowest: no thread is ISSUING, and no group has a lower PC (R163 case 2). -/
def Gid.isLowest (g : Gid) (pc : Dword) : Bool :=
  g.lanes.all (fun t => t.st != .issuing) && g.groups.all (fun p => decide (pc.toNat ≤ p.toNat))

/-- When the earliest-filed thread of a group was filed (R162). -/
def Gid.filedSince (g : Gid) (pc : Dword) : Nat :=
  ((g.members pc).map (fun l => (g.lane l).filedAt)).foldl min ((g.members pc).map (fun l => (g.lane l).filedAt) |>.headD 0)

/-- When a group's age reaches BINCTL.AGE. -/
def Gid.agedAt (g : Gid) (age : Nat) (pc : Dword) : Nat := g.filedSince pc + ccNs age

/-- The group is eligible now (R163). -/
def Gid.eligible (g : Gid) (now age : Nat) (pc : Dword) : Bool :=
  g.isFull pc || g.isLowest pc || decide (g.agedAt age pc ≤ now)

/-- The moments at which the groups became eligible are kept up to date (R368): one that was eligible keeps its moment. -/
def Gid.refresh (g : Gid) (now age : Nat) : Gid :=
  { g with elig := if g.frozen then [] else g.groups.filterMap (fun p =>
      if g.eligible now age p then
        match g.elig.find? (fun e => e.1 == p) with
        | some e => some e
        | none => some (p, if g.isFull p || g.isLowest p then now else g.agedAt age p)
      else none) }

/-- The time at which the groups of a gang id that are not eligible yet reach their age; one that stands for a later time than AGE now
gives is brought forward (R164). -/
def State.awaitAges (s : State) (k age : Nat) : State :=
  let g := s.gid k
  if g.frozen then s
  else g.groups.foldl (fun (s : State) p =>
    let i : Instr := .groupAgeReached k p.toNat
    if g.eligible s.ptime age p || s.agenda.any (fun e => e.2 == .event i && decide (e.1 ≤ g.agedAt age p)) then s
    else { s with agenda := s.agenda.filter (fun e => e.2 != Due.event i) }.post (g.agedAt age p) (Due.event i)) s

/-- A gang whose flags of WAIT have cleared is a candidate from now on (R368). -/
def Gid.unblock (g : Gid) (now : Nat) : Gid :=
  let f (o : Gang) : Gang :=
    if o.blocked && !(List.range 12).any (fun k => o.wait.getLsbD k && Tab.get 0 g.flags k != 0) then { o with blocked := false, since := now }
    else o
  { g with gang := f g.gang, others := g.others.map f }

/-- Gang `uid` of a gang id is inside its clause: it runs, it returns into it, or it has stopped there; 0 is the gang whose handler
runs (R290). -/
def Gid.inClause (g : Gid) (uid : Nat) : Bool :=
  (uid == 0 && g.inHandler) || (g.issuing ++ g.held).any (fun o => o.uid == uid && (o.running || o.midClause))

/-- Groups of every gang id of a core are brought up to date: gangs at a boundary are filed where their gang id stops, and
shapes written in a clause that has ended apply (R290). -/
def State.refreshCore (s : State) (core : Nat) : State :=
  (s.onCore core).foldl (fun (s : State) e =>
    let k := e.1
    let age := (s.lc core e.2.kslot).age
    let s := s.updGid k (fun g => ((g.sweep s.ptime).unblock s.ptime).refresh s.ptime age)
    let s := s.applyShapes core (fun j u => j == k && !(s.gid k).inClause u)
    s.awaitAges k age) s

/-- GROUP_AGE_REACHED (R163 case 3): the group is eligible from now on. -/
def execGroupAgeReached (gid _pc : Nat) (s : State) : Out :=
  let g := s.gid gid
  .next ((s.updGid gid (fun g => g.refresh s.ptime (s.lc g.core g.kslot).age)).nowOnce (.clauseStart g.core))

/-- An eligible group is drawn as one gang in a free context (R163, R368): all its threads issue, those apart that were filed in the
cycle of the draw. -/
def State.draw (s : State) (k : Nat) (pc : Dword) : Nat × State :=
  let g := s.gid k
  let (uid, s) := s.fresh
  let since := match g.elig.find? (fun e => e.1 == pc) with
    | some e => e.2
    | none => s.ptime
  let ls := (g.members pc).filter (fun l => decide ((g.lane l).filedAt < s.ptime))
  let s := if g.isFull pc || g.isLowest pc then s
    else s.updLc g.core g.kslot (fun c => { c with aged := min (c.aged + 1) 0xFFFFFFFF })
  (uid, s.updGid k (fun g =>
    { g.mapLanes (fun l t => if ls.contains l then { t with st := .issuing } else t) with
      elig := g.elig.filter (fun e => e.1 != pc)
      others := (if g.gang.uid = 0 then [] else [g.gang]) ++ g.others
      gang := { uid := uid, active := maskOf ls, hdr := pc, since := since } }))

/-! ### Fetch (R205, R207 step 2) -/

/-- Why a clause does not start: a cause at its header, or it waits. -/
abbrev NoStart := Option (BitVec 8) × State

/-- Fetches of gang `uid` of gang id `k`. -/
def State.fetchReqs (s : State) (k uid : Nat) : List (Nat × Req) :=
  s.reqs.filter (fun e => e.2.fetch && e.2.gid == k && e.2.op == uid)

/-- The line of a code word is asked for (Table 2 of R76): an L1 fill, or a read past L1 on an NC page. -/
def State.askCode (s : State) (k uid : Nat) (va : Dword) (pa : Nat) (e : TlbEntry) : State :=
  let g := s.gid k
  let l := s.launch g.launch
  let pair := pairOf g.core
  let vline := va.toNat / 128
  let pline := pa / 128
  let (id, s) := s.fresh
  let r : Req :=
    { kind := if e.nc then .engine else .fill, core := g.core, op := uid, gid := k, asid := l.asid, kslot := g.kslot, vline := vline
      pline := pline, master := BitVec.ofNat 12 g.core, tenant := l.tenant, cls := if e.nc then 0x06 else 0, lane := g.elected, fetch := true }
  if e.nc then (s.putReq id r).direct id
  else (((s.dropAliases pair l.asid g.kslot vline pline).allocL1 pair l.asid g.kslot vline pline e.wt e.ireg).putReq id r).requestL2 id

/-- One code word, for gang `uid` of gang id `k`, by the path of Table 2 of R76: from L1 where it is valid there; else translated with
right X, and read as a line that goes into L1. -/
def State.fetchWord (s : State) (k uid : Nat) (va : Dword) : Except NoStart Word :=
  let g := s.gid k
  let cl := clusterOf g.core
  let l := s.launch g.launch
  let off := va.toNat % 128
  let here := match (s.pair (pairOf g.core)).line l.asid g.kslot (va.toNat / 128) with
    | some ln => if ln.valid.getLsbD (off / 4) ∧ va.toNat < 2 ^ 57 then some (ln.words.extractLsb' (8 * off) 32) else none
    | none => none
  match here with
  | some w => .ok w
  | none => match (s.fetchReqs k uid).find? (fun e => e.2.vline == va.toNat / 128) with
    | some (_, r) => match r.reply with
      | none => .error (none, s)
      | some d => match causeOf d with
        | some c => .error (some c, s)
        | none => .ok (d.bytes.extractLsb' (8 * off) 32)
    | none => match s.translate cl g.launch va 4 rightX with
      | .cause c => .error (some c, s)
      | .renew r => .error (none, s.renew g.launch r)
      | .walk => .error (none, s.soonOnce (.tlbWalk cl g.launch va rightX))
      | .ok pa e => .error (none, s.askCode k uid va pa e)

/-- The instructions of a clause from `va` on (R205): each with its prefix and its literal, and the address of its
instruction or sort word; and the address after the last. A word that cannot stand where it does is an instruction of no words: the
rest of the clause is fetched before it raises anything (R207 step 2). -/
def State.fetchSlots (s : State) (k uid : Nat) : Nat → Dword → Except NoStart (List Slot × Dword)
  | 0, va => .ok ([], va)
  | n + 1, va =>
    match s.fetchWord k uid va with
    | .error e => .error e
    | .ok w =>
      let rest (sl : Slot) (stop : Dword) : Except NoStart (List Slot × Dword) := match s.fetchSlots k uid n stop with
        | .error e => .error e
        | .ok (ss, e) => .ok (sl :: ss, e)
      let after (pre : List Word) (p : Pre) (at_ : Dword) (v : Word) : Except NoStart (List Slot × Dword) :=
        if majorOf v = 0 ∨ majorOf v = 0x3E then rest { addr := at_, words := [] } (at_ + 4)
        else if needsLit p v then
          match s.fetchWord k uid (at_ + 4) with
          | .error e => .error e
          | .ok l => rest { addr := at_, words := pre ++ [v, l] } (at_ + 8)
        else rest { addr := at_, words := pre ++ [v] } (at_ + 4)
      if majorOf w = 0x3E then
        match s.fetchWord k uid (va + 4) with
        | .error e => .error e
        | .ok v => match decodePre w with
          | .error _ => rest { addr := va + 4, words := [] } (va + 8)
          | .ok p => if majorOf v = 0x3F then rest { addr := va + 4, words := [] } (va + 8) else after [w] p (va + 4) v
      else after [] .none va w

/-! ### Expansion, decoding and checks (R207 steps 3 to 5) -/

/-- A sort word of a clause in its expansion (R215, R216); any other instruction as it is. -/
def State.expandSlot (s : State) (g : Gid) (sl : Slot) : Except (BitVec 8) Slot :=
  match sl.words with
  | w :: _ => match ofWord .none w 0 with
    | some (.sort f) => match expandEntry (s.sortEntry g f) f with
      | .ok ws => .ok { sl with words := ws }
      | .error c => .error c
    | _ => .ok sl
  | [] => .ok sl

/-- The instruction in a slot, whole (R205). -/
def Slot.instr (sl : Slot) : Option Instr := match decode sl.words with
  | .ok (i, []) => some i
  | _ => none

/-- The major opcode of a slot's instruction word. -/
def Slot.major (sl : Slot) : Nat := match sl.words with
  | w :: v :: _ => if majorOf w = 0x3E then majorOf v else majorOf w
  | [w] => majorOf w
  | [] => 0

/-- A matrix or stereo instruction (R288). -/
def Slot.isMatrix (sl : Slot) : Bool := sl.major == 0x34 || sl.major == 0x35

/-- Whether the issuing gang id may hold the instruction: matrix and stereo instructions belong to gang ids 0 and 1
(R288), a pair latch to the leader core (R299), and quantising into 32-element blocks needs 32 lanes (R278, R280). -/
def contextOk (g : Gid) (sl : Slot) (i : Instr) : Bool :=
  (!sl.isMatrix || decide (g.gid ≤ 1))
    && (match i with
      | .wlatch f => f.d != 1#7 || g.core % 2 == 0
      | .cvtq c _ => decide (7 ≤ c.toNat) || g.width != 16
      | .cvts c _ => decide (c.toNat < 4 ∨ 7 ≤ c.toNat) || g.width != 16
      | _ => true)

/-- The instructions of a clause are all legal, each in a position it may have (R201, R202, R206, R218). -/
def clauseLegal (g : Gid) : List (Slot × Option Instr) → Bool
  | [] => true
  | (sl, some i) :: rest => formOk i && contextOk g sl i && (!endsClause i || rest.isEmpty) && clauseLegal g rest
  | (_, none) :: _ => false

/-- The lowest lane for which some register field lies outside its registers (R170, R171). -/
def Gid.outOfBounds (g : Gid) (is : List Instr) : Option Nat :=
  g.actives.find? (fun l => is.any (fun i => !inBounds i g.regs (g.lane l).wbase))

/-- What the check of R293 knows so far: the latch, as VALID with its length, and the bindings in use. -/
structure MxView where
  latch : Option Nat
  bound : List Nat
  deriving DecidableEq, Repr

/-- The operands of a matrix or stereo instruction are usable (R293, R301, R304, R310), and what it leaves. -/
def mxStep (m : Mat) (v : MxView) (i : Instr) : Bool × MxView :=
  let valid (t : Nat) : Bool := (m.shape t).getLsbD 21
  let dims (t : Nat) : Bool :=
    decide (1 ≤ shRows (m.shape t) ∧ shRows (m.shape t) ≤ 128 ∧ 1 ≤ shCols (m.shape t) ∧ shCols (m.shape t) ≤ 128)
  match i with
  | .tld f => (valid f.ta, v)
  | .tst f => (valid f.ta, v)
  | .tmask f => (valid f.ta, v)
  | .accadd f => (valid f.ta, v)
  | .tquant f => (valid f.ta, v)
  | .tdeq f => (valid f.ta, v)
  | .accld f => (dims f.ta, v)
  | .accst f => (dims f.ta, v)
  | .wlatch f =>
    let sh := m.shape f.ta
    (valid f.ta, { v with latch := some (if f.tr then shCols sh else shRows sh) })
  | .mma f =>
    let sh := m.shape f.tb
    (valid f.tb && shFmt sh == f.afmt && v.latch == some (if f.tr then shRows sh else shCols sh), v)
  | .dmma f =>
    let sh := m.shape f.tb
    (valid f.tb && shFmt sh == f.afmt && v.latch == some (shCols sh) && shCols sh % 16 == 0 && v.bound.contains f.sb, v)
  | .strefresh f => (v.latch.isSome && v.bound.contains f.sb, v)
  | .stbind f => (true, { v with bound := f.sb :: v.bound })
  | .stflush f => (true, { v with bound := v.bound.filter (· != f.sb) })
  | _ => (true, v)

/-- Every matrix and stereo instruction of a clause passes the check of R293. -/
def mxOk (m : Mat) : MxView → List Instr → Bool
  | _, [] => true
  | v, i :: is =>
    let (ok, v) := mxStep m v i
    ok && mxOk m v is

/-- The matrix state a clause begins with. -/
def Mat.view (m : Mat) : MxView :=
  { latch := if laValid m.latch then some (laK m.lshape) else none
    bound := (List.range 4).filter (fun b => (Tab.get {} m.sb b).bound) }

/-- The cause a clause's words raise at the header, with its lane (R207 steps 3 to 5, ranked by Table 2 of R370) (DEDUCED, log entry 12). -/
def State.clauseCause (s : State) (g : Gid) (exps : List (Except (BitVec 8) Slot)) : Option (BitVec 8 × Nat) :=
  let slots := exps.filterMap (fun e => match e with
    | .ok sl => some sl
    | .error _ => none)
  let bad (c : BitVec 8) : Bool := exps.any (fun e => match e with
    | .ok _ => false
    | .error c' => c' == c)
  let is := slots.map (fun sl => (sl, sl.instr))
  -- an entry that is not defined still counts as an instruction: one before it is not the last
  let tail := exps.getLast?.any (fun e => match e with
    | .ok _ => true
    | .error _ => false)
  let legal := clauseLegal g is && (tail || !is.any (fun e => match e.2 with
    | some i => endsClause i
    | none => false))
  if bad 0x10 || !legal then some (0x10, 0)
  else if bad 0x11 then some (0x11, 0)
  else
    let is := slots.filterMap Slot.instr
    match g.outOfBounds is with
    | some l => some (0x09, l)
    | none =>
      let m := (s.core g.core).mat
      if slots.any Slot.isMatrix && !mxOk m m.view is then some (0x0A, 0) else none

/-! ### Starting a clause -/

/-- Reports that wait for the gang's next instruction: of its gang id (R247), and of its threads (R99). -/
def Gid.pendingReports (g : Gid) : List Stop :=
  g.reports ++ g.actives.filterMap (fun l => (g.lane l).report.map (fun c => { cause := c, lane := l }))

/-- One report is taken: of the others, those of an engine iteration are dropped and the rest wait (R371) (DEDUCED, log entry 17). -/
def Gid.takeReport (g : Gid) (st : Stop) : Gid :=
  let active := g.gang.active
  { g.mapLanes (fun l t => if active.getLsbD l && decide (t.report = some st.cause) then { t with report := none } else t) with
    reports := (g.reports.erase st).filter (fun r => r.cause != 0x06) }

/-- The gang that stands in front stops with a report, exactly before its next instruction (R370, R371). -/
def State.stopReport (s : State) (st : Stop) : State :=
  let g := s.g
  (s.onGid (fun g => g.takeReport st)).stopGang s.cur { st with ofsv := true, pc := g.gang.hdr }

/-- The front gang's clause does not start: a cause stops it at the header, where no pending report ranks higher. -/
def State.headerStop (s : State) (c : BitVec 8) (lane : Nat) : State :=
  match worst s.g.pendingReports with
  | some r => if priority r.cause < priority c then s.stopReport r
    else (s.onGid (fun g => { g with reports := g.reports.filter (fun r => r.cause != 0x06) })).raiseHeader s.cur c lane
  | none => s.raiseHeader s.cur c lane

/-- An outstanding operation of the gang id writes a w register of an active lane. -/
def State.wPending (s : State) (k : Nat) (active : BitVec 64) : Bool :=
  s.ops.any (fun e => e.2.gid == k &&
    (e.2.writes.any (fun w => match w with
      | .w l _ _ => active.getLsbD l
      | _ => false)
    || ((e.2.kind == .load || e.2.kind == .amo) && decide (112 ≤ e.2.dst.toNat ∧ e.2.dst.toNat < 116) && (e.2.lanes &&& active) != 0)))

/-- An outstanding operation of the gang id still forms the latch or a binding that the clause's check reads (R208,
R293) (DEDUCED, log entry 15). -/
def State.mxPending (s : State) (k : Nat) : Bool :=
  s.ops.any (fun e => e.2.gid == k && (e.2.tiles &&& 0x1F000#17) != 0)

/-- The clause of the front gang starts (R207): its instructions stand in its buffer, its w registers are clear, unless it
returns into the clause at its offset (R210): a clause that has become shorter than the offset then ends at once (DESIGN CHOICE, log
entry 108). Gangs never issue packed, which R158 leaves open (DESIGN CHOICE, log entry 107). -/
def State.beginClause (s : State) (h : Header) (slots : List Slot) (next : Dword) (mx : Bool) : State :=
  let g := s.g
  let uid := g.gang.uid
  let mid := g.gang.midClause
  let s := s.onGid (fun g =>
    let g := if mid then g else g.mapActive (fun _ t => { t with w := [], taint := t.taint.filter (fun e => decide (e.1 < 256)) })
    { g with gang := { g.gang with
        next := next, buf := if mid then slots.drop g.gang.off else slots, off := if mid then g.gang.off else 0
        wait := h.wait, fa := h.fa, fb := h.fb, yh := h.yh, stage := 0, pend := [], done := 0, running := true, mx := mx } })
  (s.updCore g.core (fun c => { c with slot := some (s.cur, uid) })).post s.ptime (.issue s.cur uid)

/-- The front gang is not a candidate until its flags of WAIT are clear (R208, R368). -/
def State.blockOn (s : State) (h : Header) : State :=
  s.onGid (fun g => { g with gang := { g.gang with wait := h.wait, blocked := true } })

/-- The front gang tries to start its clause (R207): whether it started or stopped, and the state. -/
def State.startWith (s : State) : Bool × State :=
  let k := s.cur
  let g := s.g
  let uid := g.gang.uid
  let hdr := g.gang.hdr
  let mid := g.gang.midClause
  if hdr.toNat % 4 ≠ 0 then (true, s.headerStop 0x10 0)
  else match s.fetchWord k uid hdr with
  | .error (some c, s) => (true, s.headerStop c 0)
  | .error (none, s) => (false, s)
  | .ok w =>
    if majorOf w ≠ 0 then (true, s.headerStop 0x10 0)
    else match decodeHeader w with
    | none => (true, s.headerStop 0x10 0)
    | some h =>
      if !mid && (List.range 12).any (fun f => h.wait.getLsbD f && Tab.get 0 g.flags f != 0) then (false, s.blockOn h)
      else match s.fetchSlots k uid h.len (hdr + 4) with
      | .error (some c, s) => (true, s.headerStop c 0)
      | .error (none, s) => (false, s)
      | .ok (slots, next) =>
        let exps := slots.map (s.expandSlot g)
        let mx := slots.any Slot.isMatrix || exps.any (fun e => match e with
          | .ok sl => sl.isMatrix
          | .error _ => false)
        let exclusive := g.others.isEmpty && g.held.isEmpty
        let s := if mx then s.onGid (fun g => { g with gang := { g.gang with mx := true } }) else s
        if mx && (!exclusive || s.mxPending k) && decide (g.gid ≤ 1) then (false, s)
        else if s.wPending k g.gang.active then (false, s)
        else match s.clauseCause g exps with
        | some (c, l) => (true, s.headerStop c l)
        | none =>
          let ok := exps.filterMap (fun e => match e with
            | .ok sl => some sl
            | .error _ => none)
          (true, s.beginClause h ok next mx)

/-- The front gang tries; what it fetched is kept until its clause has started or it has stopped. -/
def State.tryStart (s : State) : Bool × State :=
  let k := s.cur
  let uid := s.g.gang.uid
  let (done, s) := s.startWith
  (done, if done then s.dropReqs ((s.fetchReqs k uid).map (·.1)) else s)

/-! ### The choice (R368) -/

/-- A candidate: a gang that holds a context, or (uid 0) an eligible group. -/
structure Cand where
  gid : Nat
  uid : Nat
  since : Nat
  kslot : Nat
  gnum : Nat
  pc : Dword
  deriving DecidableEq, Repr

/-- The order of R368: longest waiting first; then lower kernel slot, gang id and PC. -/
def Cand.before (a b : Cand) : Bool :=
  if a.since ≠ b.since then decide (a.since < b.since)
  else if a.kslot ≠ b.kslot then decide (a.kslot < b.kslot)
  else if a.gnum ≠ b.gnum then decide (a.gnum < b.gnum)
  else decide (a.pc.toNat ≤ b.pc.toNat)

/-- A candidate in its place. -/
def Cand.insert (c : Cand) : List Cand → List Cand
  | [] => [c]
  | d :: ds => if c.before d then c :: d :: ds else d :: Cand.insert c ds

/-- The candidates of a gang id: its gangs that wait to start a clause, and while a context is free its groups that became eligible
in an earlier cycle: a draw takes up the next one (R163) (DEDUCED, log entry 16). -/
def State.candsOf (s : State) (free : Bool) (k : Nat) (g : Gid) : List Cand :=
  if s.stopping g.team then []
  else
    let gangs := (g.issuing.filter (fun o => !o.running && !o.blocked && (!g.frozen || g.inHandler || o.midClause)
      && decide (o.since ≤ s.ptime))).map (fun o =>
      (⟨k, o.uid, o.since, g.kslot, g.gid, o.hdr⟩ : Cand))
    let groups := if free && !g.issuing.any (·.mx) then (g.elig.filter (fun e => decide (e.2 < s.ptime))).map (fun e => (⟨k, 0, e.2, g.kslot, g.gid, e.1⟩ : Cand)) else []
    gangs ++ groups

/-- The candidates of a core, in order; a gang that has yielded comes after every other (R209, R368). -/
def State.candidates (s : State) (core : Nat) : List Cand :=
  let free := decide (s.contexts core < contextMax)
  let all := ((s.onCore core).flatMap (fun e => s.candsOf free e.1 e.2)).foldl (fun l c => c.insert l) []
  let shy (c : Cand) : Bool := (s.core core).yielded == some (c.gid, c.uid)
  all.filter (fun c => !shy c) ++ all.filter shy

/-- A candidate tries: a group is drawn first. -/
def State.tryCand (s : State) (c : Cand) : Bool × State :=
  if c.uid = 0 then
    let (uid, s) := s.draw c.gid c.pc
    (s.front c.gid uid).tryStart
  else (s.front c.gid c.uid).tryStart

/-- The candidates try in order until one starts or stops. After each that does not, the others are chosen anew: a draw may have made
a group ineligible or taken the last context (R163, R368). -/
def State.tryAll (core : Nat) : Nat → List (Nat × Nat) → State → Bool × State
  | 0, _, s => (false, s)
  | n + 1, tried, s =>
    match (s.candidates core).find? (fun c => !tried.contains (c.gid, c.uid)) with
    | none => (false, s)
    | some c =>
      let (done, t) := s.tryCand c
      if done then (true, t)
      else State.tryAll core n ((c.gid, if c.uid = 0 then t.g.gang.uid else c.uid) :: tried) (t.refreshCore core)

/-- When the next item of the agenda falls due; at least 1 ns from now. -/
def State.nextDue (s : State) : Nat :=
  match s.agenda with
  | [] => s.ptime + 1
  | e :: es => max (s.ptime + 1) (es.foldl (fun n e => min n e.1) e.1)

/-- When a core whose slot is idle looks again: soon after a group became eligible, and as something happens while a gang waits to
start its clause. -/
def State.lookAgain (s : State) (core : Nat) : State :=
  let gangs := (s.onCore core).any (fun e => e.2.issuing.any (fun o => !o.running))
  let groups := (s.onCore core).any (fun e => e.2.elig.any (fun x => x.2 == s.ptime))
  if s.awaits (.clauseStart core) then s
  else if groups then s.later 1 (.clauseStart core)
  else if gangs ∨ s.candidates core ≠ [] then s.post s.nextDue (.event (.clauseStart core))
  else s

/-- CLAUSE_START (R207, R368): the groups of the core are brought up to date; where its slot is idle, one candidate starts its
clause. -/
def execClauseStart (core : Nat) (s : State) : Out :=
  .next (
    let s := s.refreshCore core
    if (s.core core).slot.isSome then s
    else
      let (done, s) := State.tryAll core ((s.candidates core).length + 1) [] s
      let s := s.updCore core (fun c => { c with yielded := none })
      if done then (if (s.core core).slot.isSome then s else s.nowOnce (.clauseStart core))
      else s.lookAgain core)

end Sys2Proof.Machine
end

