-- ==== Sys2Proof/Machine/Issue.lean ====
section
/-!
DEFINITION. The issue of one instruction (08 R206, R208, R210): what it waits for, the reports that precede it (14 R371,
R375), and the end of its clause (08 R209, 13 R368).
-/

namespace Sys2Proof.Machine

/-! ### Registers an operation will write (R208) -/

/-- Keys of registers: lane × 512 + number for a lane's x registers, + 256 for its w registers, and 32768 + number for
y. -/
def xKey (lane reg : Nat) : Nat := lane * 512 + reg
def wKey (lane reg : Nat) : Nat := lane * 512 + 256 + reg
def yKey (reg : Nat) : Nat := 32768 + reg

/-- Keys of `n` registers from a field in a lane. -/
def Gid.fieldKeys (g : Gid) (l : Nat) (v : BitVec 7) (n : Nat) : List Nat :=
  let k := v.toNat
  if k < 96 then (List.range n).map (fun i => xKey l ((g.lane l).wbase + k + i))
  else if k < 112 then (List.range n).map (fun i => yKey (k - 96 + i))
  else if k < 116 then (List.range n).map (fun i => wKey l (k - 112 + i))
  else []

/-- The registers that an outstanding operation of the gang id will write. -/
def Op.targets (o : Op) (g : Gid) : List Nat :=
  o.writes.filterMap (fun w => match w with
    | .x l r _ => some (xKey l r)
    | .w l r _ => some (wKey l r)
    | .y r _ => some (yKey r)
    | .sticky _ => none)
  ++ (if o.kind == .load || o.kind == .amo then
      ((List.range g.lanes.length).filter o.lanes.getLsbD).flatMap (fun l => g.fieldKeys l o.dst o.nregs)
    else [])

/-- The registers an instruction of the issuing gang reads or writes; a descriptor in y takes all sixteen (R320). -/
def Gid.touched (g : Gid) (i : Instr) : List Nat := match formOf i with
  | none => []
  | some x => g.actives.flatMap (fun l => x.fields.flatMap (fun p =>
      if p.1 = .desc ∧ p.2 = 96 then (List.range 16).map yKey else g.fieldKeys l p.2 p.1.regs))

/-- Matrix state an instruction reads or writes on its core (tiles, accumulators, the latch, bindings), in the bits of
`Op.tiles` (R208, R289). -/
def matTouch (i : Instr) : BitVec 17 :=
  match i with
  | .tld f => tileBit f.ta
  | .tst f => tileBit f.ta
  | .tzero f => tileBit f.ta
  | .tmov f => tileBit f.ta ||| tileBit f.tb
  | .tfragRead f => tileBit f.ta
  | .tfragWrite f => tileBit f.ta
  | .wlatch f => (if f.a = 116 then tileBit f.ta else 0) ||| latchBit
  | .mma f => tileBit f.tb ||| accBit f.acc ||| latchBit
  | .tmask f => tileBit f.ta
  | .accld f => accBit f.acc
  | .accst f => accBit f.acc
  | .accscale f => accBit f.acc
  | .accrd f => accBit f.acc
  | .accadd f => tileBit f.ta ||| accBit f.acc
  | .tquant f => tileBit f.ta ||| accBit f.acc
  | .tdeq f => tileBit f.ta ||| accBit f.acc
  | .stbind f => bindBit f.sb
  | .dmma f => tileBit f.tb ||| accBit f.acc ||| bindBit f.sb ||| latchBit
  | .strefresh f => accBit f.acc ||| bindBit f.sb ||| latchBit
  | .stinval f => bindBit f.sb
  | .stflush f => bindBit f.sb
  | .stquery f => bindBit f.sb
  | _ => 0

/-- Matrix control registers that outstanding matrix operations write (R290, R299, R303) (DEDUCED, log entry 13). -/
def ctlTouch (n : Nat) : BitVec 17 :=
  if 0x10 ≤ n ∧ n ≤ 0x17 then tileBit (n - 0x10)
  else if 0x28 ≤ n ∧ n ≤ 0x2F then tileBit (n - 0x28)
  else if n = 0x20 then 0x1FFFF#17
  else if n = 0x21 ∨ n = 0x22 then latchBit
  else 0

/-- The control register a `getc` or `setc` names. -/
def ctlNumber (i : Instr) : Option Nat := match i with
  | .getc f => some f.imm.toNat
  | .setc f => some f.imm.toNat
  | _ => none

/-- The register fields that form an access's address, with their registers (R145). -/
def addressFields (i : Instr) : List (BitVec 7 × Nat) := match i with
  | .ldG f | .ldGAcq f | .stG f | .stGRel f | .ldCons f | .ldNc f | .ldY f | .pf f => [(f.a, 2)]
  | .ldS f | .stS f => [(f.a, 1)]
  | .amoAdd _ f | .amoMinS _ f | .amoMaxS _ f | .amoAnd _ f | .amoOr _ f | .amoXor _ f | .amoXchg _ f | .amoCas _ f | .amoFadd _ f
  | .amoMinN _ f | .amoMaxN _ f | .amoQualified _ _ f | .tcload f | .waitw f => [(f.a, 2)]
  | .samoAdd f | .samoMinS32 f | .samoMaxS32 f | .samoXchg f | .swinit f | .swarrive f | .swwait f => [(f.a, 1)]
  | .tld f | .tst f | .wlatch f | .accld f | .accst f => [(f.a, 2), (f.b, 1)]
  | _ => []

/-- A tainted access of a lane whose latest `ld.cons` is outstanding waits for it (R145). -/
def State.consumes (s : State) (i : Instr) : Bool :=
  let g := s.g
  g.actives.any (fun l => (addressFields i).any (fun p => g.taintOf l p.1 p.2)
    && s.ops.any (fun e => e.2.gid == s.cur && e.2.kind == .load && e.2.cons && e.2.lanes.getLsbD l))

/-- The instruction waits for an outstanding operation (R208): one of its gang id that will write a register or matrix
state it touches; on the follower core, a pair operation of the leader (R300); a control register that operations
write; and where it moves WBASE, every load that has registers to write through it. -/
def State.hazard (s : State) (i : Instr) : Bool :=
  let k := s.cur
  let g := s.g
  let mine := s.ops.filter (fun e => e.2.gid == k)
  let touch := matTouch i ||| (match ctlNumber i with
    | some n => ctlTouch n
    | none => 0)
  let partner := s.ops.filter (fun e => e.2.ftiles != 0 && (s.gid e.2.gid).core + 1 == g.core)
  mine.any (fun e =>
    let ts := e.2.targets g
    ts != [] && (g.touched i).any ts.contains)
  || mine.any (fun e => (e.2.tiles &&& touch) != 0)
  || (ctlNumber i == some 0x20 && mine.any (fun e => e.2.kind == .matrix))
  || partner.any (fun e => (e.2.ftiles &&& touch) != 0)
  || (ctlNumber i == some 1 && s.flagsOpen k)
  || s.consumes i
  || (match i with
      | .wbase _ | .eret => mine.any (fun e => (e.2.kind == .load || e.2.kind == .amo) && decide (e.2.dst.toNat < 96))
      | _ => false)

/-- What the front gang's instruction asked for is still under way (R208). -/
def State.pendOpen (s : State) (ids : List Nat) : Bool :=
  ids.any (fun id =>
    (match Tab.find s.reqs id with
      | some r => r.reply.isNone
      | none => false)
    || (Tab.find s.ops id).isSome || (Tab.find s.cmds id).isSome)

/-! ### The slot -/

/-- The slot of a core is idle again where the gang held it, and another clause may start. -/
def State.freeSlot (s : State) (core k uid : Nat) : State :=
  (s.updCore core (fun c => if c.slot = some (k, uid) then { c with slot := none } else c)).nowOnce (.clauseStart core)

/-- The gang waits inside its clause: it is tried again when something may have changed, and meanwhile its core starts
other clauses (DEDUCED, log entry 16). -/
def State.stall (s : State) (k uid : Nat) : State :=
  let t := s.nextDue
  (s.post t (.issue k uid)).freeSlot (s.gid k).core k uid

/-- The gang is out of its context: it no longer waits its turn at the galley or the engine (R96, R327). -/
def State.forgetGang (s : State) (core k uid : Nat) : State :=
  let me := (k, uid)
  let s := s.updCore core (fun c =>
    { c with galleyStalls := c.galleyStalls.filter (fun (e : Nat × Nat × Nat) => (e.1, e.2.1) != me), engineStalls := c.engineStalls.filter (· != me) })
  let s := if (s.core core).galleyStalls = [] then s else s.nowOnce (.ldGStallRetry core)
  let s := if (s.core core).engineStalls = [] then s else s.nowOnce (.engineQueueRetry core)
  s.freeSlot core k uid

/-- The gang has reached a clause boundary: with YH set another gang goes first (R209). -/
def State.boundary (s : State) (k uid : Nat) (yh : Bool) : State :=
  let core := (s.gid k).core
  let s := s.updGid k (fun g => g.updGang uid (fun o => { o with mx := false, yh := false }))
  let s := if yh then s.updCore core (fun c => { c with yielded := some (k, uid) }) else s
  s.freeSlot core k uid

/-- The clause of the front gang has ended: it falls through to the next header (R205). -/
def State.endClause (s : State) (k uid : Nat) : State :=
  let yh := (s.gid k).gang.yh
  (s.updGid k (fun g => g.continueAt s.ptime g.gang.next)).boundary k uid yh

/-- What follows an instruction of gang `uid`, in state `t`: the gang left its context, ended its clause, goes on, or
waits. `old` is the gang as it was. -/
def State.afterIssue (t : State) (k uid : Nat) (old : Gang) : State :=
  let g := t.gid k
  match g.gangOf uid with
  | none => t.forgetGang g.core k uid
  | some o =>
    if o.running = false then t.boundary k uid old.yh
    else if o.buf = [] then (if t.pendOpen o.pend then t.stall k uid else (t.front k uid).endClause k uid)
    else if o.off ≠ old.off then t.post (t.ptime + 1) (.issue k uid)
    else if o.buf ≠ old.buf then t.post t.ptime (.issue k uid)
    else t.stall k uid

/-- The cause with which gang id `k` has just stopped at its instruction, if it has. -/
def newStop (s t : State) (k : Nat) : Option Stop :=
  if (s.gid k).held.length < (t.gid k).held.length then ((t.gid k).held.getLast?).bind (·.stop) else none

/-- Pending reports of engine iterations are dropped (R371, R375). -/
def Gid.dropIterations (g : Gid) : Gid := { g with reports := g.reports.filter (fun r => r.cause != 0x06) }

/-- An instruction has had a lease record of its launch renewed (R370). -/
def renewed (s t : State) (k : Nat) : Bool :=
  let l := (s.gid k).launch
  ((s.launch l).recs.zip (t.launch l).recs).any (fun r => r.1.st != .renewing && r.2.st == .renewing)

/-- The instruction runs, unless a report that precedes it ranks at least as high as what it raises itself, a cause or a lease renewal
(R370, R371); what outranks a report of an engine iteration drops it. In a handler such reports are dropped (R375). -/
def State.reported (run : Instr → State → Out) (i : Instr) (s : State) : Out :=
  let s := if s.g.inHandler then s.onGid Gid.dropIterations else s
  match worst s.g.pendingReports with
  | none => run i s
  | some r =>
    match run i s with
    | .next t =>
      let own : Option Nat := match newStop s t s.cur with
        | some st => some (priority st.cause)
        | none => if renewed s t s.cur then some renewalPriority else none
      match own with
      | some p => if p < priority r.cause then .next (t.updGid s.cur Gid.dropIterations) else .next (s.stopReport r)
      | none => .next (s.stopReport r)
    | o => o

/-- One instruction of gang `uid` of gang id `k` (R208): `run` is what the instruction does. -/
def State.issueWith (run : Instr → State → Out) (k uid : Nat) (s : State) : Out :=
  let core := (s.gid k).core
  match (s.gid k).gangOf uid with
  | none => .next (s.forgetGang core k uid)
  | some _ =>
    let s := s.front k uid
    let g := s.g
    let o := g.gang
    if s.stopping g.team then .next ((s.onGid (fun g => g.dropGang uid)).forgetGang core k uid)
    else if o.running = false then .next s
    else if s.pendOpen o.pend then .next (s.stall k uid)
    else match o.buf with
    | [] => .next (s.endClause k uid)
    | sl :: _ =>
      match sl.instr with
      | none => .next ((s.raiseHeader k 0x10).afterIssue k uid o)
      | some i =>
        if s.hazard i then .next (s.stall k uid)
        else match s.reported run i with
          | .next t => .next (t.afterIssue k uid o)
          | r => r

end Sys2Proof.Machine
end

