-- ==== Sys2Proof/Machine/Agenda.lean ====
section
/-!
DEFINITION. The order of events (log entries 1 and 5): time passes, one item that is due is chosen, and what it does is
done. `run` is what an instruction or named step does.
-/

namespace Sys2Proof.Machine

/-! ### Which item is next -/

/-- An item with the earlier time stands first; items of one time keep the order in which they were posted. -/
def insertDue (e : Nat × Due) : List (Nat × Due) → List (Nat × Due)
  | [] => [e]
  | d :: ds => if d.1 ≤ e.1 then d :: insertDue e ds else e :: d :: ds

/-- The agenda by time. -/
def byTime (a : List (Nat × Due)) : List (Nat × Due) := a.foldl (fun l e => insertDue e l) []

/-- The time of the earliest item. -/
def earliest : List (Nat × Due) → Option Nat
  | [] => none
  | e :: es => match earliest es with
    | none => some e.1
    | some t => some (min e.1 t)

/-- What is taken in order among the items that are due: flits of one ordered pair (R26), messages that have reached one port (R102),
replies to one galley entry (R98), results of one core's special-function unit (R270), flushes at X1 (R397). -/
def State.wayOf (s : State) : Due → Option (Nat × Nat × Nat)
  | .event (.flitReceive i j _) => some (0, i, j)
  | .event (.relayForward k f) => some (1, f.src.toNat + 64 * k, f.dst.toNat)
  | .deliver r => some (2, r.dst, 0)
  | .event (.galleyReply id _) => some (3, (s.req id).op, 0)
  | .event (.longOpComplete op) => match Tab.find s.ops op with
    | some o => if o.kind = .compute then some (4, (s.gid o.gid).core, 0) else none
    | none => none
  | .event (.imprintPortWrite ..) => some (5, 0, 0)
  | _ => none

/-- Among items of one way that fall due together the lower goes first: the source port of a message (R102), the lowest lane that
names the line of a reply (R98). -/
def State.turnOf (s : State) : Due → Nat
  | .deliver r => r.src
  | .event (.galleyReply id _) => (s.req id).lane
  | _ => 0

/-- Of the items of one way that are due, the one that goes first, where `e` is one of them. -/
def State.firstOfWay (s : State) (due : List (Nat × Due)) (e : Nat × Due) : Nat × Due :=
  match s.wayOf e.2 with
  | none => e
  | some w =>
    match due.filter (fun d => s.wayOf d.2 == some w) with
    | [] => e
    | d :: ds => ds.foldl (fun a b => if b.1 = a.1 ∧ s.turnOf b.2 < s.turnOf a.2 then b else a) d

/-- The item that goes first where `e` is picked: before a message a port takes the flits that have arrived there, so that messages of
one cycle are known together (R102). -/
def State.inTurn (s : State) (due : List (Nat × Due)) (e : Nat × Due) : Nat × Due :=
  let flit := match e.2 with
    | .deliver r => due.find? (fun (d : Nat × Due) => match d.2 with
      | .event (.flitReceive _ j _) => j == r.dst
      | _ => false)
    | _ => none
  s.firstOfWay due (flit.getD e)

/-- Time passes: to the time of the earliest item where none is due yet. -/
def State.pass (s : State) : State :=
  let (dt, s) := match s.ticks with
    | [] => (0, s)
    | t :: ts => (t, { s with ticks := ts })
  let now := s.ptime + dt
  { s with ptime := match earliest s.agenda with
    | none => now
    | some t => max now t }

/-- The item that is next, taken from the agenda. -/
def State.takeItem (s : State) : Option (Nat × Due) × State :=
  let due := byTime (s.agenda.filter (fun e => decide (e.1 ≤ s.ptime)))
  if due = [] then (none, s)
  else
    let (k, s) := s.pick due.length
    match due[k]? with
    | none => (none, s)
    | some e =>
      let e := s.inTurn due e
      (some e, { s with agenda := s.agenda.erase e })

/-! ### What an item does -/

/-- The row of a message class (Table 4 of R108). -/
def rowOfClass (c : BitVec 8) : Option Instr :=
  match c.toNat with
  | 0x01 => some .gets | 0x02 => some .getx | 0x03 => some .upg | 0x04 => some .putx | 0x05 => some .pute
  | 0x06 => some .ncrd | 0x07 => some .ncwr | 0x08 => some .pwr | 0x09 => some .zwr | 0x0A => some .amo
  | 0x0B => some .acqrd | 0x0C => some .relrec | 0x0D => some .pwb | 0x20 => some .fwds | 0x21 => some .fwdx
  | 0x22 => some .inv | 0x23 => some .recallLine | 0x24 => some .promote | 0x40 => some .data | 0x41 => some .gntx
  | 0x42 => some .cmpl | 0x43 => some .wback | 0x44 => some .amor | 0x45 => some .deny | 0x46 => some .iack
  | 0x47 => some .fdata | 0x48 => some .promack | 0x60 => some .vbump | 0x61 => some .vnew | 0x62 => some .vack
  | 0x63 => some .vdone
  | _ => none

/-- Ports of the package (R4): 16 compute, 16 memory, X0, X1 and two link chiplets. -/
def portCount : Nat := 36

/-- An item that names a part the package has (DESIGN CHOICE, log entry 88). -/
def Due.known : Due → Bool
  | .deliver r => decide (r.src < portCount) && decide (r.dst < portCount)
  | .event (.flitReceive i j _) => decide (i < portCount) && decide (j < portCount)
  | .event (.clauseStart c) => decide (c < 1024)
  | .event (.peerIngressRequest l _ _) => decide (l < 12)
  | .event (.linkFrameReceive l _) => decide (l < 12)
  | _ => true

/-- What an item of the agenda does. -/
def State.act (run : Instr → State → Out) (mailbox : State → Option Instr × State) (d : Due) (s : State) : Out :=
  if !s.powered && !d.unpowered then .next s
  else if d.known then
    match d with
    | .event i => run i s
    | .deliver r => match rowOfClass r.m.cls with
      | some i => run i { s with rx := r }
      | none => .next s
    | .issue k uid => s.issueWith run k uid
    | .mailbox => match mailbox s with
      | (some i, s) => run i s
      | (none, s) => .next s
  else .fault .noSuchAgent

/-- One step: time passes, and the next item does what it does; with nothing to do, nothing but time changes (DESIGN CHOICE, log entry 1). -/
def State.advance (run : Instr → State → Out) (mailbox : State → Option Instr × State) (s : State) : Out :=
  let s := s.pass
  match s.takeItem with
  | (none, s) => .next s
  | (some e, s) => s.act run mailbox e.2

end Sys2Proof.Machine
end

