-- ==== Sys2Proof/Machine/Mmp.lean ====
section
/-!
DEFINITION. What the MMP does to memory and tables: coherent writes, frames (02 R49), page tables (02 R47, R50, R51), and
access tables (02 R60, R68, R74).
-/

namespace Sys2Proof.Machine

/-- `n` frames from `f` are zeroed (R49): their bytes, the copies of their lines, and their poison marks. -/
def State.zeroFrames (s : State) (f n : Nat) : State :=
  let mine (pa : Nat) : Bool := decide (65536 * f ≤ pa ∧ pa < 65536 * (f + n))
  let cells : List Host.Cell := (s.mem ++ s.wr).filter (fun (c : Host.Cell) => mine c.1)
  let zeros : List Host.Cell := cells.map (fun c => (c.1, 0))
  let copies := s.l2.filter (fun (e : Nat × L2Line) => mine (128 * (e.1 % 2 ^ 41)) && e.2.st.holds)
  let s := { s with wr := zeros ++ s.wr, poison := s.poison.filter (fun (e : Nat × Bool) => !mine (128 * e.1)) }
  copies.foldl (fun (s : State) e =>
    s.updL2 (e.1 / 2 ^ 41) (e.1 % 2 ^ 41) (fun x => { x with data := 0, poison := false })) s

/-! ### Frames (R49). Key: the first frame of a block; value: tenant + 4096 while held + 8192 × its frames. -/

/-- A block of frames: first, number, tenant, and whether it is held. -/
def blockOf (e : Nat × Nat) : Nat × Nat × Nat × Bool := (e.1, e.2 / 8192, e.2 % 4096, e.2 / 4096 % 2 == 1)

/-- The blocks the MMP has given out, in order. -/
def State.blocks (s : State) : List (Nat × Nat × Nat × Bool) := s.frames.map blockOf

/-- The first frame of the MMP's tables (DESIGN CHOICE, log entry 7). -/
def State.poolBase (s : State) : Nat := field s.asidTab 47 18 * 4

/-- The next multiple. -/
def alignUp (a n : Nat) : Nat := (a + n - 1) / n * n

/-- The first place for `n` aligned frames at or after `p` outside the held blocks, which rise. -/
def fitFrom (n : Nat) : List (Nat × Nat × Nat × Bool) → Nat → Nat
  | [], p => p
  | b :: bs, p =>
    if b.2.2.2 = false ∨ b.1 + b.2.1 ≤ p then fitFrom n bs p
    else if p + n ≤ b.1 then p
    else fitFrom n bs (alignUp (b.1 + b.2.1) n)

/-- A place for `n` aligned frames outside held blocks and the MMP's tables. -/
def State.fit (s : State) (n p : Nat) : Nat :=
  let a := fitFrom n s.blocks (alignUp p n)
  if a < s.poolBase + tablePool ∧ s.poolBase < a + n then fitFrom n s.blocks (alignUp (s.poolBase + tablePool) n) else a

/-- The MMP gives `n` aligned frames of its choice to a tenant, zeroed unless that tenant held them last (R49) (DEDUCED, log entry 55).
Frames once given stay held: an unmap does not give them back (DESIGN CHOICE, log entry 109). -/
def State.allocFrames (s : State) (n : Nat) (tenant : BitVec 12) : Option (Nat × State) :=
  let cap := s.capacity / 65536
  let (p, s) := s.pick (max 1 (cap / n))
  let a := s.fit n (p * n)
  let a := if a + n ≤ cap then a else s.fit n 0
  if cap < a + n then none
  else
    let hit := s.blocks.filter (fun b => decide (b.1 < a + n ∧ a < b.1 + b.2.1))
    let same := hit.any (fun b => decide (b.1 ≤ a ∧ a + n ≤ b.1 + b.2.1 ∧ b.2.2.1 = tenant.toNat))
    let s := if same then s else s.zeroFrames a n
    let fr := s.frames.filter (fun e => !(hit.map (·.1)).contains e.1)
    some (a, { s with frames := Tab.ins fr a (tenant.toNat + 4096 + 8192 * n) })

/-- Every frame of a range is held by a tenant. -/
def holdsFrom (tenant stop : Nat) : List (Nat × Nat × Nat × Bool) → Nat → Bool
  | [], p => decide (stop ≤ p)
  | b :: bs, p =>
    if stop ≤ p then true
    else if b.2.2.2 = true ∧ b.2.2.1 = tenant ∧ b.1 ≤ p ∧ p < b.1 + b.2.1 then holdsFrom tenant stop bs (b.1 + b.2.1)
    else holdsFrom tenant stop bs p

/-- Frames of the pool: the first of the lease tables, behind the ASID table (4 frames) and the access-table images (8 frames for each
of 19 targets); and the first of the page-table nodes, behind as many lease tables as the queues hold entries. -/
def leaseBase : Nat := 4 + 8 * 19
def nodeBase : Nat := leaseBase + 4096

/-- A frame of the MMP's own tables for a new node, zeroed: the lowest not used yet. The frames of tables in use are
blocks of tenant 0. -/
def State.allocNode (s : State) : Option (Nat × State) :=
  let base := s.poolBase
  let f := fitFrom 1 s.blocks (base + nodeBase)
  if base + tablePool ≤ f ∨ s.capacity < 65536 * (f + 1) then none
  else some (65536 * f, { s.zeroFrames f 1 with frames := Tab.ins s.frames f (4096 + 8192) })

/-- The MMP copies the records of a launch into a lease table (R53), 1 KiB in a frame of tenant 0 (R49): the lowest place free
(DESIGN CHOICE, log entry 7). -/
def State.copyLeases (s : State) (launch : Nat) : Option State :=
  let base := 65536 * (s.poolBase + leaseBase)
  let place (i : Nat) : Nat := base + 1024 * i
  match (List.range (s.launches.length + 1)).find? (fun i => s.launches.all (fun e => e.2.leaseTab != place i)) with
  | none => none
  | some i =>
    let f := s.poolBase + leaseBase + i / 64
    if 64 * 4096 ≤ i ∨ s.capacity < 65536 * (f + 1) then none
    else
      let s := if (Tab.find s.frames f).isSome then s else { s.zeroFrames f 1 with frames := Tab.ins s.frames f (4096 + 8192) }
      some ((s.updLaunch launch (fun l => { l with leaseTab := place i })).writeLeases launch)

/-! ### Page tables (R47, R50, R51) -/

/-- A leaf entry (Table 6 of R51). -/
def leafEntry (pa : Nat) (rights : BitVec 4) (wt nc : Bool) (ireg : BitVec 12) : Dword :=
  let bit (k : Nat) : Nat := (rights.getLsbD k).toNat
  BitVec.ofNat 64 (ireg.toNat * 2 ^ 48 + pa / 2 ^ 16 % 2 ^ 32 * 2 ^ 16 + nc.toNat * 128 + wt.toNat * 64 + bit 3 * 32 + bit 2 * 16
    + bit 1 * 8 + bit 0 * 4 + 3)

/-- A non-leaf entry (Table 5 of R51). -/
def nodeEntry (pa : Nat) : Dword := BitVec.ofNat 64 (pa / 256 % 2 ^ 40 * 256 + 1)

/-- The address of the entry for `va` in a node of a level. -/
def entryAt (lvl node va : Nat) : Nat := node + 8 * (va / 2 ^ (levelBits lvl).2 % 2 ^ (levelBits lvl).1)

/-- A leaf is written at a level for `va`, below the node of level `lvl`; missing nodes are made. -/
def State.putLeaf (s : State) (va stop : Nat) (leaf : Dword) : Nat → Nat → Nat → Option State
  | 0, _, _ => none
  | fuel + 1, lvl, node =>
    let a := entryAt lvl node va
    if lvl = stop then some (s.poke64 a leaf)
    else
      let e := s.peek64 a
      if e.getLsbD 0 = true then s.putLeaf va stop leaf fuel (lvl + 1) (field e 47 8 * 256)
      else match s.allocNode with
        | none => none
        | some (n, s) => (s.poke64 a (nodeEntry n)).putLeaf va stop leaf fuel (lvl + 1) n

/-- The root node of an ASID; made where there is none. -/
def State.rootOf (s : State) (asid : Nat) : Option (Nat × State) :=
  let a := s.asidEntry asid + 8
  let w := s.peek64 a
  if field w 47 15 ≠ 0 then some (field w 47 15 * 2 ^ 15, s)
  else match s.allocNode with
    | none => none
    | some (n, s) => some (n, s.poke64 a (BitVec.ofNat 64 n))

/-- The leaves of a node that lie in [lo, hi): the address of each entry, the entry, its level and its first address. -/
def State.leavesOf (s : State) (lo hi : Nat) : Nat → Nat → Nat → Nat → List (Nat × Dword × Nat × Nat)
  | 0, _, _, _ => []
  | fuel + 1, lvl, node, base =>
    let (n, low) := levelBits lvl
    let size := 2 ^ low
    let first := (max lo base - base) / size
    let count := min (2 ^ n) ((min hi (base + 2 ^ n * size) - base + size - 1) / size) - first
    (List.range count).flatMap (fun k =>
      let i := first + k
      let a := node + 8 * i
      let e := s.peek64 a
      if e.getLsbD 0 = false then []
      else if e.getLsbD 1 then [(a, e, lvl, base + i * size)]
      else s.leavesOf lo hi fuel (lvl + 1) (field e 47 8 * 256) (base + i * size))

/-- The leaves of an ASID that map some address of a range. -/
def State.leavesIn (s : State) (asid lo hi : Nat) : List (Nat × Dword × Nat × Nat) :=
  let w := s.peek64 (s.asidEntry asid + 8)
  if (s.peek64 (s.asidEntry asid)).getLsbD 0 = false ∨ field w 47 15 = 0 ∨ hi ≤ lo then []
  else s.leavesOf lo hi 5 0 (field w 47 15 * 2 ^ 15) 0

/-- The page of a leaf. -/
def pageOfLeaf (x : Nat × Dword × Nat × Nat) : Page :=
  let e := x.2.1
  { va := x.2.2.2, size := 2 ^ (levelBits x.2.2.1).2, pa := field e 47 16 * 2 ^ 16, rights := leafRights e, wt := e.getLsbD 6
    nc := e.getLsbD 7, ireg := e.extractLsb' 48 12 }

/-- The pages that map a range, where they cover all of it. -/
def State.pagesOf (s : State) (asid lo hi : Nat) : Option (List Page) :=
  let ps := (s.leavesIn asid lo hi).map pageOfLeaf
  let stop := ps.foldl (fun a p => if p.va ≤ a ∧ a < p.va + p.size then p.va + p.size else a) lo
  if hi ≤ stop then some ps else none

/-! ### Access tables (R68, R74) -/

def entryLo (e : BitVec 128) : Nat := (e.extractLsb' 32 32).toNat
def entryHi (e : BitVec 128) : Nat := (e.extractLsb' 96 32).toNat
def entryTenant (e : BitVec 128) : BitVec 12 := e.extractLsb' 8 12

/-- An entry over other blocks. -/
def withBlocks (e : BitVec 128) (lo hi : Nat) : BitVec 128 :=
  BitVec.ofNat 128 (hi % 2 ^ 32 * 2 ^ 96 + lo % 2 ^ 32 * 2 ^ 32 + e.toNat % 2 ^ 32)

/-- Two entries agree in every field but their blocks, which overlap or are adjacent (R74). -/
def mergeable (a b : BitVec 128) : Bool :=
  a.getLsbD 0 && b.getLsbD 0 && a.extractLsb' 0 32 == b.extractLsb' 0 32
    && decide (entryLo a ≤ entryHi b + 1 ∧ entryLo b ≤ entryHi a + 1)

/-- An entry joins a list, merged with the first it can be merged with. -/
def joinEntry (e : BitVec 128) : List (BitVec 128) → List (BitVec 128)
  | [] => [e]
  | f :: fs => if mergeable e f then withBlocks f (min (entryLo e) (entryLo f)) (max (entryHi e) (entryHi f)) :: fs
    else f :: joinEntry e fs

/-- Entries merged as far as one pass from each end allows. -/
def mergeEntries (es : List (BitVec 128)) : List (BitVec 128) :=
  let once (l : List (BitVec 128)) : List (BitVec 128) := l.foldl (fun acc e => joinEntry e acc) []
  (List.range 8).foldl (fun l _ => once l) es

/-- The valid entries of a master at a target. -/
def State.entriesOf (s : State) (port master : Nat) : List (BitVec 128) :=
  ((List.range 8).map (s.accEntry port master)).filter (fun e => e.getLsbD 0)

/-- The entries of a master at a target become these, in order. -/
def State.putEntries (s : State) (port master : Nat) (es : List (BitVec 128)) : State :=
  (List.range 8).foldl (fun (s : State) e => s.setAcc port master e (es.getD e 0)) s

/-- An entry is added (R74): in a free place, or after a merge; none where it does not fit. -/
def State.addEntry (s : State) (port master : Nat) (e : BitVec 128) : Option State :=
  let es := s.entriesOf port master
  if es.any (fun f => f.extractLsb' 0 32 == e.extractLsb' 0 32 && decide (entryLo f ≤ entryLo e ∧ entryHi e ≤ entryHi f)) then some s
  else if es.length < 8 then some (s.putEntries port master (es ++ [e]))
  else
    let es := mergeEntries (es ++ [e])
    if es.length ≤ 8 then some (s.putEntries port master es) else none

/-- Several entries are added for each of several masters and targets. -/
def State.addAll (s : State) (ps : List (Nat × Nat × BitVec 128)) : Option State :=
  ps.foldl (fun (o : Option State) p => match o with
    | none => none
    | some s => s.addEntry p.1 p.2.1 p.2.2) (some s)

/-- An entry without the blocks of a range: none, one or two entries. -/
def cutEntry (lo hi : Nat) (e : BitVec 128) : List (BitVec 128) :=
  if entryHi e < lo ∨ hi < entryLo e then [e]
  else (if entryLo e < lo then [withBlocks e (entryLo e) (lo - 1)] else [])
    ++ (if hi < entryHi e then [withBlocks e (hi + 1) (entryHi e)] else [])

/-- The masters of a target with entries that meet a range. -/
def State.mastersOn (s : State) (port : Nat) (lo hi : Nat) : List Nat :=
  ((s.acc.filter (fun e => e.1 / 2 ^ 15 == port && e.2.getLsbD 0
    && decide (entryLo e.2 ≤ hi ∧ lo ≤ entryHi e.2))).map (fun e => e.1 % 2 ^ 15 / 8)).eraseDups

/-- Blocks of a range that none of some others cover. -/
def subtract (f : Nat × Nat) (gs : List (Nat × Nat)) : List (Nat × Nat) :=
  gs.foldl (fun ps g => ps.flatMap (fun p =>
    if p.2 < g.1 ∨ g.2 < p.1 then [p]
    else (if p.1 < g.1 then [(p.1, g.1 - 1)] else []) ++ (if g.2 < p.2 then [(g.2 + 1, p.2)] else []))) [f]

/-- Two entries agree in every field but their blocks. -/
def alike (a b : BitVec 128) : Bool := a.extractLsb' 0 32 == b.extractLsb' 0 32

/-- An entry without the blocks of a range, but for those that an entry still in use like it needs (R74). -/
def cutUnused (lo hi : Nat) (keep : List (BitVec 128)) (e : BitVec 128) : List (BitVec 128) :=
  (subtract (lo, hi) ((keep.filter (alike e)).map (fun f => (entryLo f, entryHi f)))).foldl (fun es b => es.flatMap (cutEntry b.1 b.2)) [e]

/-- Entries that launches under other ASIDs still use, for a master. -/
def State.usedElsewhere (s : State) (asid master : Nat) : List (BitVec 128) :=
  (s.launches.filter (fun e => e.2.asid != asid && e.2.phase != .complete)).flatMap (fun e =>
    if master = 2192 then e.2.doneEnt.toList else if e.2.masters.contains master then e.2.ents else [])

/-- Blocks leave a target's table (R60 step 6), but for what launches under other ASIDs still use (R74); none where a master
would need more than 8 entries (DEDUCED, log entry 58). -/
def State.cutBlocks (s : State) (asid port : Nat) (lo hi : Nat) : Option State :=
  (s.mastersOn port lo hi).foldl (fun (o : Option State) m => match o with
    | none => none
    | some s =>
      let es := (s.entriesOf port m).flatMap (cutUnused lo hi (s.usedElsewhere asid m))
      let es := if es.length ≤ 8 then es else mergeEntries es
      if es.length ≤ 8 then some (s.putEntries port m es) else none) (some s)

/-- The targets that serve a range of physical addresses: every home for device memory, X0 for host memory, the link
chiplets for peer windows (R45, R67). -/
def targetsOf (pa : Nat) : List Nat := match spaceOf pa with
  | .device => (List.range 16).map (· + 16)
  | .host => [x0]
  | .peer => [34, 35]
  | _ => []

/-- Ranges of frames leave the tables of every target that serves them. -/
def State.cutFrames (s : State) (asid : Nat) (fs : List (Nat × Nat)) : Option State :=
  fs.foldl (fun (o : Option State) f => (targetsOf (65536 * f.1)).foldl (fun (o : Option State) p => match o with
    | none => none
    | some s => s.cutBlocks asid p f.1 f.2) o) (some s)

/-- The rights an access-table entry for a page gives a launch (R74): no wider than the page's. -/
def pageEntry (tenant : BitVec 12) (p : Page) : BitVec 128 :=
  mkEntry (p.pa / 65536) ((p.pa + p.size) / 65536 - 1) tenant (if p.wt then 1 else 0) p.ireg
    (p.rights.getLsbD 0) (p.rights.getLsbD 1) (p.rights.getLsbD 3) (p.wt && p.rights.getLsbD 1) false

/-- A pair is usable (R448). -/
def State.usable (s : State) (pair : Nat) : Bool := (s.reg x1 (0x74040 + 8 * (pair / 64))).getLsbD (pair % 64)

/-- Core and engine identifiers of the usable pairs of an order (R69, R74). -/
def State.mastersOf (s : State) (order : List Nat) : List Nat :=
  (order.filter s.usable).flatMap (fun p => [2 * p, 2 * p + 1, 2 * p + 1024, 2 * p + 1025])

/-- The entries a launch needs for its pages (R74): those of adjacent frames joined (DESIGN CHOICE, log entry 56). -/
def Launch.entriesFor (l : Launch) (ps : List Page) : List (BitVec 128) := mergeEntries ((ps.eraseDups).map (pageEntry l.tenant))

/-- Each of some entries at each target that serves it and for each of some masters. -/
def spread (ms : List Nat) (es : List (BitVec 128)) : List (Nat × Nat × BitVec 128) :=
  es.flatMap (fun e => (targetsOf (65536 * entryLo e)).flatMap (fun port => ms.map (fun m => (port, m, e))))

end Sys2Proof.Machine
end

