-- ==== Sys2Proof/Machine/Launches.lean ====
section
/-!
DEFINITION. What the dispatcher and X1 read and write in memory, and the completion of a launch (13 R356, R410; 02 R74).
-/

namespace Sys2Proof.Machine

/-! ### Reads of the dispatcher and of X1 -/

/-- How a read ends: its bytes; a denial, a fault or poison; or it is still on its way. -/
inductive ReadEnd where
  | ok (bs : List Byte)
  | bad
  | wait
  deriving DecidableEq, Repr

/-- A read within one line by a master at a port, by NCRD (R35): its target checks it, and a home takes the line from the cache that
owns it. `owner` names the work it is for. -/
def State.masterLine (s : State) (owner port master : Nat) (tenant : BitVec 12) (pa n : Nat) : ReadEnd × State :=
  let ln := pa / 128
  if spaceOf pa = .device ∧ s.capacity ≤ pa then (.bad, s)
  else match s.io.find? (fun e => e.2.kind == .read owner ln) with
    | some (_, op) =>
      if op.left ≠ 0 then (.wait, s)
      else match op.m with
        | some m => (if m.poison then .bad else .ok ((List.range n).map (fun i => lineByte m.data (pa % 128 + i))), s)
        | none => (.bad, s)
    | none =>
      let (id, s) := s.fresh
      let op : IoOp := { kind := .read owner ln, left := 1, issued := s.ptime }
      let s := { s with io := Tab.ins s.io id op }
      (.wait, s.sendTx port (s.targetOf pa) 0x06 ln id 0 { cls := 0, master := BitVec.ofNat 12 master, tenant := tenant })

/-- Reads of several pieces, in order. -/
def State.masterReads (owner port master : Nat) (tenant : BitVec 12) : List (Nat × Nat) → State → ReadEnd × State
  | [], s => (.ok [], s)
  | p :: ps, s => match s.masterLine owner port master tenant p.1 p.2 with
    | (.ok b, s) => match State.masterReads owner port master tenant ps s with
      | (.ok bs, s) => (.ok (b ++ bs), s)
      | r => r
    | r => r

/-- The pieces of a physical range, line by line. -/
def piecesOf (pa n : Nat) : List (Nat × Nat) := (lineStarts (pa : Nat) n).map (fun p => (p.1.toNat, p.2))

/-- Bytes the dispatcher reads for a queue or launch (R350). -/
def State.dispatcherRead (s : State) (owner : Nat) (tenant : BitVec 12) (pa n : Nat) : ReadEnd × State :=
  State.masterReads owner x0 dispatcherId.toNat tenant (piecesOf pa n) s

/-- The physical address of a virtual one under an ASID, by a page with right R where the reader needs it; a denial of the walk is
recorded (DESIGN CHOICE, log entries 57 and 103). -/
def State.readable (s : State) (asid : Nat) (needR : Bool) (va : Nat) : Option Nat × State :=
  if 2 ^ 57 ≤ va then (none, s)
  else match s.walk 0 asid va with
    | .page p => (if p.rights.getLsbD 0 = true ∨ needR = false then some (p.pa + (va - p.va)) else none, s)
    | e => (none, s.walkDenied e 0)

/-- The physical pieces of a range read through an ASID; nothing where one cannot be read. -/
def State.readables (asid : Nat) (needR : Bool) : List (Nat × Nat) → State → Option (List (Nat × Nat)) × State
  | [], s => (some [], s)
  | p :: ps, s => match s.readable asid needR p.1 with
    | (none, s) => (none, s)
    | (some a, s) => match State.readables asid needR ps s with
      | (none, s) => (none, s)
      | (some qs, s) => (some ((a, p.2) :: qs), s)

/-- Bytes read through an ASID. -/
def State.virtualRead (s : State) (owner port master asid : Nat) (tenant : BitVec 12) (needR : Bool) (va n : Nat) :
    ReadEnd × State :=
  match State.readables asid needR (piecesOf va n) s with
  | (none, s) => (.bad, s)
  | (some ps, s) => State.masterReads owner port master tenant ps s

/-- Work is over: what was read for it is dropped. -/
def State.dropReads (s : State) (owner : Nat) : State :=
  { s with io := s.io.filter (fun e => match e.2.kind with
      | .read o _ => o != owner
      | _ => true) }

/-! ### Access-table entries of launches (R74, R410) -/

/-- The blocks of `e` leave a master's entries that are like it, those that `keep` still needs apart (DEDUCED, log entry 62). -/
def State.dropEntry (s : State) (port master : Nat) (e : BitVec 128) (keep : List (BitVec 128)) : State :=
  let pieces := keep.foldl (fun ps f => if alike f e then ps.flatMap (cutEntry (entryLo f) (entryHi f)) else ps) [e]
  let es := pieces.foldl (fun es p => es.flatMap (fun x => if alike x e then cutEntry (entryLo p) (entryHi p) x else [x]))
    (s.entriesOf port master)
  if es.length ≤ 8 then s.putEntries port master es else s

/-- Entries that other launches need for a master. -/
def State.neededBy (s : State) (k master : Nat) : List (BitVec 128) :=
  (s.launches.filter (fun e => e.1 != k && e.2.phase != .complete)).flatMap (fun e =>
    if master = dispatcherId.toNat then e.2.doneEnt.toList
    else if e.2.masters.contains master then e.2.ents else [])

/-- The entries a launch added leave the tables (R74). -/
def State.dropEntries (s : State) (k : Nat) : State :=
  let l := s.launch k
  l.ents.foldl (fun (s : State) e => (targetsOf (65536 * entryLo e)).foldl (fun (s : State) p =>
    l.masters.foldl (fun (s : State) m => s.dropEntry p m e (s.neededBy k m)) s) s) s

/-- The dispatcher's entry for the completion word is no longer needed (R350). -/
def State.dropDone (s : State) (k : Nat) : State :=
  match (s.launch k).doneEnt with
  | none => s
  | some e => (targetsOf (65536 * entryLo e)).foldl (fun (s : State) p =>
      s.dropEntry p dispatcherId.toNat e (s.neededBy k dispatcherId.toNat)) s

/-! ### Completion (R356) -/

/-- HEAD moves past every leading entry that has completed. -/
def State.advanceHead (s : State) (q : Nat) : Nat → State
  | 0 => s
  | fuel + 1 =>
    let h := s.lqhead q
    if s.completed.contains (tagOf q h) then
      let v := setField (s.reg x0 (0x10010 + 32 * q)) 31 0 ((h + 1) % 2 ^ 32)
      ({ s with completed := s.completed.erase (tagOf q h) }.setReg x0 (0x10010 + 32 * q) v).advanceHead q fuel
    else s

/-- The status of a tag is known: waiters of `lwait` go on, HEAD advances, and dependent entries may become ready. -/
def State.finishTag (s : State) (tag : Nat) (status : BitVec 32) : State :=
  let s := { s with results := Tab.ins s.results tag status, completed := s.completed ++ [tag] }
  let s := (s.advanceHead (tag / 2 ^ 32) (s.completed.length)).lwaitDone (BitVec.ofNat 64 tag) status
  s.soonOnce .dispatchChoose

/-- The completion word of a launch has been written, or there is none (R356). -/
def State.launchOver (s : State) (k : Nat) : State :=
  match Tab.find s.launches k with
  | none => s
  | some l =>
    let s := s.dropDone k
    ({ s with launches := Tab.del s.launches k }).finishTag l.tag l.status

/-- Bytes of a 64-bit word, lowest first. -/
def bytesOf64 (v : Dword) : List Byte := (List.range 8).map (fun i => v.extractLsb' (8 * i) 8)

/-- A launch completes (R356): its records end, its entries leave the tables, W is restored on what was measured for it
(R410), and the completion word is written. -/
def State.completeLaunch (s : State) (k : Nat) (status : BitVec 32) : State :=
  match Tab.find s.launches k with
  | none => s
  | some l =>
    if l.phase = .complete then s
    else
      let s := s.dropEntries k
      let s := s.updLaunch k (fun l => { l with
        phase := .complete, status := status, recs := l.recs.map (fun r => { r with st := .ended }), ents := [], measured := []
        reserved := [], incoming := [], again := [] })
      let s := { s.writeLeases k with walks := s.walks.filter (fun e => e.2.launch != k) }
      let s := { s with tlbs := s.tlbs.map (fun (e : Nat × List TlbEntry) => (e.1, e.2.filter (fun t => t.launch != k))) }
      match l.donePa with
      | none => s.launchOver k
      | some pa =>
        (s.ioWrite x0 { kind := .done k } dispatcherId l.tenant pa (bytesOf64 ((1#64 <<< 63) ||| status.zeroExtend 64))).2

end Sys2Proof.Machine
end

