-- ==== Sys2Proof/Machine/Leases.lean ====
section
/-!
DEFINITION. Leases: grant, lapse and renewal (02 R53 to R59), and unmapping (02 R60); the write of an access-table entry
(R68). The mailbox commands that the MMP serves stand in Mailbox.lean.
-/

namespace Sys2Proof.Machine

/-- The lease period in ns (R53). -/
def Launch.period (l : Launch) : Nat := if l.lper = 0 then 2000000 else l.lper * 100000

/-- A record meets a range of addresses. -/
def LeaseRec.meets (r : LeaseRec) (va len : Nat) : Bool := decide (r.vbase < va + len ∧ va < r.vbase + r.len)

/-- An unmap of an ASID that meets a record is under way (DEDUCED, log entry 59). -/
def State.unmapping (s : State) (asid : Nat) (r : LeaseRec) : Option Unmap :=
  (s.unmaps.find? (fun e => e.2.asid == asid && r.meets e.2.va e.2.len)).map (·.2)

/-- The pages of every record, where each is mapped with the record's rights; nothing otherwise (Table 8 of R55). -/
def State.pagesFor (s : State) (asid : Nat) (rs : List LeaseRec) : Option (List Page) :=
  rs.foldl (fun (o : Option (List Page)) r => match o, s.pagesOf asid r.vbase (r.vbase + r.len) with
    | some ps, some qs => if (s.unmapping asid r).isNone && qs.all (fun p => p.rights &&& r.rights == r.rights) then some (ps ++ qs) else none
    | _, _ => none) (some [])

/-- A launch is metered for the regions of the weight pages that its records cover (R396). -/
def State.meteredRegions (s : State) (l : Launch) : List (BitVec 12) :=
  (l.recs.flatMap (fun r => ((s.leavesIn l.asid r.vbase (r.vbase + r.len)).map pageOfLeaf).filterMap (fun p =>
    if p.wt then some p.ireg else none))).eraseDups

/-- The dispatcher is given R on some pages, where its entries have room (DESIGN CHOICE, log entry 57). -/
def State.admitPages (s : State) (tenant : BitVec 12) (ps : List Page) : State :=
  ps.foldl (fun (s : State) p =>
    if p.rights.getLsbD 0 then
      let e := mkEntry (p.pa / 65536) ((p.pa + p.size) / 65536 - 1) tenant (if p.wt then 1 else 0) p.ireg true false false false false
      (s.addAll ((targetsOf p.pa).map (fun port => (port, dispatcherId.toNat, e)))).getD s
    else s) s

/-- The pages of a launch's typecase image, which the dispatcher reads (R360). -/
def State.admitImage (s : State) (l : Launch) : State :=
  let va := l.forme.tcimg.toNat
  if va = 0 ∨ 2 ^ 57 ≤ va then s else s.admitPages l.tenant ((s.leavesIn l.asid va (va + 4096)).map pageOfLeaf)

/-- LEASE_GRANT (R55, R74): with every page mapped and every access-table entry added, all records are granted at one
instant; else the launch completes with status 1. -/
def execLeaseGrant (launch : Nat) (s : State) : Out :=
  .next (
    match Tab.find s.launches launch with
    | none => s
    | some l =>
      if l.phase ≠ .leases then s
      else match s.pagesFor l.asid l.recs with
      | none => s.completeLaunch launch 1
      | some ps =>
        let es := l.entriesFor ps
        let ms := s.mastersOf l.forme.order
        match s.addAll (spread ms es) with
        | none => s.completeLaunch launch 1
        | some s =>
          let stop := s.ptime + l.period
          let s := (s.admitImage l).updLaunch launch (fun l => { l with
            recs := l.recs.map (fun r => { r with st := .granted, expiry := stop }), ents := es, masters := ms, phase := .verify })
          let s := s.writeLeases launch
          let s := (List.range l.recs.length).foldl (fun (s : State) i => s.post stop (.event (.leaseLapse launch i))) s
          s.soon (.kernelVerify launch))

/-- LEASE_LAPSE (R55): from EXPIRY on the record no longer serves translations; an unmap that waits for it may go on. -/
def execLeaseLapse (launch rec : Nat) (s : State) : Out :=
  .next (
    let l := s.launch launch
    let r := l.recAt rec
    if s.ptime < r.expiry then s
    else (s.unmaps.filter (fun e => e.2.asid == l.asid && r.meets e.2.va e.2.len && e.2.phase == 1)).foldl (fun (s : State) e =>
      s.nowOnce (.unmapLapseReached e.1)) s)

/-- A granted record that an unmap meets becomes REVOKING, and its lease is shortened where the unmap asks for it (R60
steps 1 and 2). -/
def LeaseRec.revoke (r : LeaseRec) (u : Unmap) (now : Nat) : LeaseRec :=
  if r.st = .granted ∨ r.st = .revoking then
    { r with st := .revoking, expiry := if u.short = 0 then r.expiry else min r.expiry (now + 1000 * u.short) }
  else r

/-- LEASE_RENEWAL_SERVE (R55, R58): a new EXPIRY; an unmap that was held over the renewal is handled now. -/
def execLeaseRenewalServe (launch rec : Nat) (s : State) : Out :=
  .next (
    match Tab.find s.launches launch with
    | none => s
    | some l =>
      let r := l.recAt rec
      if r.st ≠ .renewing then s
      else
        let r := { r with st := .granted, expiry := s.ptime + l.period }
        let (r, s) := match s.unmaps.find? (fun e => e.2.asid == l.asid && r.meets e.2.va e.2.len && decide (e.2.phase < 2)) with
          | none => (r, s)
          | some (id, u) =>
            let r := r.revoke u s.ptime
            (r, if u.short = 0 then s
              else (List.range 128).foldl (fun (s : State) c => s.soon (.clusterShortenNotice c id))
                { s with unmaps := Tab.ins s.unmaps id { u with waits := u.waits + 128 } })
        ((s.updLaunch launch (fun l => { l with recs := l.recs.set rec r })).writeLeases launch).post r.expiry
          (.event (.leaseLapse launch rec)))

/-! ### Unmapping (R60) -/

/-- The records that an unmap meets, with their launches. -/
def State.revoked (s : State) (u : Unmap) : List (Nat × LeaseRec) :=
  (s.launches.filter (fun e => e.2.asid == u.asid)).flatMap (fun e => (e.2.recs.filter (fun r => r.meets u.va u.len)).map (fun r => (e.1, r)))

/-- The records that an unmap meets change. -/
def State.updRevoked (s : State) (u : Unmap) (f : LeaseRec → LeaseRec) : State :=
  let ks := (s.launches.filter (fun e => e.2.asid == u.asid && e.2.recs.any (fun r => r.meets u.va u.len))).map (·.1)
  ks.foldl (fun (s : State) k => (s.updLaunch k (fun l => { l with
    recs := l.recs.map (fun r => if r.meets u.va u.len then f r else r) })).writeLeases k) s

/-- CLUSTER_SHORTEN_NOTICE (R60 step 2): the cached expiry of the records is lowered, and the notice acknowledged. -/
def execClusterShortenNotice (cluster id : Nat) (s : State) : Out :=
  .next (
    match Tab.find s.unmaps id with
    | none => s
    | some u =>
      let lower (t : TlbEntry) : TlbEntry :=
        let l := s.launch t.launch
        let r := l.recAt t.recIx
        if l.asid = u.asid ∧ r.meets u.va u.len then { t with expiry := min t.expiry r.expiry } else t
      let ts := (Tab.get [] s.tlbs cluster).map lower
      let s := { s with tlbs := if ts = [] then s.tlbs else Tab.ins s.tlbs cluster ts }
      { s with unmaps := Tab.ins s.unmaps id { u with waits := u.waits - 1 } }.nowOnce (.unmapLapseReached id))

/-- UNMAP_LAPSE_REACHED (R60 steps 3 to 5): once every notice is acknowledged and every overlapping record has lapsed,
the leaf entries are cleared and the purge goes to every cluster. -/
def execUnmapLapseReached (id : Nat) (s : State) : Out :=
  .next (
    match Tab.find s.unmaps id with
    | none => s
    | some u =>
      let open_ := (s.revoked u).filter (fun r => r.2.st == .renewing
        || ((r.2.st == .granted || r.2.st == .revoking) && decide (s.ptime < r.2.expiry)))
      if u.phase ≠ 1 ∨ u.waits ≠ 0 ∨ open_ ≠ [] then s
      else
        let s := (s.leavesIn u.asid u.va (u.va + u.len)).foldl (fun (s : State) x => s.poke64 x.1 0) s
        let s := { s with unmaps := Tab.ins s.unmaps id { u with phase := 2, waits := 128 } }
        (List.range 128).foldl (fun (s : State) c => s.soon (.clusterPurge c id)) s)

/-- A line of the L1 lies in the range of an unmap. -/
def Unmap.covers (u : Unmap) (asid vline : Nat) : Bool :=
  asid == u.asid && decide (u.va ≤ 128 * vline) && decide (128 * vline < u.va + u.len)

/-- One pair drops the lines of a purge: tentative teams commit (R386), dirty words are written back, and the lines and
the fills on their way are invalid. -/
def State.purgePair (s : State) (u : Unmap) (pair : Nat) : State :=
  let s := ((s.teams.filter (fun e => e.2.pair == pair && e.2.rst && (s.launch e.2.launch).asid == u.asid)).map (·.1)).foldl
    (fun (s : State) t => (s.commit 0 t).2) s
  let s := ((s.pair pair).l1.filter (fun l => u.covers l.asid l.vline)).foldl (fun (s : State) l => (s.evictL1 pair l).2) s
  s.staleFills pair (fun r => u.covers r.asid r.vline)

/-- CLUSTER_PURGE (R60 step 5): the cluster's TLB entries and L1 lines of the range go; it acknowledges once the L2 has
accepted every write-back. -/
def execClusterPurge (cluster id : Nat) (s : State) : Out :=
  .next (
    match Tab.find s.unmaps id with
    | none => s
    | some u =>
      let ts := (Tab.get [] s.tlbs cluster).filter (fun t =>
        !(t.asid == u.asid && decide (t.lo < u.va + u.len) && decide (u.va ≤ t.hi)))
      let s := { s with tlbs := if ts = [] then Tab.del s.tlbs cluster else Tab.ins s.tlbs cluster ts }
      let pairs := (List.range 4).map (fun i => 4 * cluster + i)
      let s := pairs.foldl (fun (s : State) p => s.purgePair u p) s
      if s.reqs.any (fun e => e.2.kind == .write && e.2.asid == u.asid && pairs.contains (pairOf e.2.core)) then
        s.later 10 (.clusterPurge cluster id)
      else
        let s := { s with unmaps := Tab.ins s.unmaps id { u with waits := u.waits - 1 } }
        if u.waits = 1 then s.soon (.unmapPurgeAcked id) else s)

/-- UNMAP_PURGE_ACKED (R60 step 6): the frames leave every access table; where entries that came since the request leave no room
for it, the MMP tries again later (DEDUCED, log entry 58). -/
def execUnmapPurgeAcked (id : Nat) (s : State) : Out :=
  .next (
    match Tab.find s.unmaps id with
    | none => s
    | some u =>
      if u.phase ≠ 2 ∨ u.waits ≠ 0 then s
      else
        match s.cutFrames u.asid u.frames with
        | none => s.later 1000 (.unmapPurgeAcked id)
        | some s => { s with unmaps := Tab.ins s.unmaps id { u with phase := 3 } }.soon (.unmapTablesAcked id))

/-- MBSTAT when a command ends (R419): DONE with its STATUS. -/
def State.mailDone (s : State) (status : Nat) : State := s.setReg x1 0x73008 (BitVec.ofNat 64 (status * 2 ^ 16 + 2))

/-- UNMAP_TABLES_ACKED (R60): the unmap is complete; the records it lapsed end. -/
def execUnmapTablesAcked (id : Nat) (s : State) : Out :=
  .next (
    match Tab.find s.unmaps id with
    | none => s
    | some u =>
      if u.phase ≠ 3 then s
      else
        let s := s.updRevoked u (fun r => if r.st = .revoking then { r with st := .ended } else r)
        ({ s with unmaps := Tab.del s.unmaps id }).mailDone 0)

/-! ### Access tables (R68) -/

/-- ACCESS_TABLE_WRITE (R68): the MMP writes an entry; requests that arrive later meet it. -/
def execAccessTableWrite (port master entry : Nat) (v : BitVec 128) (s : State) : Out :=
  .next (if port < 36 ∧ master < 4096 ∧ entry < 8 then s.setAcc port master entry v else s)

end Sys2Proof.Machine
end

