-- ==== Sys2Proof/Machine/Dispatcher.lean ====
section
/-!
DEFINITION. The dispatcher on X0 (13 R350 to R367): tail words, acceptance, readiness, the choice, placement, partial
eviction and resumption; SPSPLIT (03 R79).
-/

namespace Sys2Proof.Machine

/-! ### Posting (R351) -/

/-- OVR of a queue is set. -/
def State.setOvr (s : State) (q : Nat) : State := s.setReg x0 (0x10010 + 32 * q) (setField (s.reg x0 (0x10010 + 32 * q)) 63 63 1)

/-- TAIL_POLL_TIMER (R351): each served queue's tail word is read again, and the timer runs on. -/
def execTailPollTimer (s : State) : Out :=
  .next (((List.range 64).foldl (fun (s : State) q =>
    let c := s.lqcfg q
    if lqEn c = false ∨ lqDev c = true ∨ s.io.any (fun e => e.2.kind == .tail q) then s
    else
      let pa := field (s.lqtail q) 47 3 * 8
      let (id, s) := s.fresh
      let op : IoOp := { kind := .tail q, left := 1, issued := s.ptime }
      { s with io := Tab.ins s.io id op }.sendTx x0 (s.targetOf pa) (if spaceOf pa = Space.device then 0x01 else 0x06) (pa / 128) id 0
        { cls := 0, master := dispatcherId, tenant := lqTenant c }) s).laterOnce 10000 .tailPollTimer)

/-- A tail word has been read (R351): the entries up to it are posted, at most to the bound of the ring (DEDUCED, log entry 61). -/
def State.tailRead (s : State) (q : Nat) (v : Nat) : State :=
  let last := s.tailOf q
  let head := s.lqhead q
  let n := lqSlots (s.lqcfg q)
  if 2 ^ 31 ≤ seqAhead last v then s.setOvr q
  else
    let above := decide (n < seqAhead head v)
    let s := if above then s.setOvr q else s
    let stop := if above then (head + n) % 2 ^ 32 else v
    let new := (List.range (seqAhead last stop)).map (fun i => (last + i) % 2 ^ 32)
    new.foldl (fun (s : State) i => s.soon (.entryAccept q i)) { s with tails := Tab.ins s.tails q stop }

/-! ### Entries and formes (R353 to R355) -/

/-- `n` bytes of a block of bytes from byte `k`, as a number. -/
def fieldOf (bs : List Byte) (k n : Nat) : Nat := natOfBytes ((bs.drop k).take n)

/-- The lease records of an entry (Table 7 of R53). -/
def recordsOf (bs : List Byte) (n : Nat) : List LeaseRec :=
  (List.range n).map (fun i =>
    let k := 128 + 32 * i
    { vbase := fieldOf bs k 8, len := fieldOf bs (k + 8) 8, rights := BitVec.ofNat 4 (fieldOf bs (k + 16) 1) })

/-- A well-formed lease record (Table 7 of R53). -/
def recordOk (bs : List Byte) (i : Nat) : Bool :=
  let k := 128 + 32 * i
  let va := fieldOf bs k 8
  let len := fieldOf bs (k + 8) 8
  let r := fieldOf bs (k + 16) 1
  fieldOf bs (k + 18) 6 == 0 && va % 65536 == 0 && decide (va < 2 ^ 57) && len != 0 && len % 65536 == 0 && decide (va + len ≤ 2 ^ 57) && decide (r < 16)
    && (!r.testBit 1 || r.testBit 0) && (!r.testBit 3 || r.testBit 1)

/-- The field rules of an entry's header and records (Table 4 of R353, R53). -/
def entryOk (bs : List Byte) : Bool :=
  let n := fieldOf bs 0 1
  decide (1 ≤ n ∧ n ≤ 32) && decide (fieldOf bs 1 1 < 128) && decide (fieldOf bs 2 1 < 4) && decide (fieldOf bs 3 1 ≤ 200)
    && decide (fieldOf bs 4 2 < 2 ^ 14) && decide (fieldOf bs 6 1 ≤ 4) && fieldOf bs 7 1 == 0 && fieldOf bs 8 8 % 64 == 0
    && fieldOf bs 20 4 == 0 && fieldOf bs 24 8 % 8 == 0 && (List.range n).all (recordOk bs)

/-- The forme of a header and placement order (Table 5 of R354). -/
def formeOf (va : Nat) (h order : List Byte) : Forme :=
  { width := fieldOf h 2 1, regs := 32 * fieldOf h 3 1, threads := fieldOf h 4 2, galley := fieldOf h 6 1
    matrix := (fieldOf h 7 1).testBit 0, att := (fieldOf h 7 1).testBit 1, scratch := fieldOf h 8 4, spsteps := fieldOf h 12 1
    cohsz := fieldOf h 16 2, order := (List.range (fieldOf h 18 2)).map (fun i => fieldOf order (2 * i) 2 % 512)
    code := BitVec.ofNat 64 (fieldOf h 24 8), tcimg := BitVec.ofNat 64 (fieldOf h 32 8), va := BitVec.ofNat 64 va }

/-- The field rules of a forme (Table 5 of R354), and of a protected launch (R388). -/
def formeOk (prot : Bool) (h order : List Byte) : Bool :=
  let w := fieldOf h 2 1
  let t := fieldOf h 4 2
  let n := fieldOf h 18 2
  let ps := (List.range n).map (fun i => fieldOf order (2 * i) 2)
  fieldOf h 0 2 == 1 && (w == 16 || w == 32 || w == 64) && decide (1 ≤ fieldOf h 3 1 ∧ fieldOf h 3 1 ≤ 8)
    && decide (1 ≤ t ∧ t ≤ 2048) && t % w == 0 && decide (1 ≤ fieldOf h 6 1 ∧ fieldOf h 6 1 ≤ 64) && decide (fieldOf h 7 1 < 4)
    && fieldOf h 8 4 % 256 == 0 && decide (fieldOf h 12 1 ≤ 11) && decide (fieldOf h 8 4 ≤ fieldOf h 12 1 * 524288)
    && fieldOf h 13 3 == 0 && decide (fieldOf h 16 2 ≤ 64) && decide (1 ≤ n ∧ n ≤ 512) && ps.all (fun p => decide (p < 512))
    && ps.eraseDups.length == ps.length && fieldOf h 20 4 == 0 && fieldOf h 40 24 == 0
    && (!prot || (w != 16 && decide (fieldOf h 16 2 ≤ 1)))

/-- Dependences an entry may name (R355): earlier entries of its own queue, posted entries of another queue of its
tenant. -/
def State.depOk (s : State) (q seq : Nat) (tag : Nat) : Bool :=
  let dq := tag / 2 ^ 32
  let ds := tag % 2 ^ 32
  decide (dq < 64) && (if dq = q then decide (2 ^ 31 < seqAhead seq ds)
    else lqTenant (s.lqcfg dq) == lqTenant (s.lqcfg q) && decide (2 ^ 31 < seqAhead (s.tailOf dq) ds))

/-- A team of a forme fits on an empty pair, and the order offers enough usable pairs (R355 points 2 and 3). -/
def State.placeable (s : State) (f : Forme) : Bool :=
  let g := f.threads / f.width
  let n := (f.order.filter s.usable).length
  decide ((g + 1) / 2 * f.width * f.regs ≤ 131072) && decide (f.cohsz ≤ n) && decide (0 < n)

/-- The launch of an entry's bytes, as it is accepted. -/
def launchOf (q seq acceptNo now : Nat) (tenant : BitVec 12) (bs : List Byte) : Launch :=
  { tag := tagOf q seq, queue := q, seq := seq, prio := fieldOf bs 1 1 % 128, restart := (fieldOf bs 2 1).testBit 0
    prot := (fieldOf bs 2 1).testBit 1, lper := fieldOf bs 3 1, asid := fieldOf bs 4 2 % 2 ^ 14, tenant := tenant
    deps := (List.range (min 4 (fieldOf bs 6 1))).map (fun i => fieldOf bs (32 + 8 * i) 8), teams := fieldOf bs 16 4 + 1
    yinit := (List.range 16).map (fun i => BitVec.ofNat 32 (fieldOf bs (64 + 4 * i) 4))
    recs := recordsOf bs (min 32 (fieldOf bs 0 1)), acceptedAt := now, acceptNo := acceptNo }

/-- DONE's physical address and the dispatcher's entry for its block: none where it is 0, breaks its rule or does not
translate (R350, R356). -/
def State.donePlace (s : State) (bs : List Byte) : Option (Nat × BitVec 128) × State :=
  let va := fieldOf bs 24 8
  let asid := fieldOf bs 4 2
  if va = 0 ∨ va % 8 ≠ 0 ∨ 2 ^ 57 ≤ va ∨ 2 ^ 14 ≤ asid then (none, s)
  else match s.walk 0 asid va with
    | .page p =>
      let pa := p.pa + (va - p.va)
      (some (pa, mkEntry (pa / 65536) (pa / 65536) (s.tenantOf asid) (if p.wt then 1 else 0) p.ireg false true false p.wt false), s)
    | e => (none, s.walkDenied e 0)

/-- An entry is accepted: the dispatcher holds it from now on. Nothing while its entry for DONE's block finds no room: the word of every
accepted entry is written, so acceptance waits (R350) (DEDUCED, log entry 57). -/
def State.takeEntry (s : State) (q seq : Nat) (bs : List Byte) (f : Forme) : Option (Nat × State) :=
  let k := s.accepts
  let l := { launchOf q seq k s.ptime (s.tenantOf (fieldOf bs 4 2 % 2 ^ 14)) bs with forme := f }
  let l := { l with cursor := f.order.length - 1 }
  match s.donePlace bs with
  | (none, s) => some (k, { s with launches := Tab.ins s.launches k l, accepts := k + 1 })
  | (some (pa, e), s) =>
    let l := { l with donePa := some pa, doneEnt := some e }
    let s := { s with launches := Tab.ins s.launches k l, accepts := k + 1 }
    (s.addAll ((targetsOf pa).map (fun p => (p, dispatcherId.toNat, e)))).map (fun s => (k, s))

/-- Owner of the reads made for an entry. -/
def entryOwner (q seq : Nat) : Nat := tagOf q seq

/-- An entry whose slot has been read (R355): it is accepted, and completes at once on a failing check. -/
def State.accept13 (s : State) (q seq : Nat) (bs : List Byte) : State :=
  let o := entryOwner q seq
  let take (s : State) (f : Forme) (next : Nat → State → State) : State := match (s.dropReads o).takeEntry q seq bs f with
    | some (k, s) => next k s
    | none => s.later 10 (.entryAccept q seq)
  let refuse (s : State) (st : BitVec 32) : State := take s {} (fun k s => s.completeLaunch k st)
  let asid := fieldOf bs 4 2
  let w := s.read64 (s.asidEntry (asid % 2 ^ 14))
  let tenant := lqTenant (s.lqcfg q)
  if entryOk bs = false ∨ w.getLsbD 0 = false ∨ s.tenantOf (asid % 2 ^ 14) ≠ tenant then refuse s 2
  else
    let va := fieldOf bs 8 8
    match s.virtualRead o x0 dispatcherId.toNat asid tenant true va 64 with
    | (.wait, s) => s.later 10 (.entryAccept q seq)
    | (.bad, s) => refuse s 2
    | (.ok h, s) =>
      match s.virtualRead o x0 dispatcherId.toNat asid tenant true (va + 64) (2 * min 512 (fieldOf h 18 2)) with
      | (.wait, s) => s.later 10 (.entryAccept q seq)
      | (.bad, s) => refuse s 2
      | (.ok order, s) =>
        let deps := (launchOf q seq 0 0 tenant bs).deps
        if formeOk ((fieldOf bs 2 1).testBit 1) h order = false ∨ deps.all (s.depOk q seq) = false then refuse s 2
        else
          let f := formeOf va h order
          take s f (fun k s => if s.placeable f then s.soonOnce .dispatchChoose else s.completeLaunch k 5)

/-- ENTRY_ACCEPT (R355). An entry whose slot cannot be read completes with status 2, unaccepted. -/
def execEntryAccept (q seq : Nat) (s : State) : Out :=
  .next (
    let tag := tagOf q seq
    let o := entryOwner q seq
    let tenant := lqTenant (s.lqcfg q)
    let unread (s : State) : State :=
      let s := s.dropReads o
      { s with unread := tag :: s.unread }.finishTag tag 2
    if s.launches.any (fun e => e.2.tag == tag) || s.completed.contains tag || decide (2 ^ 31 ≤ seqAhead (s.lqhead q) seq) then s
    else match s.dispatcherRead o tenant (s.slotPa q seq) 128 with
    | (.wait, s) => s.later 10 (.entryAccept q seq)
    | (.bad, s) => unread s
    | (.ok h, s) =>
      let n := fieldOf h 0 1
      match s.dispatcherRead o tenant (s.slotPa q seq + 128) (if 1 ≤ n ∧ n ≤ 32 then 32 * n else 0) with
      | (.wait, s) => s.later 10 (.entryAccept q seq)
      | (.bad, s) => unread s
      | (.ok recs, s) => s.accept13 q seq (h ++ recs))

/-! ### Readiness (R357) -/

/-- The status of a dependence, where it has completed. -/
def State.depStatus (s : State) (tag : Nat) : Option (BitVec 32) :=
  match Tab.find s.results tag with
  | some st => some st
  | none => if seqAhead (s.lqhead (tag / 2 ^ 32)) (tag % 2 ^ 32) < 2 ^ 31 then none else some 0

/-- Entries whose dependences have completed ask for their leases, which the MMP copies into a table of its own (R53); one with a failed
dependence completes with status 4. -/
def State.checkDeps (s : State) : State :=
  (s.launches.filter (fun e => e.2.phase == .deps)).foldl (fun (s : State) e =>
    let sts := e.2.deps.map s.depStatus
    if sts.any (fun x => x.isSome && x != some 0) then s.completeLaunch e.1 4
    else if sts.all (·.isSome) then match s.copyLeases e.1 with
      | some s => (s.updLaunch e.1 (fun l => { l with phase := .leases })).soon (.leaseGrant e.1)
      | none => s.completeLaunch e.1 1
    else s) s

/-! ### Effective priority (R367) -/

/-- The launch with a tag. -/
def State.launchOfTag (s : State) (tag : Nat) : Option Nat := (s.launches.find? (fun e => e.2.tag == tag)).map (·.1)

/-- Launches with every launch they depend on. -/
def State.withDeps (s : State) : Nat → List Nat → List Nat
  | 0, ks => ks
  | fuel + 1, ks => s.withDeps fuel (ks ++ (ks.flatMap (fun k => (s.launch k).deps.filterMap s.launchOfTag))).eraseDups

/-- Pairs of a launch with a waiting record of `lwait` and a launch that it waits for, directly or by dependence. -/
def State.awaitedBy (s : State) : List (Nat × Nat) :=
  (s.gids.flatMap (fun e => e.2.lanes.filterMap (fun t => match t.await with
    | some (.lwait tag _) => (s.launchOfTag tag.toNat).map (fun x => (e.2.launch, x))
    | _ => none))).eraseDups.flatMap (fun p => (s.withDeps s.launches.length [p.2]).map (fun x => (p.1, x)))

/-- The priorities of the launches, raised by waiting records. -/
def State.prios (s : State) : Tab Nat :=
  let edges := s.awaitedBy
  (List.range s.launches.length).foldl (fun (t : Tab Nat) _ =>
    edges.foldl (fun (t : Tab Nat) p => Tab.change t p.2 (fun v => max v (Tab.get 0 t p.1))) t) (s.launches.map (fun e => (e.1, e.2.prio)))

/-! ### Whether a team fits (R359) -/

/-- Teams are placed, evicted and resumed at all (R361, R442). -/
def State.mayPlace (s : State) : Bool :=
  (s.reg x1 0x74000).getLsbD 0 && !(s.reg x1 0x74000).getLsbD 3 && !(s.reg x0 0x11000).getLsbD 16

/-- The thread, register and galley limits of a core hold with `n` gang ids of a launch added (R96, R155); `skip` are as
good as evicted. -/
def State.coreFits (s : State) (k core n : Nat) (skip : List Nat) : Bool :=
  let f := (s.launch k).forme
  let gs := (s.onCore core).filter (fun e => !e.2.evicted && !skip.contains e.1)
  let threads := gs.foldl (fun a e => a + e.2.width) 0
  let regs := gs.foldl (fun a e => a + e.2.width * e.2.regs) 0
  let others := ((gs.map (fun e => e.2.launch)).eraseDups).filter (· != k)
  let galley := others.foldl (fun a l => a + (s.launch l).forme.galley) 0
  n == 0 || (decide (threads + n * f.width ≤ 2048) && decide (regs + n * f.width * f.regs ≤ 131072) && decide (galley + f.galley ≤ 64))

/-- The teams resident on a pair. -/
def State.teamsOn (s : State) (pair : Nat) : List (Nat × Team) := s.teams.filter (fun e => e.2.pair == pair)

/-- The lowest place for a window of `n` bytes among windows, in `cap` bytes (R360). -/
def fitWindow (n cap : Nat) (ws : List (Nat × Nat)) : Option Nat :=
  let free (b : Nat) : Bool := decide (b + n ≤ cap) && ws.all (fun w => decide (b + n ≤ w.1 ∨ w.1 + w.2 ≤ b) || n == 0)
  ((0 :: ws.map (fun w => w.1 + w.2)).filter free).foldl (fun (o : Option Nat) b => match o with
    | none => some b
    | some c => some (min b c)) none

/-- Where the window of a launch's team would stand on a pair. -/
def State.windowOn (s : State) (k pair : Nat) : Option Nat :=
  let f := (s.launch k).forme
  let ts := s.teamsOn pair
  fitWindow f.scratch (524288 * (if ts = [] then f.spsteps else s.steps pair)) (ts.map (fun e => (e.2.winBase, e.2.winSize)))

/-- The kernel slot of a launch on a pair: the one it holds, or a free one (R155) (DESIGN CHOICE, log entry 63). -/
def Pair.slotFor (p : Pair) (k : Nat) : Option Nat :=
  if p.k0 = some k then some 0 else if p.k1 = some k then some 1
  else if p.k0 = none then some 0 else if p.k1 = none then some 1 else none

/-- Teams of a launch start their runs with RST = 1 (R385): restartable or protected, and not in a cohort of several. -/
def Launch.restartable (l : Launch) (cohort : Nat) : Bool := (l.restart || l.prot) && decide (cohort ≤ 1)

/-- A pair takes a team of a launch (R359): `n` is the size of its cohort, `taken` are pairs kept from it. -/
def State.qualifies (s : State) (k : Nat) (w : Again) (n : Nat) (taken skip : List Nat) (pair : Nat) : Bool :=
  let l := s.launch k
  let f := l.forme
  let g := f.threads / f.width
  let ts := s.teamsOn pair
  let elsewhere := f.order.any (fun p => s.usable p && !w.avoid.contains p)
  s.usable pair && (!w.avoid.contains pair || !elsewhere) && !taken.contains pair
    && ((s.pair pair).slotFor k).isSome
    && s.coreFits k (2 * pair) ((g + 1) / 2) skip && s.coreFits k (2 * pair + 1) (g / 2) skip
    && (s.windowOn k pair).isSome
    && (!f.matrix || ts.all (fun e => !(s.launch e.2.launch).forme.matrix))
    && (!l.restartable n || ts.all (fun e => e.2.launch != k))
    && s.launches.all (fun e => e.1 == k || !e.2.reserved.contains pair)

/-- The teams a launch places next: its lowest unplaced team, or its lowest unplaced cohort (R358). -/
def Launch.nextWork (l : Launch) : List Again :=
  match l.again with
  | a :: as => [as.foldl (fun x y => if y.id < x.id then y else x) a]
  | [] =>
    (List.range (min (max 1 l.forme.cohsz) (l.teams - l.placed))).map (fun i => { id := l.placed + i })

/-- The order with its indices, from the entry after the cursor, wrapping round (R359). -/
def rotated (order : List Nat) (cursor : Nat) : List (Nat × Nat) :=
  let xs := (List.range order.length).map (fun i => (i, order.getD i 0))
  xs.drop (cursor + 1) ++ xs.take (cursor + 1)

/-- Teams matched to pairs in ascending team id, each to the first pair after the previous one that `pick` takes; with what
it answers (R359, R361, R362). -/
def matchTeams {α : Type} (order : List Nat) (pick : Again → List Nat → Nat → Option α) : List Again → Nat → List Nat →
    Option (List (Again × Nat × Nat × α))
  | [], _, _ => some []
  | w :: ws, cursor, used =>
    match (rotated order cursor).findSome? (fun x => if used.contains x.2 then none else (pick w used x.2).map (fun a => (x, a))) with
    | none => none
    | some (x, a) => match matchTeams order pick ws x.1 (x.2 :: used) with
      | none => none
      | some rest => some ((w, x.1, x.2, a) :: rest)

/-! ### Placement (R360) -/

/-- STEPS of a pair changes (R79): its L1 is written back and invalidated, and the scratchpad is undefined from now on. -/
def State.setSteps (s : State) (pair n : Nat) : State :=
  if s.steps pair = n then s
  else
    let s := ((s.pair pair).l1).foldl (fun (s : State) l => (s.evictL1 pair l).2) s
    let s := s.staleFills pair (fun _ => true)
    let (c, s) := s.tick
    let off := 0x60000 + 8 * (pair % 32)
    (s.updPair pair (fun p => { p with scr := [], owners := [], scrFree := some c })).setReg (chipOf pair) off
      (setField (s.reg (chipOf pair) off) 3 0 n)

/-- SPSPLIT_WRITE (R79): accepted while no team is resident and only with 0 to 11; else REJ is set. -/
def execSpsplitWrite (pair : Nat) (v : BitVec 64) (s : State) : Out :=
  let off := 0x60000 + 8 * (pair % 32)
  let r := s.reg (chipOf pair) off
  let r := if v.getLsbD 8 then setField r 8 8 0 else r
  .next (
    if 512 ≤ pair then s
    else if s.teamsOn pair = [] ∧ field v 3 0 ≤ 11 then (s.setReg (chipOf pair) off r).setSteps pair (field v 3 0)
    else s.setReg (chipOf pair) off (setField r 8 8 1))

/-- The window of a new team (R80): its bytes are zero but for those whose last owner was a retired team of its launch. -/
def Pair.openWindow (p : Pair) (base size launch : Nat) : Pair :=
  let mine := p.owners.filter (fun o => o.2.2 == launch)
  let kept (a : Nat) : Bool := decide (a < base ∨ base + size ≤ a) || mine.any (fun o => decide (o.1 ≤ a ∧ a < o.1 + o.2.1))
  let cut (o : Nat × Nat × Nat) : List (Nat × Nat × Nat) :=
    if o.1 + o.2.1 ≤ base ∨ base + size ≤ o.1 then [o]
    else (if o.1 < base then [(o.1, base - o.1, o.2.2)] else [])
      ++ (if base + size < o.1 + o.2.1 then [(base + size, o.1 + o.2.1 - (base + size), o.2.2)] else [])
  { p with scr := p.scr.filter (fun e => kept e.1)
           owners := if size = 0 then p.owners else p.owners.flatMap cut ++ [(base, size, launch)] }

/-- Why the typecase image could not be read: a denial at its target, else poison (R360, R370). -/
def State.imageFault (s : State) (owner : Nat) (qs : List (Nat × Nat)) : BitVec 8 :=
  let denied (q : Nat × Nat) : Bool :=
    decide (spaceOf q.1 = .device ∧ s.capacity ≤ q.1) || s.io.any (fun e => e.2.kind == .read owner (q.1 / 128) && e.2.left == 0 && e.2.m.isNone)
  if qs.any denied then 0x18 else 0x14

/-- The typecase image of a launch, read by the dispatcher from pages with right R (R360 step 2): its bytes, a cause, or it waits.
Lease records do not bind the dispatcher (R56). -/
def State.readImage (s : State) (k : Nat) : Except (Option (BitVec 8)) (List Byte) × State :=
  let l := s.launch k
  let owner := tagOf l.queue l.seq
  if l.forme.tcimg = 0 then (.ok [], s)
  else match State.readables l.asid true (piecesOf l.forme.tcimg.toNat 4096) s with
    | (none, s) => (.error (some 0x1A), s)
    | (some qs, s) => match State.masterReads owner x0 dispatcherId.toNat l.tenant qs s with
      | (.ok bs, s) => (.ok bs, s)
      | (.bad, s) => (.error (some (s.imageFault owner qs)), s)
      | (.wait, s) => (.error none, s)

/-- The gang id `i` of a new team: every register at its value for team start, and its threads filed at CODE (R360). -/
def newGid (l : Launch) (k team slot pair now : Nat) (w : Again) (i : Nat) : Gid :=
  let f := l.forme
  { team := team, teamId := w.id, launch := k, gid := i, core := 2 * pair + i % 2, kslot := slot, width := f.width
    threads := f.threads, regs := f.regs, prot := l.prot
    lanes := List.replicate f.width { pc := f.code, st := .filed, filedAt := now }
    y := (List.range 16).filterMap (fun j => let v := l.yinit.getD j 0; if v = 0 then none else some (j, v))
    rng := 0x9E3779B97F4A7C15#64 ^^^ BitVec.ofNat 64 (w.id * 2 ^ 16 + i) }

/-- A launch holds a kernel slot of a pair (R155). -/
def Pair.holds (p : Pair) (k : Nat) : Bool := p.k0 == some k || p.k1 == some k

/-- One team is placed on a pair (R360). Matrix state starts at its reset values (R287), but for a team without matrix use beside one
that has it (DEDUCED, log entry 110). -/
def State.placeTeam (s : State) (k : Nat) (w : Again) (pair n : Nat) (image : List Byte) : State :=
  let l := s.launch k
  let f := l.forme
  let s := if s.teamsOn pair = [] then s.setSteps pair f.spsteps else s
  let base := (s.windowOn k pair).getD 0
  let slot := ((s.pair pair).slotFor k).getD 0
  let holds := (s.pair pair).holds k
  let s := s.updPair pair (fun p =>
    let p := p.openWindow base f.scratch k
    if holds then p
    else
      let p := if slot = 0 then { p with k0 := some k } else { p with k1 := some k }
      if image = [] then p.voidEntries slot 0 256 else p.putEntries slot 0 image)
  let matrixHere := (s.teamsOn pair).any (fun e => (s.launch e.2.launch).forme.matrix)
  let s := if f.matrix then (s.flushCount (2 * pair)).flushCount (2 * pair + 1) else s
  let s := [2 * pair, 2 * pair + 1].foldl (fun (s : State) c =>
    let s := if matrixHere then s else s.updCore c (fun x => { x with mat := {} })
    if (s.onCore c).any (fun e => e.2.launch == k) then s
    else s.updLc c slot (fun _ => { limit := f.galley, split := f.width / 2, quota := f.galley })) s
  let (key, s) := s.fresh
  let t : Team := { id := w.id, launch := k, pair := pair, kslot := slot, winBase := base, winSize := f.scratch, run := w.run
                    rst := l.restartable n, cohort := if f.cohsz ≤ 1 then w.id else w.id / f.cohsz, avoid := w.avoid
                    diverged := w.diverged, rerun := w.diverged.isSome }
  let s := { s with teams := Tab.ins s.teams key t }
  let s := (List.range (f.threads / f.width)).foldl (fun (s : State) i =>
    let (gk, s) := s.fresh
    { s with gids := Tab.ins s.gids gk (newGid l k key slot pair s.ptime w i) }) s
  ((s.invalidateAllClean pair).nowOnce (.clauseStart (2 * pair))).nowOnce (.clauseStart (2 * pair + 1))

/-- A launch's next work is placed whole; where its image faults, the launch ends (R360). Nothing where the image is still
being read. -/
def State.placeAll (s : State) (k : Nat) (ps : List (Again × Nat × Nat)) : Option State × State :=
  let owner := tagOf (s.launch k).queue (s.launch k).seq
  -- the bank is written only where the launch first takes a slot (R360 step 2)
  match (if ps.all (fun p => (s.pair p.2.2).holds k) then (.ok [], s) else s.readImage k) with
  | (.error (some c), s) => (some ((s.dropReads owner).endLaunch k c), s)
  | (.error none, s) => (none, s)
  | (.ok image, s) =>
    let t := ps.foldl (fun (s : State) p => s.placeTeam k p.1 p.2.2 ps.length image) s
    (some ((t.dropReads owner).updLaunch k (fun l =>
      { l with placed := if l.again = [] then l.placed + ps.length else l.placed
               again := l.again.filter (fun a => !(ps.map (fun p => p.1.id)).contains a.id)
               cursor := (ps.map (fun p => p.2.1)).getLastD l.cursor
               reserved := [], incoming := [], cohortSince := none })), s)

/-! ### Partial eviction (R362) -/

/-- A gang id that may be a victim, with what orders the victims. -/
structure Victim where
  key : Nat
  prio : Nat
  accept : Nat
  waiting : Bool
  team : Nat
  gid : Nat
  deriving DecidableEq, Repr

/-- The order in which victims are selected (R362). -/
def Victim.before (a b : Victim) : Bool :=
  if a.prio ≠ b.prio then decide (a.prio < b.prio)
  else if a.accept ≠ b.accept then decide (b.accept < a.accept)
  else if a.waiting ≠ b.waiting then a.waiting
  else if a.team ≠ b.team then decide (b.team < a.team)
  else decide (b.gid < a.gid)

/-- A victim in its place. -/
def Victim.insert (v : Victim) : List Victim → List Victim
  | [] => [v]
  | x :: xs => if v.before x then v :: x :: xs else x :: Victim.insert v xs

/-- The gang ids of a pair that a launch of priority `prio` may displace, in the order of R362; only of launches with a
handler on the core (R380). -/
def State.victims (s : State) (prios : Tab Nat) (prio pair : Nat) : List Nat :=
  let all := (s.gids.filter (fun e => pairOf e.2.core == pair && !e.2.evicted && !e.2.preempt
    && decide (Tab.get 0 prios e.2.launch < prio) && (s.lc e.2.core e.2.kslot).tvec.getLsbD 0
    && e.2.lanes.any (fun t => t.st != .exited) && !s.stopping e.2.team)).map (fun e =>
      { key := e.1, prio := Tab.get 0 prios e.2.launch, accept := (s.launch e.2.launch).acceptNo
        waiting := e.2.lanes.all (fun t => t.st == .waiting || t.st == .exited), team := e.2.team, gid := e.2.gid : Victim })
  (all.foldl (fun l v => v.insert l) []).map (·.key)

/-- Victims of a pair are selected one at a time until the team fits. -/
def enough (fits : List Nat → Bool) : List Nat → List Nat → Option (List Nat)
  | [], acc => if fits acc then some acc else none
  | v :: vs, acc => if fits acc then some acc else enough fits vs (acc ++ [v])

/-- A gang id is asked for (R380 step 1): none of its groups is drawn any more, and it enters its handler for eviction, now
or after the handler that runs. -/
def State.preempt (s : State) (k : Nat) : State :=
  let s := s.updGid k (fun g => { g with preempt := true, frozen := true })
  if (s.gid k).inHandler then s else s.soonOnce (.handlerEntry k)

/-- A reservation of pairs for a cohort that has waited its time (R361): of those of the order that qualify, until it holds
as many as it has teams (DEDUCED, log entry 64). -/
def State.reserveFor (s : State) (k : Nat) : State :=
  let l := s.launch k
  let ws := l.nextWork
  match ws with
  | [] => s
  | w :: _ =>
    let more := l.forme.order.filter (fun p => !l.reserved.contains p && s.qualifies k w ws.length [] [] p)
    s.updLaunch k (fun l => { l with reserved := (l.reserved ++ more).take ws.length })

/-- DISPCTL.COHAGE in ns (Table 7 of R361). -/
def State.cohAge (s : State) : Nat := field (s.reg x0 0x11000) 15 0 * 1000

/-- A cohort that could not be placed waits; once it has waited for COHAGE it reserves pairs (R361). -/
def State.cohortWaits (s : State) (k : Nat) : State :=
  let l := s.launch k
  if l.nextWork.length ≤ 1 ∧ l.forme.cohsz = 0 then s
  else match l.cohortSince with
    | none => (s.updLaunch k (fun l => { l with cohortSince := some s.ptime })).later (s.cohAge + 1) (.cohortAgeReserve k)
    | some t => if t + s.cohAge < s.ptime then s.reserveFor k else s

/-- COHORT_AGE_RESERVE (R361). -/
def execCohortAgeReserve (launch : Nat) (s : State) : Out :=
  .next (match (s.launch launch).cohortSince with
    | some t => if t + s.cohAge < s.ptime then (s.reserveFor launch).soonOnce .dispatchChoose else s
    | none => s)

/-! ### Resumption (R364) -/

/-- The oldest gang id evicted from a pair fits again. -/
def State.resumable (s : State) (pair : Nat) : Bool :=
  match (s.pair pair).evictions with
  | [] => false
  | k :: _ =>
    let g := s.gid k
    !s.launches.any (fun e => e.2.incoming.contains pair) && s.coreFits g.launch g.core 1 []

/-- GANG_RESUME (R364, R380): the oldest evicted gang id of the pair re-enters its handler with RESUME = 1, in a free context (R368);
clean words of the pair's L1 are invalid from now on (R150). -/
def execGangResume (pair : Nat) (s : State) : Out :=
  .next (match (s.pair pair).evictions with
    | [] => s
    | k :: rest =>
      let g := s.gid k
      if !s.mayPlace || !s.resumable pair then s
      else if contextMax ≤ s.contexts g.core then s.post s.nextDue (.event (.gangResume pair))
      else
        let (uid, s) := ((s.invalidateAllClean pair).flushCount g.core).fresh
        let hpc := hpcOf (s.lc g.core g.kslot).tvec
        let on := maskOf ((List.range g.lanes.length).filter (fun l => (g.lane l).st == .evicted))
        let s := s.updPair pair (fun p => { p with evictions := rest })
        let s := s.updGid k (fun g =>
          { g.mapLanes (fun _ t => if t.st == .evicted then { t with st := .issuing, pc := hpc } else t) with
            evicted := false, frozen := true, rpc := 0, eact := on, gcause := gcauseOf { cause := 0x01 } 0 true
            gang := { uid := uid, active := on, hdr := hpc, since := s.ptime } })
        (s.nowOnce (.clauseStart g.core)).soonOnce .dispatchChoose)

/-! ### The choice (R358) -/

/-- Ready entries with work, in the order of R358. -/
def State.readyOrder (s : State) (prios : Tab Nat) : List Nat :=
  let ready := s.launches.filter (fun e => e.2.phase == .ready && e.2.endBy.isNone && e.2.nextWork != [])
  let before (a b : Nat × Launch) : Bool :=
    let pa := Tab.get 0 prios a.1
    let pb := Tab.get 0 prios b.1
    if pa ≠ pb then decide (pb < pa)
    else if a.2.acceptedAt ≠ b.2.acceptedAt then decide (a.2.acceptedAt < b.2.acceptedAt)
    else if a.2.queue ≠ b.2.queue then decide (a.2.queue < b.2.queue) else decide (a.2.acceptNo ≤ b.2.acceptNo)
  let put (e : Nat × Launch) (l : List (Nat × Launch)) : List (Nat × Launch) := l.takeWhile (fun x => before x e) ++ [e] ++ l.dropWhile (fun x => before x e)
  (ready.foldl (fun l e => put e l) []).map (·.1)

/-- What trying an entry comes to. -/
inductive Tried where
  | placed
  | waits
  | no
  deriving DecidableEq, Repr

/-- One ready entry is tried: placed where it fits; else victims are asked for (R359 to R362). While a victim has not been evicted the
incoming team waits (R363). -/
def State.tryEntry (s : State) (prios : Tab Nat) (k : Nat) (taken : List Nat) : Tried × State :=
  let l := s.launch k
  let ws := l.nextWork
  let n := ws.length
  if (l.forme.order.filter s.usable).length < n then
    -- its pairs have become unusable: it ends once its resident teams have retired (R366)
    let s := (s.updLaunch k (fun l => { l with phase := .ending, status := 5, incoming := [] })).soonOnce .dispatchChoose
    (.no, if s.teams.any (fun e => e.2.launch == k) then s else s.completeLaunch k 5)
  else if l.incoming.any (fun p => s.gids.any (fun e => pairOf e.2.core == p && e.2.preempt)) then (.no, s)
  else
    let now (w : Again) (used : List Nat) (p : Nat) : Option Unit :=
      if s.qualifies k w n (taken ++ used) [] p then some () else none
    match matchTeams l.forme.order now ws l.cursor [] with
    | some ps => match s.placeAll k (ps.map (fun p => (p.1, p.2.1, p.2.2.1))) with
      | (some s, _) => (.placed, s)
      | (none, s) => (.waits, s.laterOnce 100 .dispatchChoose)
    | none =>
      let prio := Tab.get 0 prios k
      let evict (w : Again) (used : List Nat) (p : Nat) : Option (List Nat) :=
        enough (fun vs => s.qualifies k w n (taken ++ used) vs p) (s.victims prios prio p) []
      let either (w : Again) (used : List Nat) (p : Nat) : Option (List Nat) :=
        let atOnce := l.forme.order.any (fun q => !used.contains q && s.qualifies k w n (taken ++ used) [] q)
        if atOnce then (now w used p).map (fun _ => []) else evict w used p
      match matchTeams l.forme.order either ws l.cursor [] with
      | none =>
        let s := (s.updLaunch k (fun l => { l with incoming := [] })).cohortWaits k
        (.no, if l.incoming = [] then s else s.soonOnce .dispatchChoose)
      | some ps =>
        let s := s.updLaunch k (fun l => { l with incoming := ps.map (fun p => p.2.2.1) })
        (.no, ((ps.flatMap (fun p => p.2.2.2)).foldl (fun (s : State) v => s.preempt v) s).cohortWaits k)

/-- Entries are tried in order until one is placed; those after one that waits for victims, or has given up waiting, do not take its
pairs: what was evicted from them resumes first (R364). -/
def State.tryEntries (prios : Tab Nat) : List Nat → List Nat → State → State
  | [], _, s => s
  | k :: ks, taken, s =>
    match s.tryEntry prios k taken with
    | (.placed, s) => s.soonOnce .dispatchChoose
    | (.waits, s) => s
    | (.no, t) => State.tryEntries prios ks (taken ++ (s.launch k).incoming ++ (t.launch k).incoming) t

/-- DISPATCH_CHOOSE (R357, R358): entries whose dependences are complete go on; gang ids resume before any placement on
their pair (R364); then the ready entries are tried. -/
def execDispatchChoose (s : State) : Out :=
  .next (
    let s := s.checkDeps
    if !s.mayPlace then s
    else
      let back := (s.pairs.filter (fun e => e.2.evictions != [] && s.resumable e.1)).map (·.1)
      let s := back.foldl (fun (s : State) p => s.soonOnce (.gangResume p)) s
      let prios := s.prios
      State.tryEntries prios (s.readyOrder prios) back s)

/-- DISPCTL_WRITE (Table 7 of R361). -/
def execDispctlWrite (v : BitVec 64) (s : State) : Out :=
  .next ((s.setReg x0 0x11000 (BitVec.ofNat 64 (field v 16 16 * 2 ^ 16 + max 1 (field v 15 0)))).soonOnce .dispatchChoose)

end Sys2Proof.Machine
end

