-- ==== Sys2Proof/Machine/Crypto.lean ====
section
/-!
DEFINITION. SHA-384 (FIPS 180-4), ECDSA on P-384 (FIPS 186-5) and AES-GCM-256 (FIPS 197, SP 800-38D), which 00 R10, 15 R400, R405,
R407, R409 and 16 R424 name. The spec names the standards; their constants are theirs (log entry 8).
-/

namespace Sys2Proof.Machine

/-! ### SHA-384 -/

/-- The round constants: the first 64 bits of the fractional parts of the cube roots of the first 80 primes (PRESUMED, log entry 8). -/
def shaK : List Dword :=
  [0x428A2F98D728AE22#64, 0x7137449123EF65CD#64, 0xB5C0FBCFEC4D3B2F#64, 0xE9B5DBA58189DBBC#64,
   0x3956C25BF348B538#64, 0x59F111F1B605D019#64, 0x923F82A4AF194F9B#64, 0xAB1C5ED5DA6D8118#64,
   0xD807AA98A3030242#64, 0x12835B0145706FBE#64, 0x243185BE4EE4B28C#64, 0x550C7DC3D5FFB4E2#64,
   0x72BE5D74F27B896F#64, 0x80DEB1FE3B1696B1#64, 0x9BDC06A725C71235#64, 0xC19BF174CF692694#64] ++
  [0xE49B69C19EF14AD2#64, 0xEFBE4786384F25E3#64, 0x0FC19DC68B8CD5B5#64, 0x240CA1CC77AC9C65#64,
   0x2DE92C6F592B0275#64, 0x4A7484AA6EA6E483#64, 0x5CB0A9DCBD41FBD4#64, 0x76F988DA831153B5#64,
   0x983E5152EE66DFAB#64, 0xA831C66D2DB43210#64, 0xB00327C898FB213F#64, 0xBF597FC7BEEF0EE4#64,
   0xC6E00BF33DA88FC2#64, 0xD5A79147930AA725#64, 0x06CA6351E003826F#64, 0x142929670A0E6E70#64] ++
  [0x27B70A8546D22FFC#64, 0x2E1B21385C26C926#64, 0x4D2C6DFC5AC42AED#64, 0x53380D139D95B3DF#64,
   0x650A73548BAF63DE#64, 0x766A0ABB3C77B2A8#64, 0x81C2C92E47EDAEE6#64, 0x92722C851482353B#64,
   0xA2BFE8A14CF10364#64, 0xA81A664BBC423001#64, 0xC24B8B70D0F89791#64, 0xC76C51A30654BE30#64,
   0xD192E819D6EF5218#64, 0xD69906245565A910#64, 0xF40E35855771202A#64, 0x106AA07032BBD1B8#64] ++
  [0x19A4C116B8D2D0C8#64, 0x1E376C085141AB53#64, 0x2748774CDF8EEB99#64, 0x34B0BCB5E19B48A8#64,
   0x391C0CB3C5C95A63#64, 0x4ED8AA4AE3418ACB#64, 0x5B9CCA4F7763E373#64, 0x682E6FF3D6B2B8A3#64,
   0x748F82EE5DEFB2FC#64, 0x78A5636F43172F60#64, 0x84C87814A1F0AB72#64, 0x8CC702081A6439EC#64,
   0x90BEFFFA23631E28#64, 0xA4506CEBDE82BDE9#64, 0xBEF9A3F7B2C67915#64, 0xC67178F2E372532B#64] ++
  [0xCA273ECEEA26619C#64, 0xD186B8C721C0C207#64, 0xEADA7DD6CDE0EB1E#64, 0xF57D4F7FEE6ED178#64,
   0x06F067AA72176FBA#64, 0x0A637DC5A2C898A6#64, 0x113F9804BEF90DAE#64, 0x1B710B35131C471B#64,
   0x28DB77F523047D84#64, 0x32CAAB7B40C72493#64, 0x3C9EBE0A15C9BEBC#64, 0x431D67C49C100D4C#64,
   0x4CC5D4BECB3E42B6#64, 0x597F299CFC657E2A#64, 0x5FCB6FAB3AD6FAEC#64, 0x6C44198C4A475817#64]

/-- The initial value: the first 64 bits of the fractional parts of the square roots of the ninth to sixteenth primes. -/
def shaInit : List Dword :=
  [0xCBBB9D5DC1059ED8#64, 0x629A292A367CD507#64, 0x9159015A3070DD17#64, 0x152FECD8F70E5939#64,
   0x67332667FFC00B31#64, 0x8EB44A8768581511#64, 0xDB0C2E0D64F98FA7#64, 0x47B5481DBEFA4FA4#64]

/-- The 16 words of a block, first word first. -/
def shaWords : Nat → List Byte → List Dword
  | 0, _ => []
  | n + 1, bs => BitVec.ofNat 64 ((bs.take 8).foldl (fun a b => a * 256 + b.toNat) 0) :: shaWords n (bs.drop 8)

/-- The message schedule, last word first, from the first 16. -/
def shaSchedule : Nat → List Dword → List Dword
  | 0, ws => ws
  | n + 1, ws =>
    let a := ws.getD 1 0
    let b := ws.getD 14 0
    let s1 := a.rotateRight 19 ^^^ a.rotateRight 61 ^^^ (a >>> 6)
    let s0 := b.rotateRight 1 ^^^ b.rotateRight 8 ^^^ (b >>> 7)
    shaSchedule n ((s1 + ws.getD 6 0 + s0 + ws.getD 15 0) :: ws)

/-- One round. -/
def shaRound (v : List Dword) (kw : Dword) : List Dword :=
  match v with
  | [a, b, c, d, e, f, g, h] =>
    let t1 := h + (e.rotateRight 14 ^^^ e.rotateRight 18 ^^^ e.rotateRight 41) + ((e &&& f) ^^^ (~~~e &&& g)) + kw
    let t2 := (a.rotateRight 28 ^^^ a.rotateRight 34 ^^^ a.rotateRight 39) + ((a &&& b) ^^^ (a &&& c) ^^^ (b &&& c))
    [t1 + t2, a, b, c, d + t1, e, f, g]
  | _ => v

/-- One block of 128 bytes. -/
def shaBlock (h : List Dword) (bs : List Byte) : List Dword :=
  let ws := (shaSchedule 64 (shaWords 16 bs).reverse).reverse
  List.zipWith (· + ·) h ((List.zipWith (· + ·) shaK ws).foldl shaRound h)

/-- The blocks of a padded message. -/
def shaBlocks : Nat → List Dword → List Byte → List Dword
  | 0, h, _ => h
  | n + 1, h, bs => shaBlocks n (shaBlock h (bs.take 128)) (bs.drop 128)

/-- `n` bytes of a number, highest first. -/
def bigEndian (n v : Nat) : List Byte := ((List.range n).map (fun i => BitVec.ofNat 8 (v / 2 ^ (8 * i)))).reverse

/-- A number from its bytes, highest first. -/
def ofBigEndian (bs : List Byte) : Nat := bs.foldl (fun a b => a * 256 + b.toNat) 0

/-- SHA-384 of some bytes. -/
def sha384 (m : List Byte) : BitVec 384 :=
  let n := m.length
  let zeros := (128 - (n + 17) % 128) % 128
  let padded := m ++ [0x80] ++ List.replicate zeros 0 ++ bigEndian 16 (8 * n)
  BitVec.ofNat 384 (((shaBlocks (padded.length / 128) shaInit padded).take 6).foldl (fun a w => a * 2 ^ 64 + w.toNat) 0)

/-! ### P-384 -/

/-- The field prime. -/
def ecP : Nat := 2 ^ 384 - 2 ^ 128 - 2 ^ 96 + 2 ^ 32 - 1
/-- The coefficient b of the curve. -/
def ecB : Nat := 0xb3312fa7e23ee7e4988e056be3f82d19181d9c6efe8141120314088f5013875ac656398d8a2ed19d2a85c8edd3ec2aef
/-- The order of the base point. -/
def ecN : Nat := 0xffffffffffffffffffffffffffffffffffffffffffffffffc7634d81f4372ddf581a0db248b0a77aecec196accc52973
/-- The base point. -/
def ecG : Nat × Nat :=
  (0xaa87ca22be8b05378eb1c71ef320ad746e1d3b628ba79b9859f741e082542a385502f25dbf55296c3a545e3872760ab7,
   0x3617de4a96262c6f5d9e98bf9292dc29f8f41dbd289a147ce9da3113b5f0b8c00a60b1ce1d7e819d7a431d7c90ea0e5f)

/-- b to the power e modulo m, by the bits of e. -/
def powMod (m : Nat) : Nat → Nat → Nat → Nat
  | 0, _, _ => 1 % m
  | fuel + 1, b, e =>
    let h := powMod m fuel (b * b % m) (e / 2)
    if e % 2 = 1 then b * h % m else h

/-- The inverse modulo a prime of at most 384 bits. -/
def invMod (m a : Nat) : Nat := powMod m 384 (a % m) (m - 2)

/-- Subtraction modulo p. -/
def ecSub (a b : Nat) : Nat := (a + ecP - b % ecP) % ecP

/-- Points in Jacobian coordinates; the point at infinity has Z = 0. -/
abbrev EcPoint := Nat × Nat × Nat

/-- Doubling. -/
def ecDouble (q : EcPoint) : EcPoint :=
  let (x, y, z) := q
  let yy := y * y % ecP
  let s := 4 * x * yy % ecP
  let zz := z * z % ecP
  let m := 3 * ecSub x zz * (x + zz) % ecP
  let x3 := ecSub (m * m) (2 * s)
  (x3, ecSub (m * ecSub s x3) (8 * yy * yy), 2 * y * z % ecP)

/-- Addition. -/
def ecAdd (a b : EcPoint) : EcPoint :=
  let (x1, y1, z1) := a
  let (x2, y2, z2) := b
  if z1 = 0 then b
  else if z2 = 0 then a
  else
    let u1 := x1 * z2 * z2 % ecP
    let u2 := x2 * z1 * z1 % ecP
    let s1 := y1 * z2 * z2 * z2 % ecP
    let s2 := y2 * z1 * z1 * z1 % ecP
    if u1 = u2 then if s1 = s2 then ecDouble a else (0, 1, 0)
    else
      let h := ecSub u2 u1
      let r := ecSub s2 s1
      let hh := h * h % ecP
      let hhh := h * hh % ecP
      let v := u1 * hh % ecP
      let x3 := ecSub (r * r) (hhh + 2 * v)
      (x3, ecSub (r * ecSub v x3) (s1 * hhh), h * z1 * z2 % ecP)

/-- k times a point, by the bits of k. -/
def ecMul : Nat → Nat → EcPoint → EcPoint
  | 0, _, _ => (0, 1, 0)
  | fuel + 1, k, q =>
    let h := ecMul fuel (k / 2) (ecDouble q)
    if k % 2 = 1 then ecAdd q h else h

/-- A public key in uncompressed SEC 1 form: its point, where it lies on the curve. -/
def ecPoint (key : List Byte) : Option (Nat × Nat) :=
  let x := ofBigEndian ((key.drop 1).take 48)
  let y := ofBigEndian ((key.drop 49).take 48)
  if key.length = 97 ∧ key.headD 0 = 4 ∧ x < ecP ∧ y < ecP ∧ y * y % ecP = (ecSub (x * x * x) (3 * x) + ecB) % ecP then some (x, y)
  else none

/-- An ECDSA signature (r, s) of a digest verifies under a public key (FIPS 186-5). -/
def ecVerify (key : List Byte) (digest : BitVec 384) (r s : Nat) : Bool :=
  match ecPoint key with
  | none => false
  | some q =>
    if r = 0 ∨ ecN ≤ r ∨ s = 0 ∨ ecN ≤ s then false
    else
      let w := invMod ecN s
      let u1 := digest.toNat * w % ecN
      let u2 := r * w % ecN
      let (x, _, z) := ecAdd (ecMul 384 u1 (ecG.1, ecG.2, 1)) (ecMul 384 u2 (q.1, q.2, 1))
      let zi := invMod ecP z
      z != 0 && x * zi * zi % ecP % ecN == r

/-- The affine coordinates of a point other than the one at infinity. -/
def ecAffine (q : EcPoint) : Nat × Nat :=
  let (x, y, z) := q
  let zi := invMod ecP z
  (x * zi * zi % ecP, y * zi * zi * zi % ecP)

/-- The private identity key, from 1 to n − 1 (R443) (DESIGN CHOICE, log entry 70). -/
def identityScalar : Nat := 1 + Config.identityScalar % (ecN - 1)

/-- The public half of the identity key, 97 bytes in uncompressed SEC 1 form (R443). -/
def identityKey : List Byte :=
  let (x, y) := ecAffine (ecMul 384 identityScalar (ecG.1, ecG.2, 1))
  [4] ++ bigEndian 48 x ++ bigEndian 48 y

/-- The ECDSA signature (r, s) of a digest under the identity key (R400), with the first per-message number that gives neither as 0. -/
def ecSign (digest : BitVec 384) : Nat × Nat :=
  let try_ (i : Nat) : Option (Nat × Nat) :=
    let k := 1 + Config.signNonce digest i % (ecN - 1)
    let r := (ecAffine (ecMul 384 k (ecG.1, ecG.2, 1))).1 % ecN
    let s := invMod ecN k * (digest.toNat + r * identityScalar) % ecN
    if r = 0 ∨ s = 0 then none else some (r, s)
  ((List.range 8).findSome? try_).getD (0, 0)

/-! ### AES-256 -/

/-- The S-box, 16 entries a row, the lowest in the lowest byte (PRESUMED, log entry 8). -/
def aesRows : List Nat :=
  [0x76ABD7FE2B670130C56F6BF27B777C63, 0xC072A49CAFA2D4ADF04759FA7DC982CA,
   0x1531D871F1E5A534CCF73F362693FDB7, 0x75B227EBE28012079A059618C323C704,
   0x842FE329B3D63B52A05A6E1B1A2C8309, 0xCF584C4A39BECB6A5BB1FC20ED00D153,
   0xA89F3C507F02F94585334D43FBAAEFD0, 0xD2F3FF1021DAB6BCF5389D928F40A351] ++
  [0x73195D643D7EA7C41744975FEC130CCD, 0xDB0B5EDE14B8EE4688902A22DC4F8160,
   0x79E4959162ACD3C25C2406490A3A32E0, 0x08AE7A65EAF4566CA94ED58D6D37C8E7,
   0x8A8BBD4B1F74DDE8C6B4A61C2E2578BA, 0x9E1DC186B95735610EF6034866B53E70,
   0xDF2855CEE9871E9B948ED9691198F8E1, 0x16BB54B00F2D99416842E6BF0D89A18C]

/-- SubBytes of a byte. -/
def aesSub (b : Byte) : Byte := BitVec.ofNat 8 (aesRows.getD (b.toNat / 16) 0 / 2 ^ (8 * (b.toNat % 16)))

/-- A byte times x in GF(2^8). -/
def xtime (b : Byte) : Byte := (b <<< 1) ^^^ (if b.getLsbD 7 then 0x1B else 0)

/-- Bytes added one by one. -/
def xorBytes (a b : List Byte) : List Byte := List.zipWith (· ^^^ ·) a b

/-- The words of the key schedule, last first, from word `i` on. -/
def aesExpand : Nat → Nat → Byte → List (List Byte) → List (List Byte)
  | 0, _, _, ws => ws
  | n + 1, i, rcon, ws =>
    let prev := ws.headD []
    let t := if i % 8 = 0 then xorBytes (((prev.drop 1) ++ prev.take 1).map aesSub) [rcon, 0, 0, 0]
      else if i % 8 = 4 then prev.map aesSub else prev
    aesExpand n (i + 1) (if i % 8 = 0 then xtime rcon else rcon) (xorBytes (ws.getD 7 []) t :: ws)

/-- The 15 round keys of a key of 32 bytes. -/
def aesKeys (key : List Byte) : List (List Byte) :=
  let first := (List.range 8).map (fun i => (key.drop (4 * i)).take 4)
  let ws := (aesExpand 52 8 1 first.reverse).reverse
  (List.range 15).map (fun r => ((ws.drop (4 * r)).take 4).flatten)

/-- ShiftRows: columns of 4 bytes. -/
def aesShift (st : List Byte) : List Byte :=
  (List.range 16).map (fun k => st.getD (4 * ((k / 4 + k % 4) % 4) + k % 4) 0)

/-- MixColumns. -/
def aesMix (st : List Byte) : List Byte :=
  (List.range 16).map (fun k =>
    let a (r : Nat) : Byte := st.getD (4 * (k / 4) + (k + r) % 4) 0
    xtime (a 0) ^^^ xtime (a 1) ^^^ a 1 ^^^ a 2 ^^^ a 3)

/-- One block of 16 bytes under its round keys. -/
def aesBlock (keys : List (List Byte)) (block : List Byte) : List Byte :=
  let first := xorBytes block (keys.headD [])
  let mid := ((keys.drop 1).take 13).foldl (fun st k => xorBytes (aesMix (aesShift (st.map aesSub))) k) first
  xorBytes (aesShift (mid.map aesSub)) (keys.getD 14 [])

/-! ### GCM (R424), without additional data (DESIGN CHOICE, log entry 87) -/

/-- A product in GF(2^128), the coefficient of 1 in the highest bit: `v` is multiplied by x at each bit of the other. -/
def ghashMul : Nat → BitVec 128 → BitVec 128 → BitVec 128 → BitVec 128
  | 0, _, _, z => z
  | n + 1, x, v, z =>
    ghashMul n (x <<< 1) (if v.getLsbD 0 then (v >>> 1) ^^^ (0xE1#128 <<< 120) else v >>> 1) (if x.getLsbD 127 then z ^^^ v else z)

/-- A block as a number, its first byte highest. -/
def blockBits (bs : List Byte) : BitVec 128 := BitVec.ofNat 128 (ofBigEndian ((bs ++ List.replicate 16 0).take 16))

/-- GHASH of some bytes, block by block. -/
def ghash (h : BitVec 128) : Nat → List Byte → BitVec 128 → BitVec 128
  | 0, _, y => y
  | n + 1, bs, y => ghash h n (bs.drop 16) (ghashMul 128 (y ^^^ blockBits bs) h 0)

/-- Counter block `n` of an IV of 12 bytes. -/
def gcmBlock (keys : List (List Byte)) (iv : List Byte) (n : Nat) : List Byte := aesBlock keys (iv ++ bigEndian 4 n)

/-- Some bytes under the key stream of a key and an IV. -/
def gcmCrypt (key iv bs : List Byte) : List Byte :=
  let keys := aesKeys key
  xorBytes bs ((List.range ((bs.length + 15) / 16)).flatMap (fun i => gcmBlock keys iv (i + 2)))

/-- The tag of a ciphertext, its first byte lowest. -/
def gcmTag (key iv cipher : List Byte) : BitVec 128 :=
  let keys := aesKeys key
  let h := blockBits (aesBlock keys (List.replicate 16 0))
  let n := (cipher.length + 15) / 16
  let y := ghash h n cipher 0
  let t := ghashMul 128 (y ^^^ BitVec.ofNat 128 (8 * cipher.length)) h 0 ^^^ blockBits (gcmBlock keys iv 1)
  BitVec.ofNat 128 (ofBigEndian (bigEndian 16 t.toNat).reverse)

end Sys2Proof.Machine
end

