-- ==== Sys2Proof/Machine/Mailbox.lean ====
section
/-!
DEFINITION. The MMP's mailbox (16 R419, R449) and its commands 0x01 to 0x05: tenants, mapping, unmapping (02 R60), launch
queues (13 R350) and the host port's tenant (16 R412).
-/

namespace Sys2Proof.Machine

/-! ### The command area -/

/-- `n` bytes of the copied area from byte `k`, as a number. -/
def State.mbArea (s : State) (k n : Nat) : Nat := natOfBytes ((s.mbCopy.drop k).take n)

/-- `n` bytes of the payload from byte `k`. -/
def State.mb (s : State) (k n : Nat) : Nat := s.mbArea (8 + k) n

/-- A command whose LEN or fields are wrong is malformed and changes nothing (R449). -/
def State.command (s : State) (len : Nat) (ok : Bool) (act : State → State) : State :=
  if s.mbArea 4 4 = len ∧ ok = true then act s else s.mailDone 2

/-- The row of an OPCODE (Table 2 of R419); it lists none for the certificate of R443 (DESIGN CHOICE, log entry 116). -/
def rowOfOpcode (n : Nat) : Option Instr :=
  match n with
  | 0x01 => some .assignTenantToAsid
  | 0x02 => some .mapRange
  | 0x03 => some .unmapRange
  | 0x04 => some .configureLaunchQueue
  | 0x05 => some .setHostPortTenant
  | 0x10 => some .fresh
  | 0x11 => some .restore
  | 0x12 => some .checkpoint
  | 0x13 => some .retire
  | 0x14 => some .importRecord
  | 0x15 => some .keyLoad
  | _ => none

/-- The MMP takes the command of the area: it copies the area and clears DONE; an OPCODE without a row is malformed. -/
def State.takeMailbox (s : State) : Option Instr × State :=
  let area := (List.range 512).flatMap (fun i => bytesOf64 (s.reg x1 (0x72000 + 8 * i)))
  let s := { s with mbCopy := area }.setReg x1 0x73008 1
  match rowOfOpcode (s.mbArea 0 4) with
  | some i => (some i, s)
  | none => (none, s.mailDone 2)

/-- Software rings MBDOOR: ignored while BUSY. The MMP takes commands from step 7 of bring-up on (R442). -/
def State.ringDoor (s : State) : State :=
  let st := s.reg x1 0x73008
  if st.getLsbD 0 || !(s.reg x1 0x74000).getLsbD 0 then s else (s.setReg x1 0x73008 (setField st 0 0 1)).post s.ptime .mailbox

/-! ### Tenants (R46, R47) -/

/-- ASSIGN_TENANT_TO_ASID: the entry of the ASID names its tenant and is valid (DESIGN CHOICE, log entry 60). -/
def execAssignTenantToAsid (s : State) : Out :=
  .next (
    let asid := s.mb 0 2
    let tenant := s.mb 2 2
    s.command 4 (decide (asid < 2 ^ 14) && decide (tenant < 2 ^ 12)) (fun s =>
      match s.rootOf asid with
      | none => s.mailDone 1
      | some (_, s) => (s.poke64 (s.asidEntry asid) (BitVec.ofNat 64 (tenant * 2 ^ 12 + 1))).mailDone 0))

/-! ### Mapping (R449) -/

/-- The frames of one page by SRC: its physical address, and the state in which the tenant holds them. -/
def State.pageFrames (s : State) (src size phys : Nat) (tenant : BitVec 12) : Option (Nat × State) :=
  match src with
  | 0 => match s.allocFrames (size / 65536) tenant with
    | some (f, s) => some (65536 * f, s)
    | none => none
  | 1 => some (0x800000000000 + phys, s)
  | 2 => some (phys, s)
  | _ => if holdsFrom tenant.toNat ((phys + size) / 65536) s.blocks (phys / 65536) ∧ phys + size ≤ s.capacity then some (phys, s) else none

/-- The level whose leaves map pages of a PGSZ. -/
def levelOfPage (pgsz : Nat) : Nat := 4 - pgsz

/-- Page size of a PGSZ (Table 2 of R419, Table 4 of R50). -/
def sizeOfPage (pgsz : Nat) : Nat := 2 ^ (levelBits (levelOfPage pgsz)).2

/-- `n` pages are mapped from `va`; nothing where frames or tables run out. -/
def State.mapPages (root pgsz src : Nat) (rights : BitVec 4) (wt nc : Bool) (ireg tenant : BitVec 12) :
    Nat → Nat → Nat → State → Option State
  | 0, _, _, s => some s
  | n + 1, va, phys, s =>
    match s.pageFrames src (sizeOfPage pgsz) phys tenant with
    | none => none
    | some (pa, s) =>
      match s.putLeaf va (levelOfPage pgsz) (leafEntry pa rights wt nc ireg) 5 0 root with
      | none => none
      | some s => State.mapPages root pgsz src rights wt nc ireg tenant n (va + sizeOfPage pgsz) (phys + sizeOfPage pgsz) s

/-- The dispatcher is given R on pages that may hold formes, those with right X. -/
def State.admitCode (s : State) (tenant : BitVec 12) (ps : List Page) : State := s.admitPages tenant (ps.filter (fun p => p.rights.getLsbD 2))

/-- MAP_RANGE (R449). -/
def execMapRange (s : State) : Out :=
  .next (
    let asid := s.mb 0 2
    let r := s.mb 2 1
    let rights := BitVec.ofNat 4 r
    let wt := r.testBit 4
    let pgsz := s.mb 3 1
    let ireg := s.mb 4 2
    let src := s.mb 6 1
    let va := s.mb 8 8
    let size := s.mb 16 8
    let phys := s.mb 24 8
    let page := sizeOfPage pgsz
    let ok := decide (asid < 2 ^ 14) && decide (r < 64) && decide (pgsz ≤ 3) && decide (ireg < 2 ^ 12) && (wt || ireg == 0)
      && decide (src ≤ 3) && s.mb 7 1 == 0 && (src != 0 || phys == 0)
      && (!rights.getLsbD 1 || rights.getLsbD 0) && (!rights.getLsbD 3 || rights.getLsbD 1)
      && va % page == 0 && size % page == 0 && size != 0 && decide (va + size ≤ 2 ^ 57)
      && (decide (src < 2) || phys % page == 0)
      && (src != 1 || decide (phys + size ≤ 0x400000000000))
      && (src != 2 || (decide (0xC00000000000 ≤ phys) && decide (phys + size ≤ 0xE00000000000)))
    s.command 32 ok (fun s =>
      let w := s.peek64 (s.asidEntry asid)
      let tenant : BitVec 12 := w.extractLsb' 12 12
      if w.getLsbD 0 = false ∨ s.leavesIn asid va (va + size) ≠ [] then s.mailDone 1
      else match s.rootOf asid with
        | none => s.mailDone 1
        | some (root, t) =>
          match State.mapPages root pgsz src rights wt (r.testBit 5) (BitVec.ofNat 12 ireg) tenant (size / page) va phys t with
          | none => s.mailDone 1
          | some t => (t.admitCode tenant ((t.leavesIn asid va (va + size)).map pageOfLeaf)).mailDone 0))

/-! ### Unmapping (R60) -/

/-- UNMAP_RANGE (R60): checks, then step 1 and, where leases are shortened, the notices of step 2. An unmap of LEN 0, or of a range
with nothing mapped, is neither refused nor malformed (DESIGN CHOICE, log entry 104). -/
def execUnmapRange (s : State) : Out :=
  .next (
    let asid := s.mb 0 2
    let short := s.mb 4 4
    let va := s.mb 8 8
    let len := s.mb 16 8
    let ok := decide (asid < 2 ^ 14) && s.mb 2 2 == 0 && (short == 0 || decide (100 ≤ short)) && decide (va + len ≤ 2 ^ 57)
    s.command 24 ok (fun s =>
      let ps := (s.leavesIn asid va (va + len)).map pageOfLeaf
      let u : Unmap := { asid := asid, va := va, len := len, short := short, phase := 1
                         frames := ps.map (fun p => (p.pa / 65536, (p.pa + p.size) / 65536 - 1)) }
      if ps.any (fun p => decide (p.va < va) || decide (va + len < p.va + p.size)) then s.mailDone 2
      else if (s.cutFrames asid u.frames).isNone then s.mailDone 1
      else
        let (id, s) := s.fresh
        let s := s.updRevoked u (fun r => r.revoke u s.ptime)
        let some_ := s.revoked u != []
        let s := { s with unmaps := Tab.ins s.unmaps id { u with waits := if short = 0 ∨ some_ = false then 0 else 128 } }
        let s := if short = 0 ∨ some_ = false then s
          else (List.range 128).foldl (fun (s : State) c => s.soon (.clusterShortenNotice c id)) s
        let stop := (s.revoked u).foldl (fun a r => if r.2.st = .revoking then max a r.2.expiry else a) s.ptime
        s.post stop (.event (.unmapLapseReached id))))

/-! ### Launch queues (R350) -/

/-- CONFIGURE_LAUNCH_QUEUE (R350, R449): both addresses are translated under the ASID, whose tenant becomes the queue's; the
dispatcher gets its entries on the ring and the tail word. -/
def execConfigureLaunchQueue (s : State) : Out :=
  .next (
    let q := s.mb 0 1
    let fl := s.mb 1 1
    let asid := s.mb 2 2
    let log2n := s.mb 4 1
    let ring := s.mb 8 8
    let tail := s.mb 16 8
    let bytes := 2 ^ log2n * 2048
    let ok := decide (q < 64) && decide (fl < 4) && decide (asid < 2 ^ 14) && decide (log2n ≤ 12) && s.mb 5 3 == 0 && ring % 4096 == 0
      && tail % 8 == 0
      && decide (ring < 2 ^ 57) && decide (tail < 2 ^ 57)
    s.command 24 ok (fun s =>
      let en := fl % 2 == 1
      let old := s.lqcfg q
      if lqEn old = true ∨ (en = false ∧ s.lqhead q ≠ s.tailOf q) then s.mailDone 1
      else match s.walk 0 asid ring, s.walk 0 asid tail with
      | .page rp, .page tp =>
        if rp.va + rp.size < ring + bytes then s.mailDone 2
        else
          let rpa := rp.pa + (ring - rp.va)
          let tpa := tp.pa + (tail - tp.va)
          let tenant := s.tenantOf asid
          let w := fl / 2 % 2 == 1
          let entry (p : Page) (a n : Nat) : BitVec 128 :=
            mkEntry (a / 65536) ((a + n - 1) / 65536) tenant (if p.wt then 1 else 0) p.ireg true w false (p.wt && w) false
          let adds := if en then
              (targetsOf rpa).map (fun port => (port, dispatcherId.toNat, entry rp rpa bytes))
                ++ (targetsOf tpa).map (fun port => (port, dispatcherId.toNat, entry tp tpa 8))
            else []
          match s.addAll adds with
          | none => s.mailDone 1
          | some s =>
            let cfg := BitVec.ofNat 64 (tenant.toNat * 2 ^ 48 + rpa / 4096 % 2 ^ 36 * 4096 + log2n * 256 + fl)
            let s := (s.setReg x0 (0x10000 + 32 * q) cfg).setReg x0 (0x10008 + 32 * q) (BitVec.ofNat 64 (tpa / 8 * 8))
            (s.mailDone 0).soonOnce .tailPollTimer
      | r, t => ((s.walkDenied r 0).walkDenied t 0).mailDone 1))

/-- KIND and IREG of a block, as an entry of some master that covers it gives them (R71); plain memory where there is none. -/
def State.kindOfBlock (s : State) (port lo : Nat) : Nat × BitVec 12 :=
  match s.acc.find? (fun e => e.1 / 2 ^ 15 == port && e.2.getLsbD 0 && decide (entryLo e.2 ≤ lo ∧ lo ≤ entryHi e.2)
      && e.1 % 2 ^ 15 / 8 != mmpId.toNat) with
  | some e => ((e.2.extractLsb' 6 2).toNat, e.2.extractLsb' 20 12)
  | none => (0, 0)

/-- The dispatcher's entries for the ring and the tail word of a queue as its registers stand (R350): R, and W on a DEV queue. -/
def State.queueEntries (s : State) (q : Nat) : List (Nat × Nat × BitVec 128) :=
  let c := s.lqcfg q
  let w := lqDev c
  let spans : List (Nat × Nat) := [(field c 47 12 * 4096, 2048 * lqSlots c), (field (s.lqtail q) 47 3 * 8, 8)]
  spans.flatMap (fun x =>
    let lo := x.1 / 65536
    (targetsOf x.1).map (fun port =>
      let (kind, ireg) := s.kindOfBlock port lo
      (port, dispatcherId.toNat, mkEntry lo ((x.1 + x.2 - 1) / 65536) (lqTenant c) kind ireg true w false (kind == 1 && w) false)))

/-- A queue whose registers have been written: where it is enabled the dispatcher gets its entries; without room for them EN stays 0
(R350) (DESIGN CHOICE, log entry 114). -/
def State.admitQueue (s : State) (q : Nat) : State :=
  if lqEn (s.lqcfg q) = false then s
  else match s.addAll (s.queueEntries q) with
    | some s => s
    | none => s.setReg x0 (0x10000 + 32 * q) (setField (s.lqcfg q) 0 0 0)

/-! ### The host port (R412) -/

/-- SET_HOST_PORT_TENANT (R412): HPTEN changes, and with it every access-table entry of master 2193. -/
def execSetHostPortTenant (s : State) : Out :=
  .next (
    let tenant := s.mb 0 2
    s.command 4 (decide (tenant < 2 ^ 12) && s.mb 2 2 == 0) (fun s =>
      let renamed (e : BitVec 128) : BitVec 128 := (e &&& ~~~(BitVec.ofNat 128 (0xFFF * 2 ^ 8))) ||| BitVec.ofNat 128 (tenant * 2 ^ 8)
      let s := (List.range 20).foldl (fun (s : State) i => s.putEntries (16 + i) 2193 ((s.entriesOf (16 + i) 2193).map renamed)) s
      (s.setReg x0 0x14008 (BitVec.ofNat 64 tenant)).mailDone 0))

end Sys2Proof.Machine
end

