-- ==== Sys2Proof/Machine/Imprint.lean ====
section
/-!
DEFINITION. X1's imprint unit (15): counter slots and flushes (R396, R397), the proof log (R399 to R401), the counter
commands of the mailbox (R403 to R405) and attested kernels (R407 to R410).
-/

namespace Sys2Proof.Machine

/-! ### Counter slots (R396) -/

/-- The grant block B and the reserve H (R397). -/
def grantBlock : Nat := 2 ^ 36
def reserveH : Nat := 2 ^ 33

/-- Counts and ceilings saturate at 64 bits (R397) (DESIGN CHOICE, log entry 68). -/
def sat64 (n : Nat) : Nat := min n (2 ^ 64 - 1)

/-- Number of slots. -/
def slotCount : Nat := 16384

/-- The slot of a region and tenant, if it is not FREE. -/
def State.counterOf (s : State) (region tenant : BitVec 12) : Option Counter :=
  s.counters.find? (fun c => c.region == region && c.tenant == tenant)

/-- A slot changes. -/
def State.updCounter (s : State) (region tenant : BitVec 12) (f : Counter → Counter) : State :=
  { s with counters := s.counters.map (fun c => if c.region = region ∧ c.tenant = tenant then f c else c) }

/-- EPOCH and FUSEOUT of IMPST (Table 2 of R399). -/
def State.epoch (s : State) : Nat := field (s.reg x1 0x70018) 47 32
def State.fuseOut (s : State) : Bool := (s.reg x1 0x70018).getLsbD 2

/-- A slot is open to launches: one that a RETIRE waits to close is not. -/
def State.openSlot (s : State) (region tenant : BitVec 12) : Bool :=
  (match s.counterOf region tenant with
    | some c => c.st == .opened
    | none => false)
  && !s.pubs.any (fun p => p.kind == 6 && p.region == region && p.tenant == tenant)

/-! ### The log's registers (Table 2 of R399) -/

def State.plTail (s : State) : Nat := (s.reg x1 0x70008).toNat
def State.plAck (s : State) : Nat := (s.reg x1 0x70010).toNat
def State.logSlots (s : State) : Nat := 2 ^ field (s.reg x1 0x70000) 11 8
def State.logBase (s : State) : Nat := field (s.reg x1 0x70000) 47 12 * 4096

/-- IMPST follows the slots, the log and what waits. -/
def State.impst (s : State) : State :=
  let v := s.reg x1 0x70018
  let v := setField v 31 16 s.counters.length
  let v := setField v 1 1 (decide (s.plTail - s.plAck = s.logSlots)).toNat
  s.setReg x1 0x70018 (setField v 0 0 (s.pubs.any (fun p => p.kind == 4 || p.mailbox)).toNat)

/-! ### Flushes (R393, R397) -/

/-- Where the flushes of a pair wait, in their order of arrival. -/
def flushKey (region tenant : BitVec 12) : Nat := 2 ^ 50 + region.toNat * 4096 + tenant.toNat

/-- COUNT, REGION and TENANT of a flush (Table 1 of R393). -/
def flushOf (core : Nat) (m : Msg) : Nat × BitVec 12 × BitVec 12 :=
  let o := 8 * (16 * core % 128)
  ((m.data.extractLsb' o 32).toNat, m.data.extractLsb' (o + 32) 12, m.data.extractLsb' (o + 48) 12)

/-- A flush of a pair has not been completed. -/
def State.flushOut (s : State) (region tenant : BitVec 12) : Bool :=
  s.reqs.any (fun e => e.2.kind == .flush && (flushOf e.2.core { cls := 7, data := e.2.data }).2 == (region, tenant))

/-- A record that sets this slot waits: its flushes wait with it (DEDUCED, log entry 69). -/
def State.slotBusy (s : State) (region tenant : BitVec 12) : Bool :=
  s.pubs.any (fun p => (p.kind == 4 || p.kind == 7) && p.region == region && p.tenant == tenant)

/-- A request to publish a record is queued (R399). -/
def State.publish (s : State) (p : PubReq) : State := ({ s with pubs := s.pubs ++ [p] }.impst).soonOnce .proofPublish

/-- The flushes of one slot are applied one at a time, each once the ceiling covers it with the reserve; else a CEILING
record is published first (R397). -/
def State.drainFlush (region tenant : BitVec 12) : List Rx → State → State
  | [], s => { s with homeQ := Tab.del s.homeQ (flushKey region tenant) }
  | r :: rest, s =>
    let n := (flushOf r.m.master.toNat r.m).1
    let wait (s : State) : State := { s with homeQ := Tab.ins s.homeQ (flushKey region tenant) (r :: rest) }
    let done (s : State) : State := State.drainFlush region tenant rest (s.send x1 r.src (answer r.m 0x42))
    match s.counterOf region tenant with
    | none => done s
    | some c =>
      if c.st ≠ .opened then done s
      else if s.slotBusy region tenant then wait s
      else if c.ceil < c.count + n + reserveH ∧ c.ceil < 2 ^ 64 - 1 then
        (wait s).publish { kind := 4, region := region, tenant := tenant, value := c.count, ceiling := sat64 (c.ceil + grantBlock) }
      else done (s.updCounter region tenant (fun c => { c with count := sat64 (c.count + n) }))

/-- The waiting flushes of a slot go on. -/
def State.resumeFlushes (s : State) (region tenant : BitVec 12) : State :=
  match Tab.find s.homeQ (flushKey region tenant) with
  | none => s
  | some q => State.drainFlush region tenant q s

/-- IMPRINT_PORT_WRITE (R393, R397): a core's flush joins those of its slot. -/
def execImprintPortWrite (core src : Nat) (m : Msg) (s : State) : Out :=
  let (_, region, tenant) := flushOf core m
  let r : Rx := { src := src, dst := x1, m := m }
  let s := { s with homeQ := Tab.upd [] s.homeQ (flushKey region tenant) (fun q => q ++ [r]) }
  .next (s.resumeFlushes region tenant)

/-- The imprint unit's master identifier (Table 10 of R69). -/
def imprintId : BitVec 12 := 2195

/-! ### Records (R400, R401) -/

/-- `n` bytes of a number, lowest first. -/
def littleEndian (n v : Nat) : List Byte := (List.range n).map (fun i => BitVec.ofNat 8 (v / 2 ^ (8 * i)))

/-- DEVID (R443). -/
def devid : List Byte := bigEndian 48 (sha384 identityKey).toNat

/-- Bytes padded with zeros to `n`. -/
def padTo (n : Nat) (bs : List Byte) : List Byte := (bs ++ List.replicate n 0).take n

/-- Bytes 0 to 159 of a record (Table 3 of R400). -/
def State.recordBody (s : State) (p : PubReq) : List Byte :=
  [p.kind, 1, 0, 0] ++ littleEndian 2 s.epoch ++ littleEndian 2 p.region.toNat ++ littleEndian 2 p.tenant.toNat
    ++ List.replicate 6 0 ++ littleEndian 8 s.plTail ++ littleEndian 8 s.ptime ++ littleEndian 8 p.value ++ littleEndian 8 p.ceiling
    ++ devid ++ padTo 48 p.aux ++ padTo 16 p.aux2

/-- The record with its signature. -/
def signedRecord (body : List Byte) : List Byte :=
  let (r, s) := ecSign (sha384 body)
  body ++ bigEndian 48 r ++ bigEndian 48 s

/-- A request whose record may be written now: a RETIRE waits for its pair's flushes (R403). -/
def State.recordReady (s : State) (p : PubReq) : Bool := p.kind != 6 || !s.flushOut p.region p.tenant

/-- The value and ceiling of a record that reports its slot, as they are when it is written. -/
def State.filled (s : State) (p : PubReq) : PubReq :=
  if p.kind = 5 ∨ p.kind = 6 then
    match s.counterOf p.region p.tenant with
    | some c => { p with value := c.count, ceiling := c.ceil }
    | none => p
  else p

/-- PROOF_PUBLISH (R399): the oldest request that may be written is written to the log, where EN = 1, the log has room and
no epoch is out of fuses; PLTAIL follows when the write is complete. -/
def execProofPublish (s : State) : Out :=
  .next (
    if s.fuseOut || !(s.reg x1 0x70000).getLsbD 0 || decide (s.logSlots ≤ s.plTail - s.plAck)
      || s.io.any (fun e => e.2.kind == .record) then s
    else match s.pubs.find? s.recordReady with
    | none => s
    | some p =>
      let q := s.filled p
      let s := { s with pubs := q :: s.pubs.erase p }
      (s.ioWrite x1 { kind := .record } imprintId 0 (s.logBase + 256 * (s.plTail % s.logSlots)) (signedRecord (s.recordBody q))).2)

/-- What a published record lets happen (Table 4 of R401). -/
def State.published (s : State) (p : PubReq) : State :=
  match p.kind.toNat with
  | 2 => { s with counters := s.counters ++ [{ region := p.region, tenant := p.tenant, ceil := p.ceiling, st := .opened }] }
  | 3 => { s with counters := s.counters ++ [
      { region := p.region, tenant := p.tenant, count := p.value, ceil := p.ceiling, st := .opened }] }
  | 4 => s.updCounter p.region p.tenant (fun c => { c with ceil := p.ceiling })
  | 6 => s.updCounter p.region p.tenant (fun c => { c with st := .closed })
  | 7 =>
    let s := { s with imported := s.imported ++ [p.aux ++ p.aux2] }
    if (s.counterOf p.region p.tenant).isSome then
      s.updCounter p.region p.tenant (fun c => { c with count := p.value, ceil := p.ceiling })
    else { s with counters := s.counters ++ [
      { region := p.region, tenant := p.tenant, count := p.value, ceil := p.ceiling, st := .opened }] }
  | 8 => match p.launch with
    | some k => (s.updLaunch k (fun l => if l.phase = .verify then { l with phase := .ready } else l)).soonOnce .dispatchChoose
    | none => s
  | 9 => { s with signers := Tab.ins s.signers (s.mb 0 1) ((s.mbCopy.drop 12).take 97) }
  | _ => s

/-- The write of a record is complete (R397, R399): PLTAIL advances, and what waited for it goes on. -/
def State.recordWritten (s : State) : State :=
  match s.pubs with
  | [] => s
  | p :: rest =>
    let s := { s with pubs := rest }.setReg x1 0x70008 (s.reg x1 0x70008 + 1)
    let s := s.published p
    let s := if p.mailbox then s.mailDone 0 else s
    (s.resumeFlushes p.region p.tenant).impst.soonOnce .proofPublish

/-- PLACK_WRITE (R399). -/
def execPlackWrite (v : BitVec 64) (s : State) : Out :=
  .next (if v.toNat < s.plAck ∨ s.plTail < v.toNat then s else ((s.setReg x1 0x70010 v).impst).soonOnce .proofPublish)

/-- Frames become tenant 0's: each one that the MMP has not given out is zeroed and held from now on (R49, R399). -/
def State.holdForMmp (s : State) (lo hi : Nat) : State :=
  (List.range (hi + 1 - lo)).foldl (fun (s : State) i =>
    let f := lo + i
    if holdsFrom 0 (f + 1) s.blocks f then s
    else { s.zeroFrames f 1 with frames := Tab.ins s.frames f (4096 + 8192) }) s

/-- The log's ring may stand in some frames: device memory outside the MMP's tables that no tenant holds but tenant 0 (R399). -/
def State.ringFits (s : State) (lo hi : Nat) : Bool :=
  decide (65536 * (hi + 1) ≤ s.capacity) && (decide (hi < s.poolBase) || decide (s.poolBase + tablePool ≤ lo))
    && s.blocks.all (fun b => decide (b.1 + b.2.1 ≤ lo) || decide (hi < b.1) || b.2.2.1 == 0)

/-- PLCFG_WRITE (R399): EN; BASE and LOG2N only while EN = 0. As the log comes into use its frames are tenant 0's, the imprint unit gets
W on the ring and the host port R; where the ring cannot stand there, or the entries have no room, EN stays 0 (DESIGN CHOICE, log entry
72). -/
def execPlcfgWrite (v : BitVec 64) (s : State) : Out :=
  .next (
    let old := s.reg x1 0x70000
    let n := if old.getLsbD 0 then old else setField (setField old 47 12 (field v 47 12)) 11 8 (max 4 (field v 11 8))
    let t := s.setReg x1 0x70000 (setField n 0 0 (field v 0 0))
    let lo := t.logBase / 65536
    let hi := (t.logBase + 256 * t.logSlots - 1) / 65536
    let host : BitVec 12 := (s.reg x0 0x14008).extractLsb' 0 12
    let grants := (targetsOf t.logBase).flatMap (fun port =>
      [(port, imprintId.toNat, mkEntry lo hi 0 0 0 false true false false false),
       (port, 2193, mkEntry lo hi host 0 0 true false false false false)])
    let s := if old.getLsbD 0 = false ∧ v.getLsbD 0 = true then
        match (if s.ringFits lo hi then (t.holdForMmp lo hi).addAll grants else none) with
        | some u => u
        | none => s.setReg x1 0x70000 (setField n 0 0 0)
      else t
    s.impst.soonOnce .proofPublish)

/-! ### Counter commands (R403) -/

/-- A command publishes its record before it reports success. -/
def State.publishFor (s : State) (p : PubReq) : State := s.publish { p with mailbox := true }

/-- The pair a command of 4 bytes names. -/
def State.mbPair (s : State) : BitVec 12 × BitVec 12 := (BitVec.ofNat 12 (s.mb 0 2), BitVec.ofNat 12 (s.mb 2 2))

/-- Its fields lie in their range. -/
def State.mbPairOk (s : State) : Bool := decide (s.mb 0 2 < 4096) && decide (s.mb 2 2 < 4096)

/-- FRESH (Table 5 of R403). -/
def execFresh (s : State) : Out :=
  .next (s.command 4 s.mbPairOk (fun s =>
    let (g, t) := s.mbPair
    if s.fuseOut || (s.counterOf g t).isSome || decide (slotCount ≤ s.counters.length) then s.mailDone 1
    else s.publishFor { kind := 2, region := g, tenant := t, ceiling := grantBlock }))

/-- CHECKPOINT (Table 5 of R403). -/
def execCheckpoint (s : State) : Out :=
  .next (s.command 4 s.mbPairOk (fun s =>
    let (g, t) := s.mbPair
    if s.fuseOut || !s.openSlot g t then s.mailDone 1 else s.publishFor { kind := 5, region := g, tenant := t }))

/-- RETIRE (Table 5 of R403): every core flushes; the record waits for the pair's flushes. -/
def execRetire (s : State) : Out :=
  .next (s.command 4 s.mbPairOk (fun s =>
    let (g, t) := s.mbPair
    let runs := s.launches.any (fun e => e.2.phase != .complete && e.2.tenant == t && (s.meteredRegions e.2).contains g)
    if s.fuseOut || !s.openSlot g t || runs then s.mailDone 1
    else
      let s := (s.cores.map (·.1)).foldl (fun (s : State) c => s.flushCount c) s
      s.publishFor { kind := 6, region := g, tenant := t }))

/-- A record (Table 3 of R400) in the payload. -/
structure Rec where
  kind : Nat
  epoch : Nat
  region : BitVec 12
  tenant : BitVec 12
  seq : Nat
  value : Nat
  ceiling : Nat
  devid : List Byte
  digest : BitVec 384
  r : Nat
  s : Nat
  deriving DecidableEq, Repr

/-- The record at the head of the payload. -/
def State.mbRecord (s : State) : Rec :=
  let bs := (s.mbCopy.drop 8).take 256
  let n (k len : Nat) : Nat := natOfBytes ((bs.drop k).take len)
  { kind := n 0 1, epoch := n 4 2, region := BitVec.ofNat 12 (n 6 2), tenant := BitVec.ofNat 12 (n 8 2), seq := n 16 8, value := n 32 8
    ceiling := n 40 8, devid := (bs.drop 48).take 48, digest := sha384 (bs.take 160), r := ofBigEndian ((bs.drop 160).take 48)
    s := ofBigEndian ((bs.drop 208).take 48) }

/-- A signature that verifies under this module's identity key. -/
def ownSignature (d : BitVec 384) (r s : Nat) : Bool := ecVerify identityKey d r s

/-- AUX2 that names a source record (R401). -/
def sourceOf (r : Rec) : List Byte := littleEndian 2 r.epoch ++ List.replicate 6 0 ++ littleEndian 8 r.seq

/-- RESTORE (Table 5 of R403). -/
def execRestore (s : State) : Out :=
  .next (s.command 256 true (fun s =>
    let r := s.mbRecord
    let ok := !s.fuseOut && r.devid == devid && ownSignature r.digest r.r r.s && decide (r.epoch < s.epoch)
      && decide (2 ≤ r.kind ∧ r.kind ≤ 5) && (s.counterOf r.region r.tenant).isNone && decide (s.counters.length < slotCount)
    if ok then
      s.publishFor { kind := 3, region := r.region, tenant := r.tenant, value := r.ceiling, ceiling := sat64 (r.ceiling + grantBlock)
                     aux2 := sourceOf r }
    else s.mailDone 1))

/-- Bytes of the payload. -/
def State.mbBytes (s : State) (k n : Nat) : List Byte := (s.mbCopy.drop (8 + k)).take n

/-- The fleet public key at an offset is the fused one and signs a message with the certificate at another (R405, R449) (DEDUCED, log entry 71). -/
def State.certified (s : State) (key cert : Nat) (message : List Byte) : Bool :=
  sha384 (s.mbBytes key 97) == Config.fleetHash
    && ecVerify (s.mbBytes key 97) (sha384 message) (ofBigEndian (s.mbBytes cert 48)) (ofBigEndian (s.mbBytes (cert + 48) 48))

/-- IMPORT (R405). -/
def execImportRecord (s : State) : Out :=
  .next (s.command 552 (s.mb 353 3 == 0 && s.mb 453 3 == 0) (fun s =>
    let r := s.mbRecord
    let src := s.mbBytes 356 97
    let v := if r.kind = 6 then r.value else r.ceiling
    let id := r.devid ++ sourceOf r
    let here := s.counterOf r.region r.tenant
    let free := match here with
      | none => decide (s.counters.length < slotCount)
      | some c => c.st == .opened
    let ok := !s.fuseOut && (r.kind == 6 || r.kind == 4) && s.certified 256 456 r.devid
      && bigEndian 48 (sha384 src).toNat == r.devid && ecVerify src r.digest r.r r.s && r.devid != devid && !s.imported.contains id && free
    if ok then
      let count := match here with
        | none => v
        | some c => sat64 (c.count + v)
      s.publishFor { kind := 7, region := r.region, tenant := r.tenant, value := count, ceiling := sat64 (count + grantBlock)
                     aux := r.devid, aux2 := sourceOf r }
    else s.mailDone 1))

/-- KEY (R407). -/
def execKeyLoad (s : State) : Out :=
  .next (s.command 300 (decide (s.mb 0 1 < 64) && s.mb 1 3 == 0 && s.mb 101 3 == 0 && s.mb 201 3 == 0) (fun s =>
    let h := bigEndian 48 (sha384 (s.mbBytes 4 97)).toNat
    if !s.fuseOut && s.certified 104 204 h then
      s.publishFor { kind := 9, aux := h, aux2 := List.replicate 10 0 ++ littleEndian 1 (s.mb 0 1) }
    else s.mailDone 1))

/-! ### Attested kernels (R407 to R410) -/

/-- Reads for a launch's verification. -/
def verifyOwner (launch : Nat) : Nat := 2 ^ 80 + launch

/-- The blocks of the pages that map a range of an ASID. -/
def State.blocksOf (s : State) (asid va n : Nat) : List (Nat × Nat) :=
  (((s.leavesIn asid va (va + n)).map pageOfLeaf).map (fun p => (p.pa / 65536, (p.pa + p.size) / 65536 - 1))).eraseDups

/-- The seal of a forme (R408): where it stands. -/
def Forme.sealAt (f : Forme) : Nat := alignUp (f.va.toNat + 64 + 2 * f.order.length) 64

/-- A seal that keeps to Table 6 of R408 (DEDUCED, log entry 66). -/
def sealOk (bs : List Byte) : Bool :=
  let len := natOfBytes (bs.take 8)
  len % 4 == 0 && decide (4 ≤ len) && decide (len ≤ 2 ^ 24) && decide (natOfBytes ((bs.drop 8).take 1) < 64)
    && natOfBytes ((bs.drop 9).take 7) == 0

/-- The launch fails its verification. -/
def State.refuseKernel (s : State) (k : Nat) : State := (s.dropReads (verifyOwner k)).completeLaunch k 6

/-- KERNEL_VERIFY (R396, R402, R408 to R410): a launch that is metered for a pair without an open slot, or metered and not
attested, completes with status 6. For an attested one X1 reads code and image through the launch's ASID and checks the seal;
a MEASURE record then precedes readiness. -/
def execKernelVerify (launch : Nat) (s : State) : Out :=
  .next (
    match Tab.find s.launches launch with
    | none => s
    | some l =>
      let o := verifyOwner launch
      let f := l.forme
      let read (s : State) (va n : Nat) : ReadEnd × State := s.virtualRead o x1 mmpId.toNat l.asid 0 false va n
      let regions := s.meteredRegions l
      if l.phase ≠ .verify ∨ s.pubs.any (fun p => p.launch == some launch) then s
      else if regions.any (fun g => !s.openSlot g l.tenant) || (regions != [] && !f.att) || (f.att && s.fuseOut) then
        s.refuseKernel launch
      else if f.att = false then (s.updLaunch launch (fun l => { l with phase := .ready })).soonOnce .dispatchChoose
      else match read s f.sealAt 160 with
      | (.wait, s) => s.later 10 (.kernelVerify launch)
      | (.bad, s) => s.refuseKernel launch
      | (.ok bs, s) =>
        let len := natOfBytes (bs.take 8)
        let idx := natOfBytes ((bs.drop 8).take 1)
        let meas := (bs.drop 16).take 48
        if sealOk bs = false then s.refuseKernel launch
        else
          let image := if f.tcimg = 0 then [] else s.blocksOf l.asid f.tcimg.toNat 4096
          let s := s.updLaunch launch (fun l => { l with measured := s.blocksOf l.asid f.code.toNat len ++ image })
          match read s f.code.toNat len with
          | (.wait, s) => s.later 10 (.kernelVerify launch)
          | (.bad, s) => s.refuseKernel launch
          | (.ok code, s) =>
            match (if f.tcimg = 0 then (.ok (List.replicate 4096 0), s) else read s f.tcimg.toNat 4096 : ReadEnd × State) with
            | (.wait, s) => s.later 10 (.kernelVerify launch)
            | (.bad, s) => s.refuseKernel launch
            | (.ok img, s) =>
              let key := Tab.get [] s.signers idx
              let good := meas == bigEndian 48 (sha384 (code ++ img)).toNat
                && ecVerify key (BitVec.ofNat 384 (ofBigEndian meas)) (ofBigEndian ((bs.drop 64).take 48)) (ofBigEndian ((bs.drop 112).take 48))
              if good then
                (s.dropReads o).publish
                  { kind := 8, tenant := l.tenant, aux := meas, launch := some launch
                    aux2 := littleEndian 8 l.tag ++ littleEndian 2 l.asid ++ littleEndian 1 idx }
              else s.refuseKernel launch)

end Sys2Proof.Machine
end

