-- ==== Sys2Proof/Machine/HostPort.lean ====
section
/-!
DEFINITION. X0 as the host port (16 R412 to R418): host accesses to device memory, and host memory reached by the device.
-/

namespace Sys2Proof.Machine

/-! ### The host's accesses to device memory (R414, R416) -/

/-- The host port's master identifier (Table 10 of R69). -/
def hostId : BitVec 12 := 2193

/-- HPTEN.TENANT (R412). -/
def State.hostTenant (s : State) : BitVec 12 := (s.reg x0 0x14008).extractLsb' 0 12

/-- X0 sends something on the host link. -/
def State.toHost (s : State) (t : HostTlp) : State := { s with hostOut := s.hostOut ++ [t] }

/-- The 64 bytes of a line at half `h`. -/
def halfOf (l : Line) (h : Nat) : BitVec 512 := l.extractLsb' (512 * h) 512

/-- A MemRd that is denied, or beyond the capacity: all ones, poisoned. -/
def State.memRdDenied (s : State) (tag : Nat) : State := s.toHost (.memRdData tag (BitVec.allOnes 512) true)

/-- CXL_MEMRD (R414). -/
def execCxlMemrd (off tag : Nat) (s : State) : Out :=
  .next (
    if s.capacity ≤ off then (s.recordDenial x0 .read hostId.toNat off).memRdDenied tag
    else
      let (id, s) := s.fresh
      let op : IoOp := { kind := .memRd (off / 64 % 2), tag := tag, left := 1, issued := s.ptime }
      let s := { s with io := Tab.ins s.io id op }
      s.sendTx x0 (s.homeOf off) 0x06 (off / 128) id 0 { cls := 0, master := hostId, tenant := s.hostTenant })

/-- CXL_MEMWR (R414, R416) (DEDUCED, log entry 67). -/
def execCxlMemwr (off tag : Nat) (data : BitVec 512) (s : State) : Out :=
  .next (
    if s.capacity ≤ off then s.recordDenial x0 .write hostId.toNat off
    else
      let h := off / 64 % 2
      let (id, s) := s.fresh
      let op : IoOp := { kind := .memWr, tag := tag, left := 1, issued := s.ptime }
      let s := { s with io := Tab.ins s.io id op }
      s.sendTx x0 (s.homeOf off) 0x07 (off / 128) id 0
        { cls := 0, master := hostId, tenant := s.hostTenant, mask := bytesMask (64 * h) 64
          data := data.zeroExtend 1024 <<< (512 * h) })

/-! ### Host memory reached by the device (R417, R418) -/

def State.hmcfg (s : State) : Dword := s.reg x0 0x14000

/-- The bus address of a physical address of the host range (R417). -/
def State.busOf (s : State) (pa : Nat) : Nat := pa - 0x800000000000 + field s.hmcfg 63 16 * 65536

/-- The code of a PCI Express AtomicOp for an operation (R418): FetchAdd, Swap, CAS. -/
def busAtomic (op : Nat) : Option Nat :=
  match op with
  | 0 => some 0
  | 6 => some 1
  | 7 => some 2
  | _ => none

/-- X0 holds the lock on a host line (R418). -/
def State.hostLocked (s : State) (ln : Nat) : Bool :=
  s.io.any (fun e => e.2.kind == .hostRmw && (match e.2.m with
    | some m => m.line.toNat == ln
    | none => false))

/-- A request that the checks permit is performed (R417, R418). -/
def State.hostServe (s : State) (r : Rx) : State :=
  let bus := s.busOf (128 * r.m.line.toNat)
  let waitFor (s : State) (k : IoKind) (tlp : Nat → HostTlp) : State :=
    let (id, s) := s.fresh
    let op : IoOp := { kind := k, tag := r.m.tag.toNat, src := r.src, m := some r.m, left := 1, issued := s.ptime }
    { s with io := Tab.ins s.io id op }.toHost (tlp id)
  match r.m.cls.toNat with
  | 0x07 => (s.toHost (.write bus r.m.data r.m.mask)).send x0 r.src (answer r.m 0x42)
  | 0x09 => s.send x0 r.src (answer r.m 0x42)
  | 0x0A =>
    let a := amoArgs r.m.data
    match (if s.hmcfg.getLsbD 1 && decide (a.type < 4) then busAtomic a.op else none) with
    | some op => waitFor s .hostAtomic (fun id => .atomic id (bus + a.off) op (amoSize a.type) a.opa a.opb)
    | none => waitFor s .hostRmw (fun id => .read id bus)
  | _ => waitFor s .hostRead (fun id => .read id bus)

/-- Requests that waited for the lock of a line go on. -/
def State.hostDrain (ln : Nat) : List Rx → State → State
  | [], s => { s with homeQ := Tab.del s.homeQ ln }
  | r :: rest, s =>
    if s.hostLocked ln then { s with homeQ := Tab.ins s.homeQ ln (r :: rest) } else State.hostDrain ln rest (s.hostServe r)

/-- A request of the device to host memory at X0: checked (R67, R418), and held while its line is locked. -/
def State.hostRequest (s : State) (r : Rx) : State :=
  let ln := r.m.line.toNat
  match askOf r.m.cls.toNat with
  | none => s.deny x0 .read r
  | some k =>
    if spaceOf (128 * ln) ≠ Space.host ∨ s.hmcfg.getLsbD 0 = false
        ∨ (s.permits x0 r.m.master.toNat r.m.tenant (128 * ln) k).isNone = true then s.deny x0 k r
    else if r.m.cls.toNat = 0x0A ∧ amoLegal (amoArgs r.m.data) = false then
      (s.protocolError x0).send x0 r.src (answer r.m 0x45)
    else if s.hostLocked ln then { s with homeQ := Tab.upd [] s.homeQ ln (· ++ [r]) }
    else s.hostServe r

/-- HOST_READ_COMPLETION (R417, R418): the data of a read; or X0 performs the atomic and writes the line's changed bytes. -/
def execHostReadCompletion (id : Nat) (data : BitVec 1024) (s : State) : Out :=
  .next (
    match Tab.find s.io id with
    | none => s
    | some op => match op.kind, op.m with
      | .hostRead, some m => { s with io := Tab.del s.io id }.send x0 op.src { answer m 0x40 with data := data }
      | .hostRmw, some m =>
        let a := amoArgs m.data
        let (new, old, fl, _) := amoLine data a
        let ln := m.line.toNat
        let s := { s with io := Tab.del s.io id }.toHost (.write (s.busOf (128 * ln)) new (bytesMask a.off (amoSize a.type)))
        State.hostDrain ln (Tab.get [] s.homeQ ln)
          (s.send x0 op.src { answer m 0x44 with aux := auxOfFlags fl, data := BitVec.ofNat 1024 old })
      | _, _ => s)

/-- HOST_ATOMICOP_COMPLETION (R418). -/
def execHostAtomicopCompletion (id : Nat) (old : BitVec 64) (s : State) : Out :=
  .next (
    match Tab.find s.io id with
    | none => s
    | some op => match op.kind, op.m with
      | .hostAtomic, some m =>
        { s with io := Tab.del s.io id }.send x0 op.src { answer m 0x44 with data := old.zeroExtend 1024 }
      | _, _ => s)

end Sys2Proof.Machine
end

