-- ==== Sys2Proof/Machine/Links.lean ====
section
/-!
DEFINITION. The scale-up links (16 R420 to R426): peer windows, frames and their keys, requests to and from peers, and the
atomic cache.
-/

namespace Sys2Proof.Machine

/-! ### A link's registers (Table 3 of R426) -/

/-- The chiplet of a link: X2 for links 0 to 5, X3 for the others (R420). -/
def linkPort (link : Nat) : Nat := if link < 6 then 34 else 35

/-- LKCTL of a link. -/
def lkctlOff (link : Nat) : Nat := 0x21000 + 8 * (link % 6)
def State.lkctl (s : State) (link : Nat) : Dword := s.reg (linkPort link) (lkctlOff link)
def State.setLkctl (s : State) (link : Nat) (v : Dword) : State := s.setReg (linkPort link) (lkctlOff link) v

/-- TXK, VALk and INUSEk. -/
def txk (v : Dword) : Nat := field v 1 1
def valOf (v : Dword) (k : Nat) : Bool := v.getLsbD (2 + k)
def inUse (v : Dword) (k : Nat) : Bool := v.getLsbD (4 + k)

/-- The state of a link's transmitter and receiver. -/
def State.link (s : State) (l : Nat) : LinkState := Tab.get {} s.links l
def State.updLink (s : State) (l : Nat) (f : LinkState → LinkState) : State := { s with links := Tab.upd {} s.links l f }

/-! ### Frames (R424, R425) -/

/-- A message's flits as bytes (DESIGN CHOICE, log entry 44). -/
def bytesOfMsg (m : Msg) : List Byte :=
  (msgBodies m).flatMap (fun b => (List.range 32).map (fun k => b.2.extractLsb' (8 * k) 8))

/-- The message of such bytes. -/
def msgOfBytes (bs : List Byte) : Msg :=
  { ofHeader (BitVec.ofNat 256 (natOfBytes (bs.take 32))) with data := BitVec.ofNat 1024 (natOfBytes ((bs.drop 32).take 128)) }

/-- The bytes of a key, and of the IV of a frame: the salt, then the counter (R424), each little-endian (R11) (DEDUCED, log entry 87). -/
def keyBytes (key : BitVec 256) : List Byte := littleEndian 32 key.toNat
def ivBytes (salt : BitVec 32) (counter : BitVec 64) : List Byte := littleEndian 4 salt.toNat ++ littleEndian 8 counter.toNat

/-- Bytes under the key stream of a key, salt and counter (R424). -/
def keyed (key : BitVec 256) (salt : BitVec 32) (counter : BitVec 64) (bs : List Byte) : List Byte :=
  gcmCrypt (keyBytes key) (ivBytes salt counter) bs

/-- The tag of a frame's ciphertext (R424). -/
def frameTag (key : BitVec 256) (salt : BitVec 32) (counter : BitVec 64) (cipher : List Byte) : BitVec 128 :=
  gcmTag (keyBytes key) (ivBytes salt counter) cipher

/-- A slot may send new frames: it holds a key and its counter has not reached 2^48 (R424). -/
def State.slotSends (s : State) (l k : Nat) : Bool :=
  valOf (s.lkctl l) k && !(s.link l).exhausted.getLsbD k && decide (Tab.get 0 (s.link l).counter k < 2 ^ 48)

/-- INUSE follows the replay buffer; a slot that falls out of use and is not TXK is retired at the receiver (R425). -/
def State.usedSlots (s : State) (l : Nat) : State :=
  let v := s.lkctl l
  let used (k : Nat) : Bool := (s.link l).replay.any (fun f => f.kidx.toNat == k)
  let gone := (List.range 2).filter (fun k => inUse v k && !used k && k != txk v)
  (s.setLkctl l (setField (setField v 4 4 (used 0).toNat) 5 5 (used 1).toNat)).updLink l (fun x =>
    { x with notices := x.notices ++ gone })

/-- A new frame is sent under slot TXK (R424, R425). -/
def State.sendFrame (s : State) (l modid : Nat) (bs : List Byte) : State :=
  let x := s.link l
  let k := txk (s.lkctl l)
  let key := Tab.get 0 x.key k
  let salt := Tab.get 0 x.salt k
  let c := Tab.get 0 x.counter k
  let cipher := keyed key salt (BitVec.ofNat 64 c) bs
  let f : LinkFrame :=
    { modid := BitVec.ofNat 16 modid, kidx := BitVec.ofNat 1 k, counter := BitVec.ofNat 64 c, seq := x.nextSeq, cipher := cipher
      tag := frameTag key salt (BitVec.ofNat 64 c) cipher }
  let s := s.updLink l (fun x =>
    { x with counter := Tab.ins x.counter k (c + 1), nextSeq := x.nextSeq + 1, replay := x.replay ++ [f], out := x.out ++ [f] })
  let s := if c + 1 = 2 ^ 48 then s.soon (.keyCounterExhausted l k) else s
  s.usedSlots l

/-- Frames that wait are sent while the link is up and its slot may send. A waiting frame begins with the module
identifier it goes to. -/
def State.drainLink (l : Nat) : List (List Byte) → State → State
  | [], s => s.updLink l (fun x => { x with waiting := [] })
  | w :: ws, s =>
    if (s.lkctl l).getLsbD 0 && s.slotSends l (txk (s.lkctl l)) then
      State.drainLink l ws (s.sendFrame l (natOfBytes (w.take 2)) (w.drop 2))
    else s.updLink l (fun x => { x with waiting := w :: ws })

/-- The waiting frames of a link go on. -/
def State.flushLink (s : State) (l : Nat) : State := State.drainLink l (s.link l).waiting s

/-- A message goes to a module over a link. -/
def State.linkSend (s : State) (l modid : Nat) (m : Msg) : State :=
  (s.updLink l (fun x => { x with waiting := x.waiting ++ [littleEndian 2 modid ++ bytesOfMsg m] })).flushLink l

/-! ### Requests to peers (R421, R423) -/

/-- NDATA of a message by its class (R107). -/
def withFlits (m : Msg) : Msg :=
  let n := m.cls.toNat
  { m with ndata := if n = 0x07 ∨ n = 0x40 then 4 else if n = 0x0A ∨ n = 0x44 then 1 else 0 }

/-- The tag of an operation on a link. -/
def ioTag (id : Nat) : BitVec 16 := BitVec.ofNat 16 id

/-- A request for a peer goes out on a link (R420, R421): PA[40:0] is the address there. -/
def State.sendPeer (s : State) (id : Nat) (op : IoOp) (l : Nat) : State :=
  match op.m with
  | none => s
  | some m =>
    let pm := s.reg op.tag (0x20000 + 8 * (128 * m.line.toNat / 2 ^ 41 % 16))
    s.linkSend l (field pm 63 48) (withFlits { m with tag := ioTag id, line := BitVec.ofNat 41 (m.line.toNat % 2 ^ 34) })

/-- A request to a peer window at X2 or X3: denied where the window is not mapped (R420) or the access table does not permit
it; else sent to the peer (R421). -/
def State.peerRequest (s : State) (r : Rx) : State :=
  let pa := 128 * r.m.line.toNat
  match askOf r.m.cls.toNat with
  | none => s.deny r.dst .read r
  | some k =>
    let pm := s.reg r.dst (0x20000 + 8 * (pa / 2 ^ 41 % 16))
    match s.linkFor pa with
    | none => s.deny r.dst k r
    | some l =>
      if spaceOf pa ≠ Space.peer ∨ pm.getLsbD 0 = false ∨ (s.permits r.dst r.m.master.toNat r.m.tenant pa k).isNone = true then
        s.deny r.dst k r
      else
        let (id, s) := s.fresh
        let op : IoOp := { kind := .peerOut l, tag := r.dst, src := r.src, m := some r.m, left := 1, issued := s.ptime }
        { s with io := Tab.ins s.io id op }.sendPeer id op l

/-- The peer has answered a request: the requester gets the answer under its own tag and line (R421, R422). -/
def State.peerAnswer (s : State) (m : Msg) : State :=
  match s.io.find? (fun e => match e.2.kind with
      | .peerOut _ => ioTag e.1 == m.tag
      | _ => false) with
  | none => s
  | some (id, op) => match op.m with
    | none => s
    | some q => { s with io := Tab.del s.io id }.send op.tag op.src { m with tag := q.tag, line := q.line }

/-! ### Requests from peers (R422, R423) -/

/-- Entries of an ingress chiplet's atomic cache, and how long one stands after completion, in ns. -/
def atomMax : Nat := 256
def alease : Nat := 50000

/-- Classes entered in the atomic cache (DEDUCED, log entry 74). -/
def entered (cls : BitVec 8) : Bool := cls.toNat == 0x07 || cls.toNat == 0x09 || cls.toNat == 0x0A

/-- An answer goes back to the peer. -/
def State.answerPeer (s : State) (l modid : Nat) (m : Msg) : State := s.linkSend l modid (withFlits m)

/-- Requests that wait at an ingress chiplet, oldest first. -/
def State.heldAt (s : State) (p : Nat) : List (Nat × IoOp) :=
  s.io.filter (fun e => match e.2.kind with
    | .peerHeld l _ => linkPort l == p
    | _ => false)

/-- A request waits at the ingress: a write or atomic while the atomic cache is full or older ones wait (R423); any while an older one
of its line waits, since the requests of a line stay in order (R421). -/
def State.mustHold (s : State) (p : Nat) (held : List (Nat × IoOp)) (m : Msg) : Bool :=
  (entered m.cls && (decide (atomMax ≤ (s.atoms.filter (fun a => a.port == p)).length) || held != []))
  || held.any (fun e => match e.2.m with
    | some q => q.line == m.line
    | none => false)

/-- A peer's request is entered where it writes, and issued to its home as master 2196 + l. -/
def State.ingressNow (s : State) (l modid : Nat) (m : Msg) : State :=
  let p := linkPort l
  let (id, s) := s.fresh
  let op : IoOp := { kind := .peerIn l modid, tag := m.tag.toNat, m := some m, left := 1, issued := s.ptime }
  let s := { s with io := Tab.ins s.io id op }
  let a : AtomEntry := { port := p, modid := modid, tag := m.tag.toNat }
  let s := if entered m.cls then { s with atoms := s.atoms ++ [a] } else s
  s.sendTx p (s.targetOf (128 * m.line.toNat)) m.cls m.line.toNat id 0 { m with master := BitVec.ofNat 12 (2196 + l) }

/-- A peer's request that is not a repetition: checked as master 2196 + l, and issued or held (DEDUCED, log entry 73). -/
def State.ingress (s : State) (l modid : Nat) (m : Msg) : State :=
  let p := linkPort l
  let pa := 128 * m.line.toNat
  match askOf m.cls.toNat with
  | none => s.answerPeer l modid (answer m 0x45)
  | some k =>
    if s.capacity ≤ pa ∨ (s.permits p (2196 + l) m.tenant pa k).isNone = true then
      (s.recordDenial p k (2196 + l) pa).answerPeer l modid (answer m 0x45)
    else if s.mustHold p (s.heldAt p) m then
      let (id, s) := s.fresh
      let op : IoOp := { kind := .peerHeld l modid, m := some m, issued := s.ptime }
      { s with io := Tab.ins s.io id op }
    else s.ingressNow l modid m

/-- The requests that wait go on in their order, as far as they can. -/
def State.releaseHeld (p : Nat) : List (Nat × IoOp) → List (Nat × IoOp) → State → State
  | [], _, s => s
  | e :: es, kept, s => match e.2.kind, e.2.m with
    | .peerHeld l d, some m =>
      if s.mustHold p kept m then State.releaseHeld p es (kept ++ [e]) s
      else State.releaseHeld p es kept ({ s with io := Tab.del s.io e.1 }.ingressNow l d m)
    | _, _ => State.releaseHeld p es kept s

/-- A request that came before and waits still. -/
def State.heldFor (s : State) (modid : Nat) (m : Msg) : Option (Nat × Nat × IoOp) :=
  s.io.findSome? (fun e => match e.2.kind, e.2.m with
    | .peerHeld l d, some q => if d = modid ∧ q.tag = m.tag ∧ q.cls = m.cls then some (e.1, l, e.2) else none
    | _, _ => none)

/-- PEER_INGRESS_REQUEST (R422, R423): a repeated write or atomic is answered from its entry and not performed again; while
the first is still in progress or waits, its answer takes the link of the repetition. -/
def execPeerIngressRequest (link modid : Nat) (m : Msg) (s : State) : Out :=
  .next (
    match s.atoms.find? (fun a => entered m.cls && a.modid == modid && a.tag == m.tag.toNat) with
    | some a => match a.reply with
      | some r => s.answerPeer link modid r
      | none => { s with io := s.io.map (fun (e : Nat × IoOp) => match e.2.kind with
          | .peerIn _ d => if d = modid ∧ e.2.tag = m.tag.toNat then (e.1, { e.2 with kind := .peerIn link modid }) else e
          | _ => e) }
    | none => match s.heldFor modid m with
      | none => s.ingress link modid m
      | some (id, l, op) =>
        if linkPort l = linkPort link then { s with io := Tab.ins s.io id { op with kind := .peerHeld link modid } }
        else { s with io := Tab.del s.io id }.ingress link modid m)

/-- The home has answered a peer's request: the answer is entered and sent (R423). -/
def State.ingressAnswer (s : State) (l modid : Nat) (q m : Msg) : State :=
  let r := { m with tag := q.tag, line := q.line }
  let stop := s.ptime + alease
  let mine (a : AtomEntry) : Bool := a.modid == modid && a.tag == q.tag.toNat && a.reply.isNone
  let s := if entered q.cls then
      (s.atoms.filter mine).foldl (fun (s : State) a => s.post stop (.event (.atomicCacheLapse a.port modid a.tag)))
        { s with atoms := s.atoms.map (fun a => if mine a then { a with reply := some r, expires := stop } else a) }
    else s
  s.answerPeer l modid r

/-- ATOMIC_CACHE_LAPSE (R423): the entry is freed, and requests held for its ingress go on. -/
def execAtomicCacheLapse (port modid tag : Nat) (s : State) : Out :=
  .next (
    let gone (a : AtomEntry) : Bool := a.port == port && a.modid == modid && a.tag == tag && a.reply.isSome && decide (a.expires ≤ s.ptime)
    let s := { s with atoms := s.atoms.filter (fun a => !gone a) }
    State.releaseHeld port (s.heldAt port) [] s)

/-! ### Frames received, acknowledged and failed (R423 to R426) -/

/-- An ACK of a link's frames up to `seq`. -/
def State.linkAcked (s : State) (l : Nat) (seq : BitVec 16) : State :=
  (s.updLink l (fun x =>
    { x with replay := x.replay.filter (fun f => decide (0 < (f.seq - seq).toNat ∧ (f.seq - seq).toNat < 32768)) })).usedSlots l

/-- ACK_RECEIVE (R25): control flit of i→j acknowledges flits of j→i up to `seq`. The number 64 + l names the peer at the
far end of link l. -/
def execAckReceive (i j : Nat) (seq : BitVec 16) (s : State) : Out :=
  .next (if 64 ≤ i then s.linkAcked (i - 64) seq else s.acked i j seq)

/-- NAK_RECEIVE (R24, R425): the sender of j→i replays every unacknowledged flit; a link replays its frames bit for
bit. -/
def execNakReceive (i j : Nat) (_seq : BitVec 16) (s : State) : Out :=
  .next (if 64 ≤ i then s.updLink (i - 64) (fun x => { x with out := x.out ++ x.replay }) else s.replayAll j i)

/-- A frame is asked for again (R24, R426). -/
def State.linkNak (s : State) (l : Nat) : State := s.updLink l (fun x => { x with acks := x.acks ++ [(false, x.expect)] })

/-- What a frame brought: a peer's request, or the answer to one of ours; an unlisted class is counted and raised to the MMP (R107). -/
def State.linkMessage (s : State) (l modid : Nat) (m : Msg) : State :=
  if !knownClass m.cls then s.protocolError (linkPort l)
  else if (askOf m.cls.toNat).isSome then s.soon (.peerIngressRequest l modid m) else s.peerAnswer m

/-- LINK_FRAME_RECEIVE (R426): a frame whose slot holds no key, or whose tag fails, is discarded, counted in FAILS and
answered with a NAK; the next frame in order is acknowledged and decrypted; a duplicate is dropped. -/
def execLinkFrameReceive (link : Nat) (f : LinkFrame) (s : State) : Out :=
  .next (
    let x := s.link link
    let k := f.kidx.toNat
    let v := s.lkctl link
    let key := Tab.get 0 x.rkey k
    let salt := Tab.get 0 x.rsalt k
    if !(valOf v k && x.rvalid.getLsbD k) || frameTag key salt f.counter f.cipher != f.tag then
      (s.setLkctl link (setField v 39 32 (min 255 (field v 39 32 + 1)))).linkNak link
    else if f.seq = x.expect then
      let s := s.updLink link (fun x => { x with expect := x.expect + 1, acks := x.acks ++ [(true, f.seq)] })
      s.linkMessage link f.modid.toNat (msgOfBytes (keyed key salt f.counter f.cipher))
    else if (x.expect - f.seq).toNat ≤ 32768 then s
    else s.linkNak link)

/-- Another link of LINKS for a request: up, and on the same chiplet where there is one (DESIGN CHOICE, log entry 75). -/
def State.otherLink (s : State) (failed pa : Nat) : Option Nat :=
  let m := s.peermap (pa / 2 ^ 41 % 16)
  let ls := (List.range 12).filter (fun l => m.getLsbD (16 + l) && l != failed && (s.lkctl l).getLsbD 0)
  match ls.find? (fun l => linkPort l == linkPort failed) with
  | some l => some l
  | none => ls.head?

/-- A request older than 40 µs when its link fails is not sent again (R423). What a load or atomic waits for ends it at 50 µs; of a
store, whose issue posts no time-out, the time-out is posted here. -/
def State.dropPeer (s : State) (id : Nat) (op : IoOp) : State :=
  let s := { s with io := Tab.del s.io id }
  match op.m with
  | none => s
  | some q =>
    let k := op.src * 2 ^ 16 + q.tag.toNat
    match Tab.find s.txs k with
    | none => s
    | some t =>
      if t.cls = 0x07 ∨ t.cls = 0x09 then
        { s with txs := Tab.del s.txs k }.post (max s.ptime (t.issued + 50000)) (.event (.loadReplyTimeout t.req))
      else s

/-- LINK_FAIL (R423): unanswered requests no older than 40 µs are sent again on another link, in their order; an older one is
not, and its requester times out; neither is one for which no other link is up (DEDUCED, log entry 75). -/
def execLinkFail (link : Nat) (s : State) : Out :=
  .next (
    let s := s.setLkctl link (setField (s.lkctl link) 0 0 0)
    let s := (s.updLink link (fun x => { x with replay := [], waiting := [] })).usedSlots link
    let mine := s.io.filter (fun e => e.2.kind == .peerOut link)
    mine.foldl (fun (s : State) e =>
      if e.2.issued + 40000 < s.ptime then s.dropPeer e.1 e.2
      else match e.2.m with
        | none => s
        | some m => match s.otherLink link (128 * m.line.toNat) with
          | none => s.dropPeer e.1 e.2
          | some l => { s with io := Tab.ins s.io e.1 { e.2 with kind := .peerOut l } }.sendPeer e.1 e.2 l) s)

/-! ### Keys (R424, R425) -/

/-- A slot takes a key and a salt: its counter starts at 0 (DESIGN CHOICE, log entry 76). -/
def State.loadSlot (s : State) (l k : Nat) (key : BitVec 256) (salt : BitVec 32) : State :=
  s.updLink l (fun x =>
    { x with key := Tab.ins x.key k key, salt := Tab.ins x.salt k salt, rkey := Tab.ins x.rkey k key, rsalt := Tab.ins x.rsalt k salt
             counter := Tab.ins x.counter k 0, rvalid := x.rvalid ||| (1#2 <<< k), exhausted := x.exhausted &&& ~~~(1#2 <<< k) })

/-- A write to a slot's key registers, 64 bits at offset 8 × w: words 0 to 3 the key, word 4 the salt; refused while VALk = 1
(R425). -/
def State.keyWrite (s : State) (l k w : Nat) (v : Dword) : State :=
  if valOf (s.lkctl l) k then s
  else
    let x := s.link l
    let key := Tab.get 0 x.key k
    let salt := Tab.get 0 x.salt k
    if w < 4 then
      let m : BitVec 256 := 0xFFFFFFFFFFFFFFFF#256 <<< (64 * w)
      s.loadSlot l k ((key &&& ~~~m) ||| (v.zeroExtend 256 <<< (64 * w))) salt
    else if w = 4 then s.loadSlot l k key (v.extractLsb' 0 32)
    else s

/-- KEY_RETIRE_NOTICE (R425): the receiver clears its slot. -/
def execKeyRetireNotice (link slot : Nat) (s : State) : Out :=
  .next (s.updLink link (fun x => { x with
    rvalid := x.rvalid &&& ~~~(1#2 <<< slot), rkey := Tab.del x.rkey slot, rsalt := Tab.del x.rsalt slot }))

/-- KEY_COUNTER_EXHAUSTED (R424). -/
def execKeyCounterExhausted (link slot : Nat) (s : State) : Out :=
  .next (s.updLink link (fun x => { x with exhausted := x.exhausted ||| (1#2 <<< slot) }))

/-- LKCTL_WRITE (R425, Table 3): a write that clears VALk of a slot in use or TXK is refused; TXK takes a slot that holds a
key. -/
def execLkctlWrite (link : Nat) (v : BitVec 64) (s : State) : Out :=
  .next (
    let old := s.lkctl link
    let clears (k : Nat) : Bool := valOf old k && !valOf v k && (inUse old k || txk old == k)
    if clears 0 || clears 1 then s
    else
      let n := setField (setField old 3 2 (field v 3 2)) 39 32 (field v 39 32)
      let n := if valOf n (txk v) then setField n 1 1 (txk v) else n
      (s.setLkctl link n).flushLink link)

/-- LINK_TRAINED (R424): slot 0 takes the key and salt of the exchange, which are its arguments (DESIGN CHOICE, log entry 115), and the
link is up. -/
def execLinkTrained (link : Nat) (key : BitVec 256) (salt : BitVec 32) (s : State) : Out :=
  .next (
    let s := s.updLink link (fun x => { x with nextSeq := 0, expect := 0, replay := [], exhausted := 0 })
    let s := s.loadSlot link 0 key salt
    let v := setField (setField (setField (setField (s.lkctl link) 0 0 1) 1 1 0) 2 2 1) 5 4 0
    (s.setLkctl link v).flushLink link)

end Sys2Proof.Machine
end

