-- ==== Sys2Proof/Machine/Traps.lean ====
section
/-!
DEFINITION. Handler entry and pre-emption (14 R373 to R380), the ends of teams and launches (13 R365, R366; 14 R391), the
relaunch of a team (R387) and divergence (R390).
-/

namespace Sys2Proof.Machine

/-- A step that waits tries again when the next thing has happened. -/
def State.poll (s : State) (i : Instr) : State := s.post s.nextDue (.event i)

/-- Operations of a gang id that handler entry and an end wait for: all but matrix and engine operations, with its direct
writes (R101, R208, R373 steps 2 and 3). -/
def State.draining (s : State) (k : Nat) : Bool :=
  s.ops.any (fun e => e.2.gid == k && e.2.kind != .matrix && e.2.kind != .engine)
  || s.reqs.any (fun e => e.2.gid == k && e.2.kind == .write && (e.2.cls == 0x07 || e.2.cls == 0x09))

/-! ### Handler entry (R373, R380) -/

/-- Every thread of a victim gang id that has not exited enters the handler as one gang, with the cause of pre-emption:
RPC is 0 and each thread saves its own PC (R380 step 3). -/
def State.enterPreempt (s : State) (k dt : Nat) : State :=
  let (uid, s) := s.fresh
  let g := s.gid k
  let tvec := (s.lc g.core g.kslot).tvec
  let on := maskOf ((List.range g.lanes.length).filter (fun l => (g.lane l).st != .exited))
  let st : Stop := { cause := 0x01 }
  ((s.updGid k (fun g => g.enter { active := on } st 0 (fun l => (g.lane l).pc) (hpcOf tvec) false (s.ptime + dt) uid)).flushCount
    g.core).later dt (.clauseStart g.core)

/-- HANDLER_ENTRY (R373): once every gang of the gang id has stopped and the drains are complete, the oldest stopped gang
enters; a pre-emption asked for enters where none is stopped (R371, R380), in a free context (R368). The drains include a lease
renewal being served for the launch (DEDUCED, log entry 111). -/
def execHandlerEntry (gid : Nat) (s : State) : Out :=
  .next (
    let g := s.gid gid
    if (Tab.find s.gids gid).isNone || g.inHandler || s.stopping g.team || (g.held.isEmpty && !g.preempt) then s
    else
      let s := s.updGid gid (fun g => { g with frozen := true }.sweep s.ptime)
      let renewing := (s.launch g.launch).recs.any (fun r => r.st == .renewing)
      if (s.gid gid).issuing ≠ [] ∨ s.draining gid = true ∨ renewing = true then s.poll (.handlerEntry gid)
      else if g.held ≠ [] then s.enterHandler gid (ccNs 32)
      else if (s.gid gid).lanes.all (fun t => t.st == .exited) then s.updGid gid (fun g => { g with preempt := false })
      else if contextMax ≤ s.contexts g.core then s.poll (.handlerEntry gid)
      else s.enterPreempt gid (ccNs 32))

/-! ### ENDLOG (R391) -/

/-- The first team- or launch-ending cause is recorded. -/
def State.recordEnd (s : State) (tag : Nat) (launch : Bool) (c : BitVec 8) (gang team : Nat) (pc : Dword) : State :=
  if (s.reg x0 0x13008).getLsbD 63 then s
  else
    let w1 := 2 ^ 63 + launch.toNat * 2 ^ 62 + c.toNat * 2 ^ 48 + gang % 128 * 2 ^ 32 + team % 2 ^ 32
    ((s.setReg x0 0x13000 (BitVec.ofNat 64 tag)).setReg x0 0x13008 (BitVec.ofNat 64 w1)).setReg x0 0x13010 pc

/-! ### Stopping threads -/

/-- Every thread of a gang id is EXITED and its gangs end. -/
def Gid.stopAll (g : Gid) : Gid :=
  { g.mapLanes (fun _ t => { t with st := .exited, await := none, report := none }) with
    gang := {}, others := [], held := [], reports := [], elig := [], frozen := true, preempt := false, evicted := false }

/-- The gang ids of a team stop for good, evicted ones with them (R366). -/
def State.stopTeam (s : State) (team : Nat) : State :=
  let ks := s.gidsOf team
  let s := ks.foldl (fun (s : State) k => s.updGid k Gid.stopAll) s
  s.updPair (s.team team).pair (fun p => { p with evictions := p.evictions.filter (fun k => !ks.contains k) })

/-- TEAM_END (R366, R371): after the drains the team's threads stop and it retires alone; its launch completes with status
8 where no other applies. -/
def execTeamEnd (team : Nat) (s : State) : Out :=
  .next (
    match Tab.find s.teams team with
    | none => s
    | some t =>
      if t.retiring then s
      else if (s.gidsOf team).any s.draining then s.poll (.teamEnd team)
      else
        let l := s.launch t.launch
        let s := match t.ending with
          | some st => s.recordEnd l.tag false st.cause t.endGang t.id st.pc
          | none => s
        let s := s.updLaunch t.launch (fun l => { l with status := if l.status = 0 then 8 else l.status })
        ((s.stopTeam team).cbarTest team).soonOnce (.teamRetire team))

/-- The teams of a launch. -/
def State.teamsOf (s : State) (launch : Nat) : List Nat := (s.teams.filter (fun e => e.2.launch == launch)).map (·.1)

/-- LAUNCH_END (R366): no further team is placed; after the drains every thread of the launch stops and its teams retire.
The launch completes with 3, or with the status the cause has already given it. -/
def execLaunchEnd (launch : Nat) (s : State) : Out :=
  .next (
    match Tab.find s.launches launch with
    | none => s
    | some l =>
      if l.phase = .complete then s
      else
        let ts := s.teamsOf launch
        let s := if l.incoming = [] then s else s.soonOnce .dispatchChoose
        let s := s.updLaunch launch (fun l => { l with phase := .ending, incoming := [], status := if l.status = 7 ∨ l.status = 5 then l.status else 3 })
        if ts.any (fun t => (s.gidsOf t).any s.draining) then s.poll (.launchEnd launch)
        else
          let s := match l.endBy with
            | some (c, gang, team, pc) => s.recordEnd l.tag true c gang team pc
            | none => s
          let s := ts.foldl (fun (s : State) t => (s.stopTeam t).soonOnce (.teamRetire t)) s
          if ts = [] then s.completeLaunch launch (s.launch launch).status else s)

/-! ### Leaving a pair -/

/-- A team and its gang ids are no longer resident: their registers, window and quota are free, and the kernel slot with
the launch's last team on the pair (R365). -/
def State.removeTeam (s : State) (team : Nat) : State :=
  let t := s.team team
  let ks := s.gidsOf team
  let mine (o : Option (Nat × Nat)) : Bool := match o with
    | some x => ks.contains x.1
    | none => false
  let s := [2 * t.pair, 2 * t.pair + 1].foldl (fun (s : State) c => s.updCore c (fun x =>
    { x with slot := if mine x.slot then none else x.slot, yielded := if mine x.yielded then none else x.yielded
             galleyStalls := x.galleyStalls.filter (fun g => !ks.contains g.1)
             engineStalls := x.engineStalls.filter (fun g => !ks.contains g.1), spconf := Tab.del x.spconf team
             mat := { x.mat with tspend := x.mat.tspend.filter (fun (w : Nat × Nat × Nat × Dword) => !ks.contains w.1) } })) s
  let s := { s with gids := s.gids.filter (fun e => !ks.contains e.1), teams := Tab.del s.teams team }
  let s := s.updPair t.pair (fun p =>
    let p := { p with evictions := p.evictions.filter (fun k => !ks.contains k) }
    if (s.teamsOn t.pair).any (fun e => e.2.launch == t.launch) then p
    else { p with k0 := if p.k0 = some t.launch then none else p.k0, k1 := if p.k1 = some t.launch then none else p.k1 })
  ((s.nowOnce (.clauseStart (2 * t.pair))).nowOnce (.clauseStart (2 * t.pair + 1))).soonOnce .dispatchChoose

/-- Operations and engine commands of a team are outstanding (R365 step 1). -/
def State.teamBusy (s : State) (team : Nat) : Bool :=
  let ks := s.gidsOf team
  s.ops.any (fun e => ks.contains e.2.gid) || s.cmds.any (fun e => e.2.team == team)

/-- Writes of a team's words that the L2 or a home has not accepted (R365 step 3). -/
def State.teamWrites (s : State) (t : Team) : Bool :=
  s.reqs.any (fun e => e.2.kind == .write && pairOf e.2.core == t.pair && e.2.asid == (s.launch t.launch).asid && e.2.kslot == t.kslot)

/-- Retirement, steps 2 to 4 (R365): bindings flushed, words written back, counts flushed. -/
def State.beginRetire (s : State) (team : Nat) : State :=
  let t := s.team team
  let l := s.launch t.launch
  let k := (s.gidsOf team).headD 0
  let s := if l.forme.matrix then
      [2 * t.pair, 2 * t.pair + 1].foldl (fun (s : State) c => (List.range 4).foldl (fun (s : State) b => (s.unbind k c b).2) s) s
    else s
  let s := (s.commit 0 team).2
  let s := (s.writeBackAll 0 t.pair ((s.pair t.pair).l1.filter (fun x => x.asid == l.asid && x.kslot == t.kslot && x.dirty != 0))).2
  ((s.flushCount (2 * t.pair)).flushCount (2 * t.pair + 1)).updTeam team (fun t => { t with retiring := true })

/-- Retirement, step 5 (R365): the team is gone; with its last team a launch completes. -/
def State.finishRetire (s : State) (team : Nat) : State :=
  let t := s.team team
  let mates := (s.cohortOf team).filter (· != team)
  let s := s.removeTeam team
  let s := mates.foldl (fun (s : State) m => s.cbarTest m) s
  let s := s.updLaunch t.launch (fun l => { l with retired := l.retired + 1 })
  let l := s.launch t.launch
  if (l.phase = .ending ∨ l.teams ≤ l.retired) ∧ s.teamsOf t.launch = [] then s.completeLaunch t.launch l.status else s

/-- TEAM_RETIRE (R365). -/
def execTeamRetire (team : Nat) (s : State) : Out :=
  .next (
    match Tab.find s.teams team with
    | none => s
    | some t =>
      if !s.teamDone team then s
      else if s.teamBusy team then s.poll (.teamRetire team)
      else if !t.retiring then (s.beginRetire team).poll (.teamRetire team)
      else if s.teamWrites t then s.poll (.teamRetire team)
      else s.finishRetire team)

/-! ### Relaunch and rerun (R387, R390) -/

/-- A run is discarded (R387): its held words, dirty L1 words, window, registers and matrix state; its team is placed
again. -/
def State.discardRun (s : State) (team : Nat) (a : Again) : State :=
  let t := s.team team
  let asid := (s.launch t.launch).asid
  let s := s.updPair t.pair (fun p =>
    { p with l1 := p.l1.filter (fun x => !(x.asid == asid && x.kslot == t.kslot))
             owners := p.owners.filter (fun o => !(o.1 == t.winBase && o.2.2 == t.launch)) })
  let s := s.staleFills t.pair (fun r => r.asid == asid && r.kslot == t.kslot)
  let s := if (s.launch t.launch).forme.matrix then
      (s.updCore (2 * t.pair) (fun c => { c with mat := {} })).updCore (2 * t.pair + 1) (fun c => { c with mat := {} })
    else s
  (s.removeTeam team).updLaunch t.launch (fun l => { l with again := l.again ++ [a] })

/-- TEAM_RELAUNCH (R387): once its operations and commands are complete, the team's run is discarded, and it is placed
again with RUN + 1, elsewhere where another pair is usable. -/
def execTeamRelaunch (team : Nat) (s : State) : Out :=
  .next (
    match Tab.find s.teams team with
    | none => s
    | some t =>
      if t.retiring || s.teamBusy team || (s.gidsOf team).any s.draining then
        (if t.retiring then s else s.poll (.teamRelaunch team))
      else s.discardRun team { id := t.id, run := t.run + 1, avoid := t.pair :: (t.diverged.map (·.pair)).toList
                               diverged := t.diverged.map (fun d => { d with met := false }) })

/-- The record of an unresolved divergence (Table 8 of R390) (DEDUCED, log entry 65). -/
def State.recordDivergence (s : State) (t : Team) : State :=
  if (s.reg x0 0x12008).getLsbD 63 then s
  else
    let d := t.diverged.getD { index := 0, thread := 0, pair := t.pair }
    let pair2 := if t.rerun then t.pair else 0
    let r := t.rvals.getD (0, 0)
    let w1 := 2 ^ 63 + t.rvals.isSome.toNat * 2 ^ 62 + pair2 * 2 ^ 41 + d.pair * 2 ^ 32 + t.id % 2 ^ 32
    let vs : List Dword := [BitVec.ofNat 64 (s.launch t.launch).tag, BitVec.ofNat 64 w1
      , BitVec.ofNat 64 (d.index % 2 ^ 32 * 2 ^ 32 + d.thread % 2 ^ 11), d.va0, d.va1, r.1, d.data0, d.data1, r.2]
    (List.range 9).foldl (fun (s : State) i => s.setReg x0 (0x12000 + 8 * i) (vs.getD i 0)) s

/-- A pair is marked suspect and placed no more, and firmware's list on the carrier flash names it (R390, R444, R448). -/
def State.markSuspect (s : State) (pair : Nat) : State :=
  let off := 0x74040 + 8 * (pair / 64)
  let s := s.setReg x1 off (setField (s.reg x1 off) (pair % 64) (pair % 64) 0)
  if s.suspects.contains pair then s else { s with suspects := s.suspects ++ [pair] }

/-- DIVERGENCE_RERUN (R390): a first divergence under RST = 1 is rerun once, on another usable pair; else the launch ends
with status 7. -/
def execDivergenceRerun (team : Nat) (s : State) : Out :=
  .next (
    match Tab.find s.teams team with
    | none => s
    | some t =>
      let l := s.launch t.launch
      if t.retiring || l.phase == .complete then s
      else if s.teamBusy team || (s.gidsOf team).any s.draining then s.poll (.divergenceRerun team)
      else if t.rst && !t.rerun && l.forme.order.any (fun p => s.usable p && p != t.pair) then
        s.discardRun team { id := t.id, run := t.run + 1, avoid := [t.pair], diverged := t.diverged }
      else
        let s := (s.recordDivergence t).markSuspect ((t.diverged.map (·.pair)).getD t.pair)
        (s.updLaunch t.launch (fun l => { l with phase := .ending, status := 7 })).soonOnce (.launchEnd t.launch))

end Sys2Proof.Machine
end

