-- ==== Sys2Proof/Machine/Responses.lean ====
section
/-!
DEFINITION. The message classes that act by the port they reach (04 R108): requests at homes, X0, X1 and the links; responses
and snoops at compute chiplets and I/O chiplets; and version bumps (04 R127, R128; 11 R311).
-/

namespace Sys2Proof.Machine

/-! ### Requests -/

/-- A request at X1's window: only the imprint port takes a write, to slot n from master n (R393) (DESIGN CHOICE, log entry 23). -/
def State.portRequest (s : State) (r : Rx) : State :=
  let n := r.m.master.toNat
  let pa := imprintSlot n
  if r.m.cls.toNat = 0x07 ∧ n < 1024 ∧ r.m.line.toNat = pa / 128 ∧ r.m.mask = bytesMask (pa % 128) 16 then
    s.soon (.imprintPortWrite n r.src r.m)
  else s.deny r.dst ((askOf r.m.cls.toNat).getD .read) r

/-- A request at its target. -/
def State.requestAt (s : State) (r : Rx) : State :=
  if 16 ≤ r.dst ∧ r.dst < 32 then s.request r
  else if r.dst = x0 then s.hostRequest r
  else if r.dst = 34 ∨ r.dst = 35 then s.peerRequest r
  else s.portRequest r

/-- NCRD (R111, R417, R421). -/
def execNcrd (s : State) : Out := .next (s.requestAt s.rx)
/-- NCWR (R113, R393, R417, R421). -/
def execNcwr (s : State) : Out := .next (s.requestAt s.rx)
/-- AMO (R116, R418, R421). -/
def execAmo (s : State) : Out := .next (s.requestAt s.rx)
/-- ACQRD (R120, R417, R421). -/
def execAcqrd (s : State) : Out := .next (s.requestAt s.rx)
/-- ZWR (R125). -/
def execZwr (s : State) : Out := .next (s.requestAt s.rx)

/-! ### Responses at an I/O chiplet -/

/-- The posted entry that stands first among those of a queue whose writes are under way. -/
def State.firstPost (s : State) (q : Nat) : Option (Nat × Nat × Nat) :=
  (s.io.filterMap (fun e => match e.2.kind with
    | .post q' seq => if q' = q then some (e.1, seq, e.2.left) else none
    | _ => none)).head?

/-- Posted entries whose writes are complete are taken in order: the dispatcher writes the tail word for each and accepts it
(R340, R352). -/
def State.takePosts (q : Nat) : Nat → State → State
  | 0, s => s
  | fuel + 1, s => match s.firstPost q with
    | none => s
    | some (id, seq, left) =>
      if left ≠ 0 then s
      else
        let s := { s with io := Tab.del s.io id }
        let v := BitVec.ofNat 64 ((seq + 1) % 2 ^ 32)
        let s := (s.ioWrite x0 { kind := .word } dispatcherId (lqTenant (s.lqcfg q)) (field (s.lqtail q) 47 3 * 8) (bytesOf64 v)).2
        State.takePosts q fuel (s.soon (.entryAccept q seq))

/-- A transaction of an I/O chiplet that has no completion left does what it was for. -/
def State.ioDone (s : State) (id : Nat) (op : IoOp) (m : Msg) : State :=
  let denied := decide (m.cls.toNat = 0x45)
  let s := { s with io := Tab.del s.io id }
  match op.kind with
  | .done k => s.launchOver k
  | .tail q =>
    if denied || m.poison then s
    else s.tailRead q (natOfBytes ((List.range 4).map (fun i => lineByte m.data (field (s.lqtail q) 47 3 * 8 % 128 + i))))
  | .record => if denied || op.m.isSome then s.later 1000 .proofPublish else s.recordWritten
  | .memRd h => if denied then s.memRdDenied op.tag else s.toHost (.memRdData op.tag (halfOf m.data h) m.poison)
  | .memWr => if denied then s else s.toHost (.memWrDone op.tag)
  | .peerIn l d => match op.m with
    | some q => s.ingressAnswer l d q m
    | none => s
  | _ => s

/-- A response at an I/O chiplet: one completion of its transaction less. -/
def State.ioReply (s : State) (port : Nat) (m : Msg) : State :=
  match s.takeTx port m with
  | none => s
  | some (t, s) => match Tab.find s.io t.req with
    | none => s
    | some op =>
      let bad := decide (m.cls.toNat = 0x45) || m.poison
      match op.kind with
      | .read _ _ =>
        let got : Option Msg := if m.cls.toNat = 0x45 then none else some m
        { s with io := Tab.ins s.io t.req { op with left := 0, m := got } }
      | .post q _ => State.takePosts q (s.io.length) { s with io := Tab.ins s.io t.req { op with left := op.left - 1 } }
      | .record =>
        let mark : Option Msg := if bad then some m else op.m
        if op.left ≤ 1 then s.ioDone t.req { op with m := mark } m
        else { s with io := Tab.ins s.io t.req { op with left := op.left - 1, m := mark } }
      | _ => if op.left ≤ 1 then s.ioDone t.req op m else { s with io := Tab.ins s.io t.req { op with left := op.left - 1 } }

/-! ### Responses -/

/-- A response at its target: a compute chiplet's own action, or an I/O chiplet's transaction. -/
def State.responseAt (s : State) (atL2 : State → Nat → Msg → State) : State :=
  if s.rx.dst < 16 then atL2 s s.rx.dst s.rx.m else s.ioReply s.rx.dst s.rx.m

/-- DATA (R110, R117). -/
def execData (s : State) : Out := .next (s.responseAt State.dataAtL2)
/-- GNTX (R110). -/
def execGntx (s : State) : Out := .next (s.responseAt State.gntxAtL2)
/-- A RETIRE that waits for its pair's flushes may find the last of them complete (R403). -/
def State.wakeRetire (s : State) : State := if s.pubs.any (fun p => p.kind == 6) then s.soonOnce .proofPublish else s

/-- CMPL (R110). -/
def execCmpl (s : State) : Out := .next (s.responseAt State.cmplAtL2).wakeRetire
/-- WBACK (R110). -/
def execWback (s : State) : Out := .next (s.responseAt State.wbackAtL2)
/-- AMOR (R260). -/
def execAmor (s : State) : Out := .next (s.responseAt State.amorAtL2)
/-- DENY (R72). -/
def execDeny (s : State) : Out := .next (s.responseAt State.denyAtL2).wakeRetire

/-! ### Snoops -/

/-- FWDS (R110). -/
def execFwds (s : State) : Out := .next (if s.rx.dst < 16 then s.fwdsAtL2 s.rx.dst s.rx.src s.rx.m else s)
/-- FWDX (R110). -/
def execFwdx (s : State) : Out := .next (if s.rx.dst < 16 then s.fwdxAtL2 s.rx.dst s.rx.src s.rx.m else s)
/-- RECALL (R110). -/
def execRecall (s : State) : Out := .next (if s.rx.dst < 16 then s.fwdxAtL2 s.rx.dst s.rx.src s.rx.m else s)
/-- INV (R110, R351): at X0 it also wakes the dispatcher. -/
def execInv (s : State) : Out :=
  .next (if s.rx.dst < 16 then s.invAtL2 s.rx.dst s.rx.src s.rx.m
    else (s.send s.rx.dst s.rx.src { cls := 0x46, tag := s.rx.m.tag, line := s.rx.m.line }).nowOnce .tailPollTimer)
/-- PROMOTE (R121). -/
def execPromote (s : State) : Out := .next (if s.rx.dst < 16 then s.promoteAtL2 s.rx.dst s.rx.src s.rx.m else s)

/-! ### Version bumps (R127, R128). Of an entry of `bumps`: region, home, line + 2^41 × TAG, and VACKs awaited, 0 while it
waits to start. -/

/-- VNEW messages unacknowledged at a chiplet at most (R128). -/
def vnewMax : Nat := 64

/-- The first bump that may start: none of its region is under way. -/
def State.nextBump (s : State) : Option (Nat × Nat × Nat × Nat) :=
  let busy := s.bumps.filter (fun b => b.2.2.2 != 0)
  if vnewMax ≤ busy.length then none
  else s.bumps.find? (fun b => b.2.2.2 == 0 && !busy.any (fun c => c.1 == b.1))

/-- Bumps that may start do so: the version counts up, and VNEW goes to every compute chiplet (R127 steps 2 and 3). -/
def State.startBumps : Nat → State → State
  | 0, s => s
  | fuel + 1, s => match s.nextBump with
    | none => s
    | some b =>
      let v := Tab.get 0 s.vers b.1 + 1
      let m : Msg := { cls := 0x61, line := BitVec.ofNat 41 b.2.2.1, tag := BitVec.ofNat 16 (b.2.2.1 / 2 ^ 41)
                       aux := if v = 0 then 1 else 0, mask := BitVec.ofNat 128 (v.toNat * 2 ^ 32 + b.1) }
      let s := { s with vers := Tab.set 0 s.vers b.1 v
                        bumps := (s.bumps.erase b) ++ [(b.1, b.2.1, b.2.2.1, 16)] }
      State.startBumps fuel ((List.range 16).foldl (fun (s : State) j => s.send x1 j m) s)

/-- VBUMP (R127): at X1. Its region stands in the low bits of MASK (DESIGN CHOICE, log entry 77). -/
def execVbump (s : State) : Out :=
  let r := s.rx
  .next (if r.dst = x1 then
      let b := (r.m.mask.toNat % 4096, r.src, r.m.line.toNat + 2 ^ 41 * r.m.tag.toNat, 0)
      State.startBumps (s.bumps.length + 1) { s with bumps := s.bumps ++ [b] }
    else s)

/-- The 32-bit entry of a region in RVTAB (11, under R296). -/
def State.setRvtab (s : State) (chip g : Nat) (v : Nat) : State :=
  let off := 0xE0000 + 8 * (g / 2)
  s.setReg chip off (setField (s.reg chip off) (32 * (g % 2) + 31) (32 * (g % 2)) v)

/-- VNEW (R127, R311): at a compute chiplet RVTAB takes the version, and INV is set in every matching cached plate; then
VACK (DESIGN CHOICE, log entry 77). -/
def execVnew (s : State) : Out :=
  let r := s.rx
  .next (if r.dst < 16 then
      let g := r.m.mask.toNat % 4096
      let v := r.m.mask.toNat / 2 ^ 32 % 2 ^ 32
      let hit (p : Plate) : Bool := p.met && p.reg == g && (p.ver != v || r.m.aux.getLsbD 0)
      let s := s.setRvtab r.dst g v
      let s := { s with pairs := s.pairs.map (fun (e : Nat × Pair) =>
          if chipOf e.1 = r.dst then
            (e.1, { e.2 with plates := e.2.plates.map (fun p => if hit p then { p.setFlags p.valid true p.met with dirty := true } else p) })
          else e) }
      s.send r.dst r.src { r.m with cls := 0x62, aux := 0 }
    else s)

/-- VACK (R127): after all 16, VDONE goes to the home, and the region's next bump starts. -/
def execVack (s : State) : Out :=
  let r := s.rx
  .next (match s.bumps.find? (fun b => b.2.2.2 != 0 && b.1 == r.m.mask.toNat % 4096) with
    | none => s
    | some b =>
      if 1 < b.2.2.2 then
        { s with bumps := s.bumps.map (fun c => if c = b then (b.1, b.2.1, b.2.2.1, b.2.2.2 - 1) else c) }
      else
        let done : Msg := { cls := 0x63, line := BitVec.ofNat 41 b.2.2.1, tag := BitVec.ofNat 16 (b.2.2.1 / 2 ^ 41) }
        State.startBumps (s.bumps.length) ({ s with bumps := s.bumps.erase b }.send x1 b.2.1 done))

end Sys2Proof.Machine
end

