-- ==== Sys2Proof/Machine/Power.lean ====
section
/-!
DEFINITION. Bring-up, power and cooling (20 R442 to R448), and the management windows: writes to registers (00 R14) and what
the windows read (16 R413).
-/

namespace Sys2Proof.Machine

/-! ### MODSTAT (Table 3 of R447) -/

def State.modstat (s : State) : Dword := s.reg x1 0x74000
def State.setModstat (s : State) (hi lo v : Nat) : State := s.setReg x1 0x74000 (setField s.modstat hi lo v)

/-- Bring-up fails at a step: FAILED and FAILSTEP. -/
def State.failBringUp (s : State) (n : Nat) : State := (s.setModstat 2 2 1).setModstat 31 24 n

/-! ### Power (R446) -/

/-- The items of the agenda that outlive a power loss: power applied again, at a time that counts from the loss. -/
def State.nextPower (s : State) : List (Nat × Due) :=
  (s.agenda.filter (fun e => e.2.unpowered)).map (fun e => (e.1 - s.ptime, e.2))

/-- All state is lost but the fuse banks and the list on the carrier flash (R444); what X0 sent on the host link has left the module (DEDUCED, log entry 80). -/
def State.unpower (s : State) : State :=
  { State.reset with
    agenda := s.nextPower, picks := s.picks, ticks := s.ticks, free := s.free, nextId := s.nextId, fuses := s.fuses
    suspects := s.suspects, hostOut := s.hostOut }

/-- POWER_LOSS (R446). -/
def execPowerLoss (s : State) : Out := .next s.unpower

/-- THERMAL_TRIP (R446): every rail is removed within 1 ms, at a time of the hardware's choice. -/
def execThermalTrip (tmax : BitVec 8) (s : State) : Out :=
  .next (
    let s := s.setReg x1 0x74008 (setField (s.reg x1 0x74008) 31 24 tmax.toNat)
    let (dt, s) := s.pick 1000001
    s.later dt .powerLoss)

/-! ### The clock (R445, R446, Table 4 of R447) -/

/-- PWR and TMAX are measured (DESIGN CHOICE, log entry 78). -/
def State.measure (s : State) (pwr : BitVec 16) (tmax : BitVec 8) : State :=
  s.setReg x1 0x74008 (setField (setField (s.reg x1 0x74008) 63 48 pwr.toNat) 31 24 tmax.toNat)

/-- PWRLIM and CSTEP. -/
def State.pwrlim (s : State) : Nat := field (s.reg x1 0x74008) 47 32
def State.cstep (s : State) : Nat := field (s.reg x1 0x74008) 23 20

/-- CSTEP takes a value; THROT says whether it is other than 0. -/
def State.setCstep (s : State) (n : Nat) : State :=
  (s.setReg x1 0x74008 (setField (s.reg x1 0x74008) 23 20 n)).setModstat 4 4 (decide (n ≠ 0)).toNat

/-- CLOCK_STEP_DOWN (R445, R446): one period of 10 µs with the draw above PWRLIM, or a junction at 95 °C or more. -/
def execClockStepDown (pwr : BitVec 16) (tmax : BitVec 8) (s : State) : Out :=
  let s := s.measure pwr tmax
  .next (if s.pwrlim < pwr.toNat ∨ 95 ≤ tmax.toNat then s.setCstep (min 8 (s.cstep + 1)) else s)

/-- CLOCK_STEP_UP (R445): 1 ms with the draw at least 5 % below PWRLIM. -/
def execClockStepUp (pwr : BitVec 16) (tmax : BitVec 8) (s : State) : Out :=
  let s := s.measure pwr tmax
  .next (if 100 * pwr.toNat ≤ 95 * s.pwrlim then s.setCstep (s.cstep - 1) else s)

/-- THERM_WRITE (Table 4 of R447): PWRLIM, within 2,000 and 8,000. -/
def execThermWrite (v : BitVec 64) (s : State) : Out :=
  .next (s.setReg x1 0x74008 (setField (s.reg x1 0x74008) 47 32 (max 2000 (min 8000 (field v 47 32)))))

/-! ### Bring-up (R442) -/

/-- Step 3 (R402): the lowest intact epoch fuse is blown; with none left the boot is no new epoch. -/
def State.blowFuse (s : State) : State :=
  if s.fuses < 8192 then
    { s.setReg x1 0x70018 (setField (s.reg x1 0x70018) 47 32 s.fuses) with fuses := s.fuses + 1, pubs := [{ kind := 1 }] }
  else s.setReg x1 0x70018 (setField (setField (s.reg x1 0x70018) 47 32 8191) 2 2 1)

/-- Lost colours of the bring-up test, by ordered pair (R32). -/
def State.loseTested (s : State) (bad : List (Nat × Bool)) : State :=
  bad.foldl (fun (s : State) b =>
    let off := routeOff (b.1 / 64) (b.1 % 64)
    s.setReg x1 off (setField (s.reg x1 off) (if b.2 then 33 else 32) (if b.2 then 33 else 32) 1)) s

/-- Whether a pair has lost both colours. -/
def bothLost (bad : List (Nat × Bool)) (k : Nat) : Bool := bad.contains (k, false) && bad.contains (k, true)

/-- Routes of step 5 for the pairs with a lost colour (Table 4 of R33): those of mode 1 first. Answers the pairs that are
unroutable (R34). -/
def State.routeTested (s : State) (bad : List (Nat × Bool)) : List Nat × State :=
  let ks := (bad.map (·.1)).eraseDups
  let order := ks.filter (fun k => !bothLost bad k) ++ ks.filter (bothLost bad)
  order.foldl (fun (a : List Nat × State) k =>
    let (i, j) := (k / 64, k % 64)
    let s := a.2.routeWrite i j (setField (a.2.route i j) 16 16 1)
    match s.reroute i j with
    | some s => (a.1, s)
    | none => (a.1 ++ [k], s)) ([], s)

/-- SLTAB with harvested slices (R42): a freed entry goes to the lowest-numbered active slices in turn. -/
def sltabList (bad : List Nat) : List Nat :=
  let act := (List.range 32).filter (fun k => !bad.contains k)
  let freed := (List.range 64).filter (fun g => bad.contains (g % 32))
  (List.range 64).map (fun g =>
    if bad.contains (g % 32) then act.getD ((freed.findIdx (· == g)) % max 1 act.length) 0 else g % 32)

/-- SLTAB and L2SACT of a chiplet with harvested slices. -/
def State.loadSlices (s : State) (chip : Nat) (bad : List Nat) : State :=
  let t := sltabList bad
  let s := (List.range 8).foldl (fun (s : State) w =>
    s.setReg chip (0xE8000 + 8 * w) (BitVec.ofNat 64 ((List.range 8).foldl (fun a k => a + t.getD (8 * w + k) 0 * 2 ^ (8 * k)) 0))) s
  s.setReg chip 0xE8040 (BitVec.ofNat 64 ((List.range 32).foldl (fun a k => if bad.contains k then a else a + 2 ^ k) 0))

/-- IHSEL for the memory chiplets in use (R41). -/
def ihselOf (act : BitVec 16) : Dword :=
  let n := ((List.range 16).filter act.getLsbD).length
  BitVec.ofNat 64 (act.toNat * 2 ^ 32 + (if n = 16 then 0 else if n = 15 then 1 else if n = 14 then 2 else 3))

/-- Memory chiplets at an end of an unroutable pair, which the harvest variants can exclude (R34). -/
def unroutableMem (ks : List Nat) : BitVec 16 :=
  BitVec.ofNat 16 (((ks.flatMap (fun k => [k / 64, k % 64])).filter (fun p => decide (16 ≤ p ∧ p < 32))).eraseDups.foldl
    (fun a p => a + 2 ^ (p - 16)) 0)

/-- A bank map that the MMP accepts (R78): a permutation, whose first 64k slots hold 32k banks of each core. -/
def bankMapOk (t : List Nat) : Bool :=
  t.length == 768 && (List.range 768).all t.contains
    && (List.range 12).all (fun i => ((t.take (64 * (i + 1))).filter (fun b => decide (b < 384))).length == 32 * (i + 1))

/-- BMAP of a pair takes a table (R78). -/
def State.loadBankMap (s : State) (pair : Nat) (t : List Nat) : State :=
  (List.range 192).foldl (fun (s : State) w =>
    s.setReg (chipOf pair) (0x80000 + pair % 32 * 0x800 + 8 * w)
      (BitVec.ofNat 64 ((List.range 4).foldl (fun a k => a + t.getD (4 * w + k) 0 * 2 ^ (16 * k)) 0))) s

/-- Pairs whose bank map is refused: they are not placed (R78). -/
def pairsRefused (b : BringUp) : List Nat := (b.bankMaps.filter (fun x => !bankMapOk x.2)).map (·.1)

/-- Step 5: the tables, and whether a variant covers the losses; FABFAIL where an unroutable pair remains (R34). -/
def State.loadTables (s : State) (b : BringUp) : Bool × State :=
  let s := { s with tables := true, reqcap := [] }
  let s := b.fallback.foldl (fun (s : State) f => s.setReg x1 (0x48000 + 8 * f.1) (f.2 &&& 0xBFBFBFBF#64)) s
  let (lost, s) := (s.loseTested b.coloursBad).routeTested b.coloursBad
  let act := b.memPass &&& ~~~(unroutableMem lost)
  let still := lost.any (fun k => !(16 ≤ k / 64 && k / 64 < 32) && !(16 ≤ k % 64 && k % 64 < 32))
  let s := { s with ihsel := ihselOf act }
  let s := (List.range 16).foldl (fun (s : State) c =>
    let bad := (b.slicesBad.filter (fun x => x.1 == c)).map (·.2)
    if bad = [] then s else s.loadSlices c bad) s
  let s := (b.bankMaps.filter (fun x => decide (x.1 < 512) && bankMapOk x.2)).foldl (fun (s : State) x => s.loadBankMap x.1 x.2) s
  (decide (s.memvar ≠ 3) && !still, if still then s.setModstat 3 3 1 else s)

/-- FWMEAS0 to FWMEAS5 (R447): byte 0 of the measurement lowest (DEDUCED, log entry 79). -/
def State.setFwmeas (s : State) (v : BitVec 384) : State :=
  (List.range 6).foldl (fun (s : State) i =>
    s.setReg x1 (0x74010 + 8 * i) (BitVec.ofNat 64 (natOfBytes (((bigEndian 48 v.toNat).drop (8 * i)).take 8)))) s

/-- Pairs that step 5 excludes: those that fail their self-test or whose bank map is refused, and those that were suspect (R442, R444). -/
def State.excluded (s : State) (b : BringUp) : List Nat := b.pairsBad ++ pairsRefused b ++ s.suspects

/-- Step 7: the MMP starts. ASIDTAB, the usable pairs, DEGR and READY; its timers run from here. -/
def State.startMmp (s : State) (b : BringUp) : State :=
  let s := s.setReg x1 0x40000 (BitVec.ofNat 64 (b.asidBase / 2 ^ 18 * 2 ^ 18 % 2 ^ 48 + 1))
  let s := (List.range 8).foldl (fun (s : State) i =>
    s.setReg x1 (0x74040 + 8 * i) (BitVec.ofNat 64 ((List.range 64).foldl (fun a j =>
      if (s.excluded b).contains (64 * i + j) then a else a + 2 ^ j) 0))) s
  let degr := decide (s.memActive.length < 16) || b.slicesBad != [] || s.excluded b != []
  (((s.setModstat 1 1 degr.toNat).setModstat 0 0 1).later 100000 .crcMonitorInterval).later 10000 .tailPollTimer

/-- POWER_ON (Table 1 of R442): the steps in order, each after the one before it has succeeded (DESIGN CHOICE, log entry 26). -/
def execPowerOn (b : BringUp) (s : State) : Out :=
  .next (
    if s.powered then s
    else
      let s := { s with powered := true }
      if !b.railsOk then s.failBringUp 1
      else if !b.fuseOk then s.failBringUp 2
      else match s.blowFuse.loadTables b with
      | (false, s) => s.failBringUp 5
      | (true, s) =>
        if !b.fwOk then s.failBringUp 6
        else (s.setFwmeas b.fwMeas).startMmp b)

/-! ### Writes to registers (R14) -/

/-- Bits of a register that a write sets, and bits that a written 1 clears, by port and offset; registers with a row of
their own apart (DEDUCED, log entry 81). -/
def writable (ready : Bool) (port off : Nat) : Dword × Dword :=
  let at_ (lo n stride k : Nat) : Bool := decide (lo ≤ off) && decide (off < lo + n * stride) && (off - lo) % stride == k
  if off = 0x50000 then (0, 1#64 <<< 63)
  else if off = 0x50008 ∨ off = 0x50010 then (0xFFFFFFFF#64, 0)
  else if off = 0x50020 then (BitVec.allOnes 64, 0)
  else if port = x0 then
    if at_ 0x10000 64 32 0 then (0x0FFFFFFFFFFFFF03#64, 0)
    else if at_ 0x10000 64 32 8 then (0x0000FFFFFFFFFFF8#64, 0)
    else if at_ 0x10000 64 32 16 then (0, 1#64 <<< 63)
    else if off = 0x12008 ∨ off = 0x13008 then (0, 1#64 <<< 63)
    else if off = 0x14000 then (0xFFFFFFFFFFFF0003#64, 0)
    else (0, 0)
  else if port = x1 then
    if 0x30000 ≤ off ∧ pairAt (off - 0x30000) = true then (BitVec.allOnes 64, 0)
    else if 0x38000 ≤ off ∧ pairAt (off - 0x38000) = true then (0xFFFF#64, 0)
    else if 0x48000 ≤ off ∧ pairAt (off - 0x48000) = true then (0xBFBFBFBF#64, 0)
    else if off = 0x40000 then (0x0000FFFFFFFC0001#64, 0)
    else if at_ 0x72000 512 8 0 then (BitVec.allOnes 64, 0)
    else (0, 0)
  else if port = 34 ∨ port = 35 then
    if at_ 0x20000 16 8 0 then (0xFFFF00000FFF0001#64, 0) else (0, 0)
  else if port < 16 ∧ ready = false then
    if at_ 0xE8000 8 8 0 then (0x1F1F1F1F1F1F1F1F#64, 0)
    else (0, 0)
  else (0, 0)

/-- LOG2N of LQCFG: 13 to 15 are stored as 12 (Table 1 of R350). -/
def fixWrite (port off : Nat) (v : Dword) : Dword :=
  if port = x0 ∧ 0x10000 ≤ off ∧ off < 0x10800 ∧ off % 32 = 0 ∧ 12 < field v 11 8 then setField v 11 8 12 else v

/-- The row of a register that has one of its own. -/
def rowOfRegister (port off : Nat) (v : Dword) : Option Instr :=
  if port = x1 then
    if 0x10000 ≤ off ∧ off < 0x14800 then some (.routeWrite ((off - 0x10000) / 8 / 64) ((off - 0x10000) / 8 % 64) v)
    else if off = 0x3E400 then some (.admctlLoad v)
    else if off = 0x70000 then some (.plcfgWrite v)
    else if off = 0x70010 then some (.plackWrite v)
    else if off = 0x74008 then some (.thermWrite v)
    else none
  else if port = x0 then if off = 0x11000 then some (.dispctlWrite v) else none
  else if port < 16 ∧ 0x60000 ≤ off ∧ off < 0x60100 then some (.spsplitWrite (32 * port + (off - 0x60000) / 8) v)
  else if (port = 34 ∨ port = 35) ∧ 0x21000 ≤ off ∧ off < 0x21030 then
    some (.lkctlWrite ((port - 34) * 6 + (off - 0x21000) / 8) v)
  else none

/-- The value a register takes: RW fields from the write, W1C bits cleared where 1 is written, the others as they were. -/
def written (old v : Dword) (m : Dword × Dword) : Dword := ((old &&& ~~~m.1) ||| (v &&& m.1)) &&& ~~~(v &&& m.2)

/-- A host access to a window carries master 2193 and HPTEN's tenant, and an I/O target or home checks it as any request (R67, R412). -/
def State.hostMay (s : State) (port off : Nat) (k : Ask) : Bool :=
  decide (port < 16) || (s.permits port hostId.toNat s.hostTenant (0xF00000000000 + 2 ^ 30 * port + off) k).isSome

/-- A write that its target permits: RW and W1C fields; RO and reserved ones are ignored (R14). A write to a register with a row of its
own is that row. MBDOOR rings (R419); key registers load a slot (R425). -/
def State.windowWrite (s : State) (port off : Nat) (v : Dword) : State :=
  match rowOfRegister port off v with
  | some i => s.soon i
  | none =>
    if port = x1 ∧ off = 0x73000 then s.ringDoor
    else if (port = 34 ∨ port = 35) ∧ 0x22000 ≤ off ∧ off < 0x22300 then
      let n := (off - 0x22000) / 64
      s.keyWrite ((port - 34) * 6 + n / 2) (n % 2) (off % 64 / 8) v
    else
      let s := s.setReg port off (fixWrite port off (written (s.reg port off) v (writable (s.modstat.getLsbD 0) port off)))
      if port = x0 ∧ 0x10000 ≤ off ∧ off < 0x10800 then (s.admitQueue ((off - 0x10000) / 32)).nowOnce .tailPollTimer else s

/-- REGISTER_WRITE (R14), by the host through BAR0: one that is denied is dropped and recorded (R413); beyond the last port writes are
ignored. -/
def execRegisterWrite (port off : Nat) (v : BitVec 64) (s : State) : Out :=
  .next (
    if off % 8 ≠ 0 ∨ 36 ≤ port then s
    else if s.hostMay port off .write then s.windowWrite port off v
    else s.recordDenial port .write hostId.toNat (0xF00000000000 + 2 ^ 30 * port + off))

/-! ### What the windows read -/

/-- A bit for each target of a source whose route is in a mode (R31). -/
def State.modeMap (s : State) (i mode : Nat) : Dword :=
  BitVec.ofNat 64 ((List.range 36).foldl (fun a j => if isPair i j = true ∧ routeMode (s.route i j) = mode then a + 2 ^ j else a) 0)

/-- A 64-bit read of a management window: beyond the last port every bit reads 1 (R413); WO fields read 0 (R14), derived fields as they stand (R28, R31, R37), access
tables (R68), without W on what is measured (R410), and typecase banks (R217) through their windows. -/
def State.windowRead (s : State) (port off : Nat) : Dword :=
  if 36 ≤ port then BitVec.allOnes 64
  else if 0x100000 ≤ off ∧ off < 0x180000 then
    let k := (off - 0x100000) / 16
    (s.inForce (s.accEntry port (k / 8) (k % 8))).extractLsb' (64 * (off / 8 % 2)) 64
  else if port = x1 ∧ 0x10000 ≤ off ∧ off < 0x14800 then
    let (i, j) := ((off - 0x10000) / 8 / 64, (off - 0x10000) / 8 % 64)
    if isPair i j then setField (s.route i j) 17 17 (s.busy i j).toNat else 0
  else if port = x1 ∧ 0x20000 ≤ off ∧ off < 0x20120 then s.modeMap ((off - 0x20000) / 8) 2
  else if port = x1 ∧ 0x20200 ≤ off ∧ off < 0x20320 then s.modeMap ((off - 0x20200) / 8) 1
  else if port = x1 ∧ 0x3E200 ≤ off ∧ off < 0x3E320 then BitVec.ofNat 64 (s.relayUse ((off - 0x3E200) / 8))
  else if port < 16 ∧ 0xA0000 ≤ off ∧ off < 0xE0000 then
    let p := 32 * port + (off - 0xA0000) / 0x2000
    let e := (off - 0xA0000) % 0x2000 / 16
    (Tab.get 0 (s.pair p).bank e).extractLsb' (64 * (off / 8 % 2)) 64
  else s.reg port off

/-- A host read of a register through BAR0 (R413): none, an Unsupported Request, where its target denies it and records that. -/
def State.hostRead (s : State) (port off : Nat) : Option Dword × State :=
  if 36 ≤ port ∨ s.hostMay port off .read = true then (some (s.windowRead port off), s)
  else (none, s.recordDenial port .read hostId.toNat (0xF00000000000 + 2 ^ 30 * port + off))

end Sys2Proof.Machine
end

