-- ==== Sys2Proof/Machine/Dispatch.lean ====
section
/-!
DEFINITION. What each instruction and named step does: one arm for each constructor of Instr, each a call of its
meaning.
-/

namespace Sys2Proof.Machine

def exec (i : Instr) (s : State) : Host.Outcome State Fault Refusal :=
  match i with
  | .powerOn b => Sys2Proof.Machine.execPowerOn b s
  | .powerLoss => Sys2Proof.Machine.execPowerLoss s
  | .thermalTrip tmax => Sys2Proof.Machine.execThermalTrip tmax s
  | .clockStepDown pwr tmax => Sys2Proof.Machine.execClockStepDown pwr tmax s
  | .clockStepUp pwr tmax => Sys2Proof.Machine.execClockStepUp pwr tmax s
  | .thermWrite v => Sys2Proof.Machine.execThermWrite v s
  | .registerWrite port off v => Sys2Proof.Machine.execRegisterWrite port off v s
  | .flitReceive src dst f => Sys2Proof.Machine.execFlitReceive src dst f s
  | .ackTimer src dst => Sys2Proof.Machine.execAckTimer src dst s
  | .ackReceive src dst seq => Sys2Proof.Machine.execAckReceive src dst seq s
  | .nakReceive src dst seq => Sys2Proof.Machine.execNakReceive src dst seq s
  | .replayTimeout src dst => Sys2Proof.Machine.execReplayTimeout src dst s
  | .replayLimitLost src dst => Sys2Proof.Machine.execReplayLimitLost src dst s
  | .lossOfLight src dst beta => Sys2Proof.Machine.execLossOfLight src dst beta s
  | .crcMonitorInterval => Sys2Proof.Machine.execCrcMonitorInterval s
  | .fallbackReroute src dst => Sys2Proof.Machine.execFallbackReroute src dst s
  | .relayForward k f => Sys2Proof.Machine.execRelayForward k f s
  | .flitInject src dst => Sys2Proof.Machine.execFlitInject src dst s
  | .routeWrite src dst v => Sys2Proof.Machine.execRouteWrite src dst v s
  | .admctlLoad v => Sys2Proof.Machine.execAdmctlLoad v s
  | .spsplitWrite pair v => Sys2Proof.Machine.execSpsplitWrite pair v s
  | .accessTableWrite port master entry v => Sys2Proof.Machine.execAccessTableWrite port master entry v s
  | .tlbWalk cluster launch va right => Sys2Proof.Machine.execTlbWalk cluster launch va right s
  | .leaseGrant launch => Sys2Proof.Machine.execLeaseGrant launch s
  | .leaseLapse launch rec => Sys2Proof.Machine.execLeaseLapse launch rec s
  | .leaseRenewalServe launch rec => Sys2Proof.Machine.execLeaseRenewalServe launch rec s
  | .unmapLapseReached id => Sys2Proof.Machine.execUnmapLapseReached id s
  | .clusterShortenNotice cluster id => Sys2Proof.Machine.execClusterShortenNotice cluster id s
  | .clusterPurge cluster id => Sys2Proof.Machine.execClusterPurge cluster id s
  | .unmapPurgeAcked id => Sys2Proof.Machine.execUnmapPurgeAcked id s
  | .unmapTablesAcked id => Sys2Proof.Machine.execUnmapTablesAcked id s
  | .l1Evict pair asid slot vline => Sys2Proof.Machine.execL1Evict pair asid slot vline s
  | .l1FillReturn id data => Sys2Proof.Machine.execL1FillReturn id data s
  | .l2Evict chip line => Sys2Proof.Machine.execL2Evict chip line s
  | .galleyReply id data => Sys2Proof.Machine.execGalleyReply id data s
  | .galleyTimeout op => Sys2Proof.Machine.execGalleyTimeout op s
  | .loadReplyTimeout op => Sys2Proof.Machine.execLoadReplyTimeout op s
  | .ldGStallRetry core => Sys2Proof.Machine.execLdGStallRetry core s
  | .clauseStart core => Sys2Proof.Machine.execClauseStart core s
  | .groupAgeReached gid pc => Sys2Proof.Machine.execGroupAgeReached gid pc s
  | .longOpComplete op => Sys2Proof.Machine.execLongOpComplete op s
  | .matrixOpComplete op => Sys2Proof.Machine.execMatrixOpComplete op s
  | .imprintThresholdFlush core => Sys2Proof.Machine.execImprintThresholdFlush core s
  | .plateCacheEvict pair va => Sys2Proof.Machine.execPlateCacheEvict pair va s
  | .engineWrite cmd => Sys2Proof.Machine.execEngineWrite cmd s
  | .xpfRange cmd => Sys2Proof.Machine.execXpfRange cmd s
  | .engineQueueRetry core => Sys2Proof.Machine.execEngineQueueRetry core s
  | .gets => Sys2Proof.Machine.execGets s
  | .getx => Sys2Proof.Machine.execGetx s
  | .upg => Sys2Proof.Machine.execUpg s
  | .putx => Sys2Proof.Machine.execPutx s
  | .pute => Sys2Proof.Machine.execPute s
  | .ncrd => Sys2Proof.Machine.execNcrd s
  | .ncwr => Sys2Proof.Machine.execNcwr s
  | .pwr => Sys2Proof.Machine.execPwr s
  | .zwr => Sys2Proof.Machine.execZwr s
  | .amo => Sys2Proof.Machine.execAmo s
  | .acqrd => Sys2Proof.Machine.execAcqrd s
  | .relrec => Sys2Proof.Machine.execRelrec s
  | .pwb => Sys2Proof.Machine.execPwb s
  | .homeOpenQueued home line => Sys2Proof.Machine.execHomeOpenQueued home line s
  | .dramReadComplete home line bad => Sys2Proof.Machine.execDramReadComplete home line bad s
  | .fwds => Sys2Proof.Machine.execFwds s
  | .fwdx => Sys2Proof.Machine.execFwdx s
  | .inv => Sys2Proof.Machine.execInv s
  | .recallLine => Sys2Proof.Machine.execRecall s
  | .promote => Sys2Proof.Machine.execPromote s
  | .data => Sys2Proof.Machine.execData s
  | .gntx => Sys2Proof.Machine.execGntx s
  | .cmpl => Sys2Proof.Machine.execCmpl s
  | .wback => Sys2Proof.Machine.execWback s
  | .amor => Sys2Proof.Machine.execAmor s
  | .deny => Sys2Proof.Machine.execDeny s
  | .iack => Sys2Proof.Machine.execIack s
  | .fdata => Sys2Proof.Machine.execFdata s
  | .promack => Sys2Proof.Machine.execPromack s
  | .vbump => Sys2Proof.Machine.execVbump s
  | .vnew => Sys2Proof.Machine.execVnew s
  | .vack => Sys2Proof.Machine.execVack s
  | .vdone => Sys2Proof.Machine.execVdone s
  | .imprintPortWrite core src m => Sys2Proof.Machine.execImprintPortWrite core src m s
  | .proofPublish => Sys2Proof.Machine.execProofPublish s
  | .plackWrite v => Sys2Proof.Machine.execPlackWrite v s
  | .plcfgWrite v => Sys2Proof.Machine.execPlcfgWrite v s
  | .assignTenantToAsid => Sys2Proof.Machine.execAssignTenantToAsid s
  | .mapRange => Sys2Proof.Machine.execMapRange s
  | .unmapRange => Sys2Proof.Machine.execUnmapRange s
  | .configureLaunchQueue => Sys2Proof.Machine.execConfigureLaunchQueue s
  | .setHostPortTenant => Sys2Proof.Machine.execSetHostPortTenant s
  | .fresh => Sys2Proof.Machine.execFresh s
  | .restore => Sys2Proof.Machine.execRestore s
  | .checkpoint => Sys2Proof.Machine.execCheckpoint s
  | .retire => Sys2Proof.Machine.execRetire s
  | .importRecord => Sys2Proof.Machine.execImportRecord s
  | .keyLoad => Sys2Proof.Machine.execKeyLoad s
  | .tailPollTimer => Sys2Proof.Machine.execTailPollTimer s
  | .entryAccept q seq => Sys2Proof.Machine.execEntryAccept q seq s
  | .kernelVerify launch => Sys2Proof.Machine.execKernelVerify launch s
  | .dispatchChoose => Sys2Proof.Machine.execDispatchChoose s
  | .cohortAgeReserve launch => Sys2Proof.Machine.execCohortAgeReserve launch s
  | .dispctlWrite v => Sys2Proof.Machine.execDispctlWrite v s
  | .gangResume pair => Sys2Proof.Machine.execGangResume pair s
  | .handlerEntry gid => Sys2Proof.Machine.execHandlerEntry gid s
  | .teamEnd team => Sys2Proof.Machine.execTeamEnd team s
  | .launchEnd launch => Sys2Proof.Machine.execLaunchEnd launch s
  | .teamRelaunch team => Sys2Proof.Machine.execTeamRelaunch team s
  | .divergenceRerun team => Sys2Proof.Machine.execDivergenceRerun team s
  | .tentativeBufferFull team => Sys2Proof.Machine.execTentativeBufferFull team s
  | .teamRetire team => Sys2Proof.Machine.execTeamRetire team s
  | .waitwReread gid => Sys2Proof.Machine.execWaitwReread gid s
  | .sleepExpiry gid => Sys2Proof.Machine.execSleepExpiry gid s
  | .cxlMemrd off tag => Sys2Proof.Machine.execCxlMemrd off tag s
  | .cxlMemwr off tag data => Sys2Proof.Machine.execCxlMemwr off tag data s
  | .hostReadCompletion id data => Sys2Proof.Machine.execHostReadCompletion id data s
  | .peerIngressRequest link modid m => Sys2Proof.Machine.execPeerIngressRequest link modid m s
  | .atomicCacheLapse port modid tag => Sys2Proof.Machine.execAtomicCacheLapse port modid tag s
  | .linkFail link => Sys2Proof.Machine.execLinkFail link s
  | .linkFrameReceive link f => Sys2Proof.Machine.execLinkFrameReceive link f s
  | .keyRetireNotice link slot => Sys2Proof.Machine.execKeyRetireNotice link slot s
  | .keyCounterExhausted link slot => Sys2Proof.Machine.execKeyCounterExhausted link slot s
  | .lkctlWrite link v => Sys2Proof.Machine.execLkctlWrite link v s
  | .br f => Sys2Proof.Machine.execBr f s
  | .brM f => Sys2Proof.Machine.execBrM f s
  | .call f => Sys2Proof.Machine.execCall f s
  | .jmp f => Sys2Proof.Machine.execJmp f s
  | .callReg f => Sys2Proof.Machine.execCallReg f s
  | .ret f => Sys2Proof.Machine.execRet f s
  | .reform => Sys2Proof.Machine.execReform s
  | .exit => Sys2Proof.Machine.execExit s
  | .nop => Sys2Proof.Machine.execNop s
  | .reservedHint h f => Sys2Proof.Machine.execReservedHint h f s
  | .wbase f => Sys2Proof.Machine.execWbase f s
  | .yield => Sys2Proof.Machine.execYield s
  | .add w f => Sys2Proof.Machine.execAdd w f s
  | .sub w f => Sys2Proof.Machine.execSub w f s
  | .mul w f => Sys2Proof.Machine.execMul w f s
  | .mulhS w f => Sys2Proof.Machine.execMulhS w f s
  | .mulhN w f => Sys2Proof.Machine.execMulhN w f s
  | .mad w f => Sys2Proof.Machine.execMad w f s
  | .neg w f => Sys2Proof.Machine.execNeg w f s
  | .abs w f => Sys2Proof.Machine.execAbs w f s
  | .minS w f => Sys2Proof.Machine.execMinS w f s
  | .minN w f => Sys2Proof.Machine.execMinN w f s
  | .maxS w f => Sys2Proof.Machine.execMaxS w f s
  | .maxN w f => Sys2Proof.Machine.execMaxN w f s
  | .and w f => Sys2Proof.Machine.execAnd w f s
  | .or w f => Sys2Proof.Machine.execOr w f s
  | .xor w f => Sys2Proof.Machine.execXor w f s
  | .not w f => Sys2Proof.Machine.execNot w f s
  | .shl w f => Sys2Proof.Machine.execShl w f s
  | .shr w f => Sys2Proof.Machine.execShr w f s
  | .sar w f => Sys2Proof.Machine.execSar w f s
  | .rot w f => Sys2Proof.Machine.execRot w f s
  | .clz w f => Sys2Proof.Machine.execClz w f s
  | .popc w f => Sys2Proof.Machine.execPopc w f s
  | .brev w f => Sys2Proof.Machine.execBrev w f s
  | .bfeN w f => Sys2Proof.Machine.execBfeN w f s
  | .bfeS w f => Sys2Proof.Machine.execBfeS w f s
  | .bfi w f => Sys2Proof.Machine.execBfi w f s
  | .sel w f => Sys2Proof.Machine.execSel w f s
  | .lea w f => Sys2Proof.Machine.execLea w f s
  | .mov w f => Sys2Proof.Machine.execMov w f s
  | .ext w f => Sys2Proof.Machine.execExt w f s
  | .dot4 f => Sys2Proof.Machine.execDot4 f s
  | .movl f => Sys2Proof.Machine.execMovl f s
  | .movl64 f => Sys2Proof.Machine.execMovl64 f s
  | .cmp w c f => Sys2Proof.Machine.execCmp w c f s
  | .mand f => Sys2Proof.Machine.execMand f s
  | .mor f => Sys2Proof.Machine.execMor f s
  | .mnot f => Sys2Proof.Machine.execMnot f s
  | .mmov f => Sys2Proof.Machine.execMmov f s
  | .ldG f => Sys2Proof.Machine.execLdG f s
  | .ldGAcq f => Sys2Proof.Machine.execLdGAcq f s
  | .stG f => Sys2Proof.Machine.execStG f s
  | .stGRel f => Sys2Proof.Machine.execStGRel f s
  | .ldCons f => Sys2Proof.Machine.execLdCons f s
  | .ldNc f => Sys2Proof.Machine.execLdNc f s
  | .ldS f => Sys2Proof.Machine.execLdS f s
  | .stS f => Sys2Proof.Machine.execStS f s
  | .ldY f => Sys2Proof.Machine.execLdY f s
  | .pf f => Sys2Proof.Machine.execPf f s
  | .gdrain => Sys2Proof.Machine.execGdrain s
  | .fenceAcq f => Sys2Proof.Machine.execFenceAcq f s
  | .fenceRel f => Sys2Proof.Machine.execFenceRel f s
  | .fenceAr f => Sys2Proof.Machine.execFenceAr f s
  | .amoAdd w f => Sys2Proof.Machine.execAmoAdd w f s
  | .amoMinS w f => Sys2Proof.Machine.execAmoMinS w f s
  | .amoMaxS w f => Sys2Proof.Machine.execAmoMaxS w f s
  | .amoAnd w f => Sys2Proof.Machine.execAmoAnd w f s
  | .amoOr w f => Sys2Proof.Machine.execAmoOr w f s
  | .amoXor w f => Sys2Proof.Machine.execAmoXor w f s
  | .amoXchg w f => Sys2Proof.Machine.execAmoXchg w f s
  | .amoCas w f => Sys2Proof.Machine.execAmoCas w f s
  | .amoFadd w f => Sys2Proof.Machine.execAmoFadd w f s
  | .amoMinN w f => Sys2Proof.Machine.execAmoMinN w f s
  | .amoMaxN w f => Sys2Proof.Machine.execAmoMaxN w f s
  | .amoQualified w op f => Sys2Proof.Machine.execAmoQualified w op f s
  | .samoAdd f => Sys2Proof.Machine.execSamoAdd f s
  | .samoMinS32 f => Sys2Proof.Machine.execSamoMinS32 f s
  | .samoMaxS32 f => Sys2Proof.Machine.execSamoMaxS32 f s
  | .samoXchg f => Sys2Proof.Machine.execSamoXchg f s
  | .fadd t f => Sys2Proof.Machine.execFadd t f s
  | .fsub t f => Sys2Proof.Machine.execFsub t f s
  | .fmul t f => Sys2Proof.Machine.execFmul t f s
  | .fma t f => Sys2Proof.Machine.execFma t f s
  | .fmin t f => Sys2Proof.Machine.execFmin t f s
  | .fmax t f => Sys2Proof.Machine.execFmax t f s
  | .fclass t f => Sys2Proof.Machine.execFclass t f s
  | .frnd t f => Sys2Proof.Machine.execFrnd t f s
  | .fscale t f => Sys2Proof.Machine.execFscale t f s
  | .sqrt t f => Sys2Proof.Machine.execSqrt t f s
  | .exp2 t f => Sys2Proof.Machine.execExp2 t f s
  | .log2 t f => Sys2Proof.Machine.execLog2 t f s
  | .rcp t f => Sys2Proof.Machine.execRcp t f s
  | .rsqrt t f => Sys2Proof.Machine.execRsqrt t f s
  | .sin t f => Sys2Proof.Machine.execSin t f s
  | .cos t f => Sys2Proof.Machine.execCos t f s
  | .tanh t f => Sys2Proof.Machine.execTanh t f s
  | .sigm t f => Sys2Proof.Machine.execSigm t f s
  | .erf t f => Sys2Proof.Machine.execErf t f s
  | .haddF16x2 f => Sys2Proof.Machine.execHaddF16x2 f s
  | .hmulF16x2 f => Sys2Proof.Machine.execHmulF16x2 f s
  | .hfmaF16x2 f => Sys2Proof.Machine.execHfmaF16x2 f s
  | .haddBf16x2 f => Sys2Proof.Machine.execHaddBf16x2 f s
  | .hmulBf16x2 f => Sys2Proof.Machine.execHmulBf16x2 f s
  | .hfmaBf16x2 f => Sys2Proof.Machine.execHfmaBf16x2 f s
  | .fcmp t c f => Sys2Proof.Machine.execFcmp t c f s
  | .cvt c f => Sys2Proof.Machine.execCvt c f s
  | .cvti c f => Sys2Proof.Machine.execCvti c f s
  | .cvtq c f => Sys2Proof.Machine.execCvtq c f s
  | .dcvtq c f => Sys2Proof.Machine.execDcvtq c f s
  | .cvts c f => Sys2Proof.Machine.execCvts c f s
  | .bcast f => Sys2Proof.Machine.execBcast f s
  | .rdlane f => Sys2Proof.Machine.execRdlane f s
  | .wrlane f => Sys2Proof.Machine.execWrlane f s
  | .voteAny f => Sys2Proof.Machine.execVoteAny f s
  | .voteAll f => Sys2Proof.Machine.execVoteAll f s
  | .voteUni f => Sys2Proof.Machine.execVoteUni f s
  | .ballot f => Sys2Proof.Machine.execBallot f s
  | .shflIdx f => Sys2Proof.Machine.execShflIdx f s
  | .shflUp f => Sys2Proof.Machine.execShflUp f s
  | .shflDown f => Sys2Proof.Machine.execShflDown f s
  | .shflXor f => Sys2Proof.Machine.execShflXor f s
  | .elect f => Sys2Proof.Machine.execElect f s
  | .reduce o f => Sys2Proof.Machine.execReduce o f s
  | .scan o f => Sys2Proof.Machine.execScan o f s
  | .tshape f => Sys2Proof.Machine.execTshape f s
  | .tld f => Sys2Proof.Machine.execTld f s
  | .tst f => Sys2Proof.Machine.execTst f s
  | .tzero f => Sys2Proof.Machine.execTzero f s
  | .tmov f => Sys2Proof.Machine.execTmov f s
  | .tfragRead f => Sys2Proof.Machine.execTfragRead f s
  | .tfragWrite f => Sys2Proof.Machine.execTfragWrite f s
  | .wlatch f => Sys2Proof.Machine.execWlatch f s
  | .mma f => Sys2Proof.Machine.execMma f s
  | .tmask f => Sys2Proof.Machine.execTmask f s
  | .accld f => Sys2Proof.Machine.execAccld f s
  | .accst f => Sys2Proof.Machine.execAccst f s
  | .accscale f => Sys2Proof.Machine.execAccscale f s
  | .accrd f => Sys2Proof.Machine.execAccrd f s
  | .accadd f => Sys2Proof.Machine.execAccadd f s
  | .tquant f => Sys2Proof.Machine.execTquant f s
  | .tdeq f => Sys2Proof.Machine.execTdeq f s
  | .stbind f => Sys2Proof.Machine.execStbind f s
  | .dmma f => Sys2Proof.Machine.execDmma f s
  | .strefresh f => Sys2Proof.Machine.execStrefresh f s
  | .stinval f => Sys2Proof.Machine.execStinval f s
  | .stflush f => Sys2Proof.Machine.execStflush f s
  | .stquery f => Sys2Proof.Machine.execStquery f s
  | .tcload f => Sys2Proof.Machine.execTcload f s
  | .tcfence => Sys2Proof.Machine.execTcfence s
  | .tcread f => Sys2Proof.Machine.execTcread f s
  | .xcopy f => Sys2Proof.Machine.execXcopy f s
  | .xpf f => Sys2Proof.Machine.execXpf f s
  | .xcancel f => Sys2Proof.Machine.execXcancel f s
  | .xstat f => Sys2Proof.Machine.execXstat f s
  | .swinit f => Sys2Proof.Machine.execSwinit f s
  | .swarrive f => Sys2Proof.Machine.execSwarrive f s
  | .swwait f => Sys2Proof.Machine.execSwwait f s
  | .tbar => Sys2Proof.Machine.execTbar s
  | .cbar => Sys2Proof.Machine.execCbar s
  | .launch f => Sys2Proof.Machine.execLaunch f s
  | .lwait f => Sys2Proof.Machine.execLwait f s
  | .waitw f => Sys2Proof.Machine.execWaitw f s
  | .sleep f => Sys2Proof.Machine.execSleep f s
  | .trap f => Sys2Proof.Machine.execTrap f s
  | .eret => Sys2Proof.Machine.execEret s
  | .getfl f => Sys2Proof.Machine.execGetfl f s
  | .clrfl f => Sys2Proof.Machine.execClrfl f s
  | .tfence => Sys2Proof.Machine.execTfence s
  | .brk f => Sys2Proof.Machine.execBrk f s
  | .rdtime f => Sys2Proof.Machine.execRdtime f s
  | .imprintq f => Sys2Proof.Machine.execImprintq f s
  | .getc f => Sys2Proof.Machine.execGetc f s
  | .setc f => Sys2Proof.Machine.execSetc f s
  | .sort f => Sys2Proof.Machine.execSort f s
  | .hostAtomicopCompletion id old => Sys2Proof.Machine.execHostAtomicopCompletion id old s
  | .linkTrained link key salt => Sys2Proof.Machine.execLinkTrained link key salt s

end Sys2Proof.Machine
end

