-- ==== Sys2Proof/Machine/Step.lean ====
section
/-!
DEFINITION. One step of the module: time passes and the next item of the agenda happens (log entries 1 and 5). An instruction
is one such item: the issue of a gang's next instruction.
-/

namespace Sys2Proof.Machine

/-- One step: the next item happens, and what it wrote to device memory is there at its end. -/
def step (s : State) : Host.Outcome State Fault Refusal :=
  match s.advance exec State.takeMailbox with
  | .next t => .next (finish s t)
  | .fault f => .fault f
  | .refused r => .refused r

/-- The words of an instruction whose bits are `w`: as many as it has, the later ones from the bits above. -/
def wordsOf (w : Nat) : List Word :=
  let ws := (List.range 3).map (fun i => BitVec.ofNat 32 (w / 2 ^ (32 * i)))
  match decode ws with
  | .ok (_, rest) => ws.take (3 - rest.length)
  | .error _ => ws.take 1

/-- `s` with a gang of 16 threads on core 0 whose clause holds one instruction, its issue next: the instruction that the
next step issues (log entry 1). -/
def State.withFetchWord (s : State) (nbits w : Nat) : State :=
  let k := s.nextId
  let uid := k + 1
  let gang : Gang := { uid := uid, active := 0xFFFF#64, running := true, buf := [⟨0x1000, wordsOf (w % 2 ^ nbits)⟩], next := 0x2000 }
  let lane : Thread := { st := .issuing }
  let g : Gid := { team := k, launch := k, lanes := List.replicate 16 lane, gang := gang }
  { s with
    powered := true
    nextId := k + 2
    gids := Tab.ins s.gids k g
    teams := Tab.ins s.teams k { launch := k, winSize := 4096 }
    launches := Tab.ins s.launches k { phase := .ready }
    cores := Tab.ins s.cores 0 { slot := some (k, uid) }
    agenda := [(s.ptime, .issue k uid)] }

end Sys2Proof.Machine
end

