-- ==== Sys2Proof/Safety.lean ====
section
/-!
DEFINITION. The terms claims are stated in: the invariant of device memory, what an instruction of one gang leaves as it
was, and what it writes.
-/

namespace Sys2Proof.Machine

/-! ### Invariants -/

/-- Device memory stands in its canonical form, and no write waits for the end of a step. -/
def State.Inv (s : State) : Prop := Memory.wf s.mem = true ∧ s.wr = []

/-! ### The gang that issues -/

/-- The gang id whose gang issues is resident. -/
def State.Issues (s : State) : Prop := (Tab.find s.gids s.cur).isSome = true

/-- `t` differs from `s` in the record of the gang id that issues and in nothing else: memory, every other gang id, core
and pair, every special register and every queue are as they were. -/
structure OnlyGang (s t : State) : Prop where
  rest : t = { s with gids := t.gids }
  others : ∀ k, k ≠ s.cur → Tab.find t.gids k = Tab.find s.gids k

/-- The registers from field `d` on that an instruction may change: `n` of them, in the bank of `d` (Table 4 of R170). -/
structure Gid.OnlyRegs (g h : Gid) (d : BitVec 7) (n : Nat) : Prop where
  lanes : h.lanes.length = g.lanes.length
  /-- A thread that is not of the gang is untouched. -/
  idle : ∀ l, g.isActive l = false → h.lane l = g.lane l
  /-- Of a thread, nothing but x and w registers and their taint changes. -/
  thread : ∀ l, h.lane l = { g.lane l with x := (h.lane l).x, w := (h.lane l).w, taint := (h.lane l).taint }
  xs : ∀ l k, ¬ (d.toNat < 96 ∧ (g.lane l).wbase + d.toNat ≤ k ∧ k < (g.lane l).wbase + d.toNat + n) →
    Tab.find (h.lane l).x k = Tab.find (g.lane l).x k
  ws : ∀ l k, ¬ (112 ≤ d.toNat ∧ d.toNat < 116 ∧ d.toNat - 112 ≤ k ∧ k < d.toNat - 112 + n) →
    Tab.find (h.lane l).w k = Tab.find (g.lane l).w k
  ys : ∀ k, ¬ (96 ≤ d.toNat ∧ d.toNat < 112 ∧ d.toNat - 96 ≤ k ∧ k < d.toNat - 96 + n) → Tab.find h.y k = Tab.find g.y k
  /-- The taint of the other registers. -/
  taints : ∀ l k, ¬ (d.toNat < 96 ∧ (g.lane l).wbase + d.toNat ≤ k ∧ k < (g.lane l).wbase + d.toNat + n) →
    ¬ (112 ≤ d.toNat ∧ d.toNat < 116 ∧ 256 + d.toNat - 112 ≤ k ∧ k < 256 + d.toNat - 112 + n) →
    Tab.find (h.lane l).taint k = Tab.find (g.lane l).taint k
  ytaints : ∀ k, ¬ (96 ≤ d.toNat ∧ d.toNat < 112 ∧ d.toNat - 96 ≤ k ∧ k < d.toNat - 96 + n) →
    Tab.find h.ytaint k = Tab.find g.ytaint k

/-- Register `i` of a destination in the bank of `d`, as lane `l` reads it. -/
def Gid.regAt (g : Gid) (l : Nat) (d : BitVec 7) (i : Nat) : Word :=
  let n := d.toNat
  if n < 96 then (g.lane l).xreg ((g.lane l).wbase + n + i)
  else if n < 112 then Tab.get 0 g.y (n - 96 + i)
  else Tab.get 0 (g.lane l).w (n - 112 + i)

/-- Each active lane finds its words in the registers from `d` on; a y destination holds the words of the lowest active
lane (R166); the zero operand and the specials hold nothing (R170). -/
def Gid.Holds (h g : Gid) (d : BitVec 7) (vs : Nat → List Word) : Prop :=
  d.toNat < 116 → ∀ l, g.isActive l = true → ∀ i v,
    (vs (if 96 ≤ d.toNat ∧ d.toNat < 112 then g.elected else l))[i]? = some v → h.regAt l d i = v

/-- The taint of register `i` of a destination in the bank of `d`, as lane `l` reads it (R145). -/
def Gid.taintAt (g : Gid) (l : Nat) (d : BitVec 7) (i : Nat) : Bool :=
  let n := d.toNat
  if n < 96 then Tab.get false (g.lane l).taint ((g.lane l).wbase + n + i)
  else if n < 112 then Tab.get false g.ytaint (n - 96 + i)
  else Tab.get false (g.lane l).taint (256 + n - 112 + i)

/-- The taint of the words that `Gid.Holds` names. -/
def Gid.Tainted (h g : Gid) (d : BitVec 7) (vs : Nat → List Word) (ta : Nat → Bool) : Prop :=
  d.toNat < 116 → ∀ l, g.isActive l = true → ∀ i,
    i < (vs (if 96 ≤ d.toNat ∧ d.toNat < 112 then g.elected else l)).length →
      h.taintAt l d i = ta (if 96 ≤ d.toNat ∧ d.toNat < 112 then g.elected else l)

/-- No register is tainted. -/
def clean : Nat → Bool := fun _ => false

/-- The lanes that `on` names find their words in the registers from `d` on, and every other active lane finds its own there still; a y
destination holds the words (R166, R288, R318). -/
def Gid.HoldsOn (h g : Gid) (on : Nat → Bool) (d : BitVec 7) (vs : List Word) : Prop :=
  d.toNat < 116 → ∀ l, g.isActive l = true → ∀ i v, vs[i]? = some v →
    h.regAt l d i = if (96 ≤ d.toNat ∧ d.toNat < 112) ∨ on l = true then v else g.regAt l d i

/-- The result of an instruction that writes registers alone: `d` holds `vs` with taint `ta`, GSTICKY gains `fl`, the
clause goes on with its next instruction, and all else is as it was. -/
structure Results (s t : State) (d : BitVec 7) (n : Nat) (vs : Nat → List Word) (ta : Nat → Bool) (fl : Nat) : Prop where
  only : OnlyGang s t
  regs : Gid.OnlyRegs s.g t.g d n
  holds : Gid.Holds t.g s.g d vs
  tainted : Gid.Tainted t.g s.g d vs ta
  sticky : t.g.sticky = s.g.sticky ||| BitVec.ofNat 64 fl
  gang : t.g.gang = s.g.advance.gang
  /-- Of the gang id, nothing but registers, taint, GSTICKY and the gang changes. -/
  rest : t.g = { s.g with lanes := t.g.lanes, y := t.g.y, ytaint := t.g.ytaint, sticky := t.g.sticky, gang := t.g.gang }

/-- The instruction completes: it answers a next state, of which `P` holds. -/
def Completes (i : Instr) (s : State) (P : State → Prop) : Prop := ∃ t, exec i s = .next t ∧ P t

/-- Instruction `i` with one source writes `op` of it. -/
def Puts1 (s : State) (w : BitVec 1) (f : RForm) (i : Instr) (signed : Bool) (op : (n : Nat) → BitVec n → BitVec n) : Prop :=
  Completes i s (fun t => Results s t f.d (nregs w)
    (fun l => if w = 0 then [op 32 (s.g.word l f.a f.lit)] else splitD (op 64 (s.g.dword l f.a f.lit signed)))
    (fun l => s.g.taintOf l f.a (nregs w)) 0)

/-- Instruction `i` with two sources writes `op` of them. -/
def Puts2 (s : State) (w : BitVec 1) (f : RForm) (i : Instr) (sa sb : Bool)
    (op : (n : Nat) → BitVec n → BitVec n → BitVec n) : Prop :=
  Completes i s (fun t => Results s t f.d (nregs w)
    (fun l => if w = 0 then [op 32 (s.g.word l f.a f.lit) (s.g.word l f.b f.lit)]
      else splitD (op 64 (s.g.dword l f.a f.lit sa) (s.g.dword l f.b f.lit sb)))
    (fun l => s.g.taintOf l f.a (nregs w) || s.g.taintOf l f.b (nregs w)) 0)

/-- Instruction `i` with three sources, the third in C, writes `op` of them. -/
def Puts3 (s : State) (w : BitVec 1) (f : RForm) (i : Instr)
    (op : (n : Nat) → BitVec n → BitVec n → BitVec n → BitVec n) : Prop :=
  Completes i s (fun t => Results s t f.d (nregs w)
    (fun l => if w = 0 then [op 32 (s.g.word l f.a f.lit) (s.g.word l f.b f.lit) (s.g.word l f.p.c f.lit)]
      else splitD (op 64 (s.g.dword l f.a f.lit) (s.g.dword l f.b f.lit) (s.g.dword l f.p.c f.lit)))
    (fun l => s.g.taintOf l f.a (nregs w) || s.g.taintOf l f.b (nregs w) || s.g.taintOf l f.p.c (nregs w)) 0)

/-- The result of an instruction that writes a mask register: bit `d` of each active lane is `b`, GSTICKY gains `fl`, and
all else is as it was. -/
structure MaskResults (s t : State) (d : BitVec 7) (b : Nat → Bool) (fl : Nat) : Prop where
  only : OnlyGang s t
  lanes : t.g.lanes.length = s.g.lanes.length
  bits : ∀ l k, k < 8 → t.g.mbit l k = if s.g.isActive l = true ∧ k = d.toNat then b l else s.g.mbit l k
  thread : ∀ l, t.g.lane l = { s.g.lane l with m := (t.g.lane l).m }
  sticky : t.g.sticky = s.g.sticky ||| BitVec.ofNat 64 fl
  gang : t.g.gang = s.g.advance.gang
  rest : t.g = { s.g with lanes := t.g.lanes, sticky := t.g.sticky, gang := t.g.gang }

/-! ### Floating point and operations -/

/-- A floating-point result of type `k` (0 f64, 1 f32, 2 f16, 3 bf16) in `d`: each active lane writes its own, and all their
flags go into GSTICKY (R196, R266, R267). -/
def FloatResult (s t : State) (k : Nat) (d : BitVec 7) (r : Nat → Rslt) : Prop :=
  Results s t d (if k = 0 then 2 else 1) (fun l => fwords k (r l).bits) clean (s.g.orFlags (fun l => (r l).flags))

/-- R208 and R281: instruction `i` starts operation `o` of destination `d`, whose completion `ev` is due `dt` ns later. It
counts in its completion flag, or the gang waits for it; nothing is written before it completes. -/
def StartsOp (s : State) (i : Instr) (o : Op) (dt : Nat) (ev : Nat → Instr) : Prop :=
  Completes i s (fun t =>
    t = { s with
      nextId := s.nextId + 1
      ops := Tab.ins s.ops s.nextId { o with gid := s.cur, issued := s.ptime, gang := s.g.gang.uid }
      agenda := s.agenda ++ [(s.ptime + dt, .event (ev s.nextId))]
      gids := t.gids }
    ∧ (∀ k, k ≠ s.cur → Tab.find t.gids k = Tab.find s.gids k)
    ∧ t.g = { s.g with
        flags := if o.flag = 15 then s.g.flags else Tab.upd 0 s.g.flags o.flag (· + 1)
        gang := { s.g.advance.gang with pend := if o.flag = 15 then [s.nextId] else [] } })

/-- The operation that will write `vs` to `n` registers from `d` in the active lanes, and raise `fl`. -/
def computeOp (s : State) (d : BitVec 7) (n : Nat) (vs : Nat → List Word) (fl : Nat) : Op :=
  { gid := s.cur, kind := .compute, flag := s.g.flagFor d, dst := d, nregs := n, lanes := s.g.gang.active,
    writes := s.g.wrOn (fun _ => true) d vs ++ [.sticky (BitVec.ofNat 64 fl)] }

/-- The active lanes that `on` names find their words in the registers from `d` on, and every other active lane finds its own there still; a
y destination holds the words of the lowest active lane, where `on` names that (R166). -/
def Gid.HoldsIn (h g : Gid) (on : Nat → Bool) (d : BitVec 7) (vs : Nat → List Word) : Prop :=
  (d.toNat < 96 ∨ (112 ≤ d.toNat ∧ d.toNat < 116) → ∀ l, g.isActive l = true → ∀ i v, (vs l)[i]? = some v →
    h.regAt l d i = if on l = true then v else g.regAt l d i)
  ∧ (96 ≤ d.toNat ∧ d.toNat < 112 → g.isActive g.elected = true → on g.elected = true → ∀ i v, (vs g.elected)[i]? = some v →
    h.regAt g.elected d i = v)

/-- R208, R281 and R289: `i` starts an operation, whose completion `ev` then writes its results: in the lanes that `on` names, `n`
registers from `d` take `vs`, the flags `fl` are raised, the completion flag is as before, and the operation is gone. -/
def Finishes (s : State) (i : Instr) (ev : Nat → Instr) (on : Nat → Bool) (d : BitVec 7) (n : Nat) (vs : Nat → List Word) (fl : Nat) :
    Prop :=
  ∃ t u, exec i s = .next t ∧ exec (ev s.nextId) t = .next u
    ∧ Tab.find u.ops s.nextId = none
    ∧ Gid.OnlyRegs s.g u.g d n ∧ Gid.HoldsIn u.g s.g on d vs
    ∧ u.g.sticky = s.g.sticky ||| BitVec.ofNat 64 fl
    ∧ (∀ k, Tab.get 0 u.g.flags k = Tab.get 0 s.g.flags k)
    ∧ u.g.gang.pend = [] ∧ u.g.gang.buf = s.g.gang.buf.tail
    ∧ u.mem = s.mem ∧ u.wr = s.wr ∧ u.regs = s.regs
    ∧ (∀ k, k ≠ s.cur → Tab.find u.gids k = Tab.find s.gids k)

/-- In state `u` the answer `m` to request `req` of state `t`, sent under the tag of its transaction, is being delivered at port `c`; all
else is as in `t`. -/
def State.Answering (t u : State) (c req : Nat) (m : Msg) : Prop :=
  ∃ tag x, tag < 2 ^ 16 ∧ Tab.find t.txs (c * 2 ^ 16 + tag) = some x ∧ x.req = req
    ∧ u = { t with rx := { t.rx with dst := c, m := { m with tag := BitVec.ofNat 16 tag } } }

/-- `i` starts and sends a request from port `c`; when its answer `m` comes, `resp` takes it and leaves what `P` says. -/
def Answered (i : Instr) (s : State) (c : Nat) (m : Msg) (resp : Instr) (P : State → Prop) : Prop :=
  ∃ t req u, exec i s = .next t ∧ t.Answering u c req m ∧ Completes resp u P

/-- A matrix operation `o` of `cc` cycles starts (R208, R289), after its effect on the cores listed in `cs`: it is outstanding,
it counts in its completion flag or the gang waits for it, and its completion is due. Of other cores, pairs, memory and
registers nothing changes; of the cores listed, only the matrix unit. -/
structure MatStarts (s t : State) (cs : List Nat) (o : Op) (cc : Nat) : Prop where
  rest : t = { s with
    cores := t.cores
    nextId := s.nextId + 1
    ops := Tab.ins s.ops s.nextId
      { o with gid := s.cur, kind := .matrix, lanes := s.g.gang.active, issued := s.ptime, gang := s.g.gang.uid }
    agenda := s.agenda ++ [(s.ptime + ccNs cc, .event (.matrixOpComplete s.nextId))]
    gids := t.gids }
  others : ∀ k, k ≠ s.cur → Tab.find t.gids k = Tab.find s.gids k
  gang : t.g = { s.g with
    flags := if o.flag = 15 then s.g.flags else Tab.upd 0 s.g.flags o.flag (· + 1)
    gang := { s.g.advance.gang with pend := if o.flag = 15 then [s.nextId] else [] } }
  cores : ∀ c, c ∉ cs → t.core c = s.core c
  units : ∀ c, t.core c = { s.core c with mat := (t.core c).mat }

/-- An instruction of the matrix unit that is no long-latency one has acted on the unit of its core alone. -/
structure MatActs (s t : State) : Prop where
  rest : t = { s with cores := t.cores, gids := t.gids }
  others : ∀ k, k ≠ s.cur → Tab.find t.gids k = Tab.find s.gids k
  gang : t.g = s.g.advance
  cores : ∀ c, c ≠ s.g.core → t.core c = s.core c
  units : t.core s.g.core = { s.core s.g.core with mat := (t.core s.g.core).mat }

/-- Byte `i` of row `r` of tile `a` is one that a tile has (R287). -/
def InTile (a r i : Nat) : Prop := a < 8 ∧ r < 128 ∧ i < 256

/-- Nothing of a matrix unit but the bytes, map, tag and shape of tile `a` has changed. -/
def Mat.OnlyTile (m n : Mat) (a : Nat) : Prop :=
  n = { m with tiles := n.tiles, zmap := n.zmap, ttag := n.ttag, tshape := n.tshape }
  ∧ (∀ b r i, InTile b r i → b ≠ a → n.tileByte b r i = m.tileByte b r i)
  ∧ (∀ b, b ≠ a → n.shape b = m.shape b ∧ n.tag b = m.tag b ∧ Tab.find n.zmap b = Tab.find m.zmap b)

/-- Nothing of a matrix unit but accumulator `a` has changed, and of that only the elements in `es`. -/
def Mat.OnlyAcc (m n : Mat) (a : Nat) (es : Nat → Nat → Prop) : Prop :=
  n = { m with accs := n.accs }
  ∧ ∀ b r c, b < 4 → r < 128 → c < 128 → ¬ (b = a ∧ es r c) → n.accAt b r c = m.accAt b r c

/-! ### Control -/

/-- The gang goes on at clause header `p` (R205): its clause is over and every active thread's PC is `p`. -/
structure Gid.Continues (g h : Gid) (now : Nat) (p : Dword) : Prop where
  lanes : ∀ l, h.lane l = if g.isActive l = true then { g.lane l with pc := p } else g.lane l
  rest : h = { g with
    lanes := h.lanes
    gang := { g.gang with hdr := p, buf := [], off := 0, running := false, stage := 0, pend := [], done := 0, since := now, noWatch := false } }

/-- Every active thread is filed at its PC and the gang gives its context back (R161, R368). -/
structure Gid.Files (g h : Gid) (now : Nat) (pc : Nat → Dword) : Prop where
  lanes : ∀ l, h.lane l = if g.isActive l = true then { g.lane l with pc := pc l, st := .filed, filedAt := now, await := none } else g.lane l
  rest : h = { g with lanes := h.lanes, gang := {} }

/-- Every active thread waits, lane `l` for `a l`, and will be filed at the clause that follows (R337). -/
structure Gid.Waits (g h : Gid) (a : Nat → Await) : Prop where
  lanes : ∀ l, h.lane l = if g.isActive l = true then { g.lane l with st := .waiting, await := some (a l), pc := g.gang.next } else g.lane l
  rest : h = { g with lanes := h.lanes, gang := {} }

/-- Where a transfer of the lanes to `pc` leads: to several PCs, all are filed; to one below the transfer's word, they are
filed where `back` says so; to one otherwise, the gang goes on there. -/
def Gid.Lands (g h : Gid) (now : Nat) (back : Bool) (pc : Nat → Dword) : Prop :=
  (∀ l, g.isActive l = true → (∀ k, g.isActive k = true → pc k = pc l) →
    if back = true ∧ (pc l).toNat < g.here.toNat then Gid.Files g h now pc else Gid.Continues g h now (pc l))
  ∧ ((∃ l k, g.isActive l = true ∧ g.isActive k = true ∧ pc l ≠ pc k) → Gid.Files g h now pc)

/-- What the elected lane and its shadow supply (R389). -/
def Gid.supplies (g : Gid) (v : Nat → List Dword) (l : Nat) : List Dword := if l = g.elected ∨ l = g.elected + 1 then v l else []

/-- The gang stops with a cause: its state as `h` leaves it is held with the cause, and no group of its gang id is drawn. -/
def Gid.HeldWith (h k : Gid) (st : Stop) : Prop :=
  k = { h with frozen := true, held := h.held ++ [{ h.gang with stop := some st }], gang := {} }

/-! ### Memory -/

/-- A byte that a pair's L1 holds valid, by ASID, kernel slot and virtual address (R64, R84). -/
def Pair.l1Byte (p : Pair) (asid kslot va : Nat) : Option Byte :=
  match p.line asid kslot (va / 128) with
  | some l => if l.valid.getLsbD (va % 128 / 4) = true then some (lineByte l.words (va % 128)) else none
  | none => none

/-- No thread of the issuing team waits. -/
def State.NoneWaits (s : State) : Prop := ∀ e ∈ s.gids, e.2.team = s.g.team → ∀ t ∈ e.2.lanes, t.st ≠ .waiting

/-- No request of a peer waits at an ingress chiplet (R423). -/
def State.NoneHeld (s : State) : Prop := ∀ e ∈ s.io, ∀ l d, e.2.kind ≠ .peerHeld l d

/-- Each active lane's scratchpad access of `n` bytes at `o` is aligned and lies in the team's window (R245). -/
def State.InWindow (s : State) (lanes : Nat → Prop) (o : Nat → Int) (n : Nat) : Prop :=
  ∀ l, lanes l → o l % n = 0 ∧ 0 ≤ o l ∧ o l + n ≤ (s.team s.g.team).winSize

/-- A word of the issuing team's window. -/
def State.winWord (s : State) (o : Nat) : Word :=
  BitVec.ofNat 32 ((s.pair (s.team s.g.team).pair).scrRead ((s.team s.g.team).winBase + o) 4)

/-- A byte of the issuing team's pair's scratchpad. -/
def State.scratch (s : State) (a : Nat) : Byte := (s.pair (s.team s.g.team).pair).scrByte a

/-- An atomic of the issuing gang is under way (R260): its operation is outstanding with each lane's request, it counts in its
flag, the clause goes on, and no register or byte of memory has changed. -/
structure StartsAtomic (s t : State) (d : BitVec 7) (flag : Nat) (acq : Bool) (as : List LaneAcc) : Prop where
  op : ∃ o, Tab.find t.ops s.nextId = some o ∧ o.kind = .amo ∧ o.dst = d ∧ o.flag = flag ∧ o.gid = s.cur
    ∧ o.outstanding = maskOf (as.map (·.lane)) ∧ o.loads.map LaneLoad.lane = as.map (·.lane)
  rest : t = { s with
    ops := t.ops, reqs := t.reqs, txs := t.txs, fab := t.fab, agenda := t.agenda, nextId := t.nextId, gids := t.gids }
  others : ∀ k, k ≠ s.cur → Tab.find t.gids k = Tab.find s.gids k
  gang : t.g = { s.g with
    flags := if flag = 15 then s.g.flags else Tab.upd 0 s.g.flags flag (· + 1)
    gang := { s.g.advance.gang with pend := if flag = 15 ∨ acq = true then [s.nextId] else [] } }

/-! ### Homes -/

/-- The line has an entry, or its set a way free (R104): beside the entries that stay, every line of the set for which a request that will
leave an entry is open takes one. -/
def State.HasRoom (s : State) (ln : Nat) : Prop :=
  (Tab.find s.dir ln).isSome = true
  ∨ (s.dir.filter (fun e => s.dirSet e.1 == s.dirSet ln && !s.leaving e.1)).length
    + (s.homeTx.filter (fun e => takesWay e.2.m.cls && s.dirSet e.1 == s.dirSet ln && s.dir.all (fun d => d.1 != e.1))).length < 16

/-- The message in delivery is a request of class `cls` that entry `e` permits, and it opens on its line at once: no
transaction of the line is open and nothing waits for it, its set has room where it needs a way, and no promotion comes first (R67,
R102, R119, R120). -/
structure State.Opens (s : State) (cls : BitVec 8) (e : BitVec 128) : Prop where
  home : 16 ≤ s.rx.dst ∧ s.rx.dst < 32
  src : s.rx.src ≠ s.rx.dst
  class_ : s.rx.m.cls = cls
  permit : ∀ k, askOf cls.toNat = some k →
    s.permits s.rx.dst s.rx.m.master.toNat s.rx.m.tenant (128 * s.rx.m.line.toNat) k = some e
  free : s.lineBusy s.rx.m.line.toNat = false
  room : takesWay cls = true → s.HasRoom s.rx.m.line.toNat
  alone : s.mustPromote s.rx.m.line.toNat s.rx.m = false ∧ s.mustDisplace s.rx.m.line.toNat s.rx.m = false

/-- Two directory entries say the same; a record's pair and number count only where there is a record (Table 1 of R104). -/
def Dir.Same (a b : Dir) : Prop :=
  a.st = b.st ∧ a.owner = b.owner ∧ a.sharers = b.sharers ∧ a.lrscope = b.lrscope
  ∧ (a.lrscope ≠ 0 → a.lrpair = b.lrpair ∧ a.lrseq = b.lrseq)

/-- The home `h` of line `ln` answers port `p` with `m`, ends the line's transaction and leaves directory entry `d`; the bytes
of device memory are `b`. Nothing else of the state changes but queues. -/
structure HomeAnswers (s t : State) (h ln p : Nat) (m : Msg) (d : Dir) (b : Nat → Byte) : Prop where
  rest : t = { s with dir := t.dir, homeTx := t.homeTx, fab := t.fab, agenda := t.agenda, wr := t.wr, poison := t.poison }
  sent : (t.pairState h p).egress = (s.pairState h p).egress ++ [m]
  dir : (t.dirOf ln).Same d
  dirs : ∀ k, k ≠ ln → t.dirOf k = s.dirOf k
  closed : Tab.find t.homeTx ln = none
  others : ∀ k, k ≠ ln → Tab.find t.homeTx k = Tab.find s.homeTx k
  next : t.awaits (.homeOpenQueued h ln) = true
  bytes : ∀ pa, t.byte pa = b pa
  poisons : ∀ k, k ≠ ln → t.isPoisoned k = s.isPoisoned k

/-- Device memory with the bytes of line `ln` under mask `m` replaced by those of `d` (R107, R113). -/
def State.withLine (s : State) (ln : Nat) (d : Line) (m : LineMask) (pa : Nat) : Byte :=
  if pa / 128 = ln ∧ m.getLsbD (pa % 128) = true then lineByte d (pa % 128) else s.byte pa

/-! ### Fetch -/

/-- The code word at `va` of the launch of gang `g` is `w`: it is valid in the L1 of its pair (R76, R85, R207). -/
def State.Fetches (s : State) (g : Gid) (va : Dword) (w : Word) : Prop :=
  ∃ ln, (s.pair (pairOf g.core)).line (s.launch g.launch).asid g.kslot (va.toNat / 128) = some ln ∧ va.toNat < 2 ^ 57
    ∧ ln.valid.getLsbD (va.toNat % 128 / 4) = true ∧ ln.words.extractLsb' (8 * (va.toNat % 128)) 32 = w

end Sys2Proof.Machine
end

