-- ==== Sys2Proof/WellFormed.lean ====
section
/-!
DEFINITION. Well-formed instructions: those whose words raise no illegal-instruction cause by themselves (08 R201, R202,
R218) and which are what their words decode to.
-/

namespace Sys2Proof

/-- An instruction that code words can encode and that is legal by itself; the named steps of other agents, which no
words encode, are not. -/
def Instr.wellFormed (i : Instr) : Bool := Machine.formOk i && Machine.canonical i

end Sys2Proof
end

