-- ==== Sys2Proof/Certificates/Slice0/Obligations.lean ====
section
/-!
DEFINITION. The statements about the model that are to be proved, each with the rule of spec/ it comes from.
-/

open Sys2Proof Sys2Proof.Machine

/-! ### Integer, address and compare instructions -/

/-- R237, Table 1, functions 0 to 4 and 8 to 21: each active lane writes the result, and nothing else of the machine changes.
R237, Table 1, functions 5 and 22 to 30, and R240: bit counts and fields by the functions `clzN`, `popcN`, `brevN`, `bfeN`,
`bfeS` and `bfiN`, whose values IntegerFunctions and BitFields state. -/
def Obligations.IntegerResults : Prop :=
  (∀ (s : State) (w : BitVec 1) (f : RForm), s.Issues →
    Puts2 s w f (.add w f) false false (fun _ a b => a + b)
    ∧ Puts2 s w f (.sub w f) false false (fun _ a b => a - b)
    ∧ Puts2 s w f (.mul w f) false false (fun _ a b => a * b)
    ∧ Puts2 s w f (.mulhS w f) true true (fun n a b => BitVec.ofInt n (a.toInt * b.toInt / 2 ^ n))
    ∧ Puts2 s w f (.mulhN w f) false false (fun n a b => BitVec.ofNat n (a.toNat * b.toNat / 2 ^ n))
    ∧ Puts2 s w f (.minS w f) true true (fun _ a b => if a.toInt ≤ b.toInt then a else b)
    ∧ Puts2 s w f (.minN w f) false false (fun _ a b => if a.toNat ≤ b.toNat then a else b)
    ∧ Puts2 s w f (.maxS w f) true true (fun _ a b => if a.toInt ≤ b.toInt then b else a)
    ∧ Puts2 s w f (.maxN w f) false false (fun _ a b => if a.toNat ≤ b.toNat then b else a)
    ∧ Puts2 s w f (.and w f) false false (fun _ a b => a &&& b)
    ∧ Puts2 s w f (.or w f) false false (fun _ a b => a ||| b)
    ∧ Puts2 s w f (.xor w f) false false (fun _ a b => a ^^^ b)
    ∧ Puts2 s w f (.shl w f) false false (fun n a b => BitVec.ofNat n (a.toNat * 2 ^ (b.toNat % n)))
    ∧ Puts2 s w f (.shr w f) false false (fun n a b => BitVec.ofNat n (a.toNat / 2 ^ (b.toNat % n)))
    ∧ Puts2 s w f (.sar w f) true false (fun n a b => BitVec.ofInt n (a.toInt / 2 ^ (b.toNat % n)))
    ∧ Puts2 s w f (.rot w f) false false (fun n a b => a.rotateLeft (b.toNat % n))
    ∧ Puts1 s w f (.neg w f) false (fun _ a => 0 - a)
    ∧ Puts1 s w f (.abs w f) true (fun _ a => if 0 ≤ a.toInt then a else 0 - a)
    ∧ Puts1 s w f (.not w f) false (fun _ a => ~~~a))
  ∧ (∀ (s : State) (w : BitVec 1) (f : RForm) (m : IForm), s.Issues →
    Puts1 s w f (.clz w f) false clzN
    ∧ Puts1 s w f (.popc w f) false popcN
    ∧ Puts1 s w f (.brev w f) false brevN
    ∧ Puts1 s w f (.mov w f) false (fun _ a => a)
    ∧ Puts3 s w f (.mad w f) (fun _ a b c => a * b + c)
    ∧ Puts3 s w f (.bfeN w f) bfeN
    ∧ Puts3 s w f (.bfeS w f) bfeS
    ∧ Completes (.bfi w f) s (fun t => Results s t f.d (nregs w)
        (fun l => if w = 0 then
            [bfiN 32 (s.g.word l f.d f.lit) (s.g.word l f.a f.lit) (s.g.word l f.b f.lit) (s.g.word l f.p.c f.lit)]
          else splitD (bfiN 64 (s.g.dword l f.d f.lit) (s.g.dword l f.a f.lit) (s.g.dword l f.b f.lit)
            (s.g.dword l f.p.c f.lit)))
        (fun l => s.g.taintOf l f.d (nregs w) || s.g.taintOf l f.a (nregs w) || s.g.taintOf l f.b (nregs w)
          || s.g.taintOf l f.p.c (nregs w)) 0)
    ∧ Completes (.sel w f) s (fun t => Results s t f.d (nregs w)
        (fun l => if w = 0 then [if s.g.mbit l (f.p.c.toNat % 8) = true then s.g.word l f.a f.lit else s.g.word l f.b f.lit]
          else splitD (if s.g.mbit l (f.p.c.toNat % 8) = true then s.g.dword l f.a f.lit else s.g.dword l f.b f.lit))
        (fun l => s.g.taintOf l f.a (nregs w) || s.g.taintOf l f.b (nregs w)) 0)
    ∧ Completes (.lea w f) s (fun t => Results s t f.d (nregs w)
        (fun l => if w = 0 then [s.g.word l f.a f.lit + s.g.word l f.b f.lit * BitVec.ofNat 32 (2 ^ (f.p.c.toNat % 8))]
          else splitD (s.g.dword l f.a f.lit
            + (s.g.word l f.b f.lit).signExtend 64 * BitVec.ofNat 64 (2 ^ (f.p.c.toNat % 8))))
        (fun l => s.g.taintOf l f.a (nregs w) || s.g.taintOf l f.b 1) 0)
    ∧ (f.b.toNat ≠ 18 → Puts1 s w f (.ext w f) false (fun n a => match f.b.toNat with
        | 16 => (a.extractLsb' 0 8).signExtend n
        | 17 => (a.extractLsb' 0 16).signExtend n
        | 20 => (a.extractLsb' 0 8).zeroExtend n
        | 21 => (a.extractLsb' 0 16).zeroExtend n
        | _ => a))
    ∧ (f.b.toNat = 18 → Completes (.ext w f) s (fun t => Results s t f.d (nregs w)
        (fun l => if w = 0 then [s.g.word l f.a f.lit] else splitD ((s.g.word l f.a f.lit).signExtend 64))
        (fun l => s.g.taintOf l f.a 1) 0))
    ∧ Completes (.dot4 f) s (fun t => Results s t f.d 1
        (fun l => [dot4 (s.g.word l f.a f.lit) (s.g.word l f.b f.lit) (s.g.word l f.p.c f.lit)])
        (fun l => s.g.taintOf l f.a 1 || s.g.taintOf l f.b 1 || s.g.taintOf l f.p.c 1) 0)
    ∧ Completes (.movl m) s (fun t => Results s t m.d 1 (fun _ => [m.imm.signExtend 32]) clean 0)
    ∧ ∀ ihi, m.p = .w ihi →
      Completes (.movl64 m) s (fun t => Results s t m.d 2 (fun _ => splitD ((ihi ++ m.imm).signExtend 64)) clean 0))

/-- R237, Table 1: what the counting and reversing functions compute, bit by bit.
R237 and R239: `dot4` of words given by their bytes, each read as s8. -/
def Obligations.IntegerFunctions : Prop :=
  (∀ n, n = 32 ∨ n = 64 → ∀ a : BitVec n,
    (clzN n a).toNat ≤ n
    ∧ (∀ i, i < (clzN n a).toNat → a.getLsbD (n - 1 - i) = false)
    ∧ (0 < a.toNat → (clzN n a).toNat < n ∧ a.getLsbD (n - 1 - (clzN n a).toNat) = true)
    ∧ (popcN n a).toNat = ((List.range n).filter a.getLsbD).length
    ∧ (∀ i, i < n → (brevN n a).getLsbD i = a.getLsbD (n - 1 - i))
    ∧ (absS n a).toNat = a.toInt.natAbs)
  ∧ (∀ (a0 a1 a2 a3 b0 b1 b2 b3 : Byte) (c : Word),
    dot4 (a3 ++ a2 ++ a1 ++ a0 : BitVec 32) (b3 ++ b2 ++ b1 ++ b0 : BitVec 32) c
      = BitVec.ofInt 32 (c.toInt + a0.toInt * b0.toInt + a1.toInt * b1.toInt + a2.toInt * b2.toInt + a3.toInt * b3.toInt))

/-- R238: the bit fields, bit by bit, for every position and length. -/
def Obligations.BitFields : Prop :=
  ∀ n, n = 32 ∨ n = 64 → ∀ (d a b c : BitVec n) (i : Nat), i < n →
    let p := b.toNat % 256
    let e := min (p + c.toNat % 256) n
    (bfeN n a b c).getLsbD i = (decide (p + i < e) && a.getLsbD (p + i))
    ∧ (bfeS n a b c).getLsbD i = (decide (p < e) && a.getLsbD (if p + i < e then p + i else e - 1))
    ∧ (bfiN n d a b c).getLsbD i = (if p ≤ i ∧ i < e then a.getLsbD (i - p) else d.getLsbD i)

/-- R241 and R242: compares and mask instructions write one bit of each active lane, and nothing else changes.
R220, Table 10: the conditions of `cmp`. -/
def Obligations.MasksAndCompares : Prop :=
  (∀ (s : State) (w : BitVec 1) (c : BitVec 4) (f : RForm), s.Issues →
    Completes (.cmp w c f) s (fun t => MaskResults s t f.d
      (fun l => if w = 0 then cmpHolds 32 c.toNat (s.g.word l f.a f.lit) (s.g.word l f.b f.lit)
        else cmpHolds 64 c.toNat (s.g.dword l f.a f.lit (cmpSigned c)) (s.g.dword l f.b f.lit (cmpSigned c))) 0)
    ∧ Completes (.mand f) s (fun t => MaskResults s t f.d (fun l => s.g.mbit l f.a.toNat && s.g.mbit l f.b.toNat) 0)
    ∧ Completes (.mor f) s (fun t => MaskResults s t f.d (fun l => s.g.mbit l f.a.toNat || s.g.mbit l f.b.toNat) 0)
    ∧ Completes (.mnot f) s (fun t => MaskResults s t f.d (fun l => !s.g.mbit l f.a.toNat) 0)
    ∧ Completes (.mmov f) s (fun t => MaskResults s t f.d (fun l => s.g.mbit l f.a.toNat) 0))
  ∧ (∀ (n : Nat) (a b : BitVec n),
    cmpHolds n 0 a b = decide (a = b) ∧ cmpHolds n 1 a b = decide (a ≠ b)
    ∧ cmpHolds n 2 a b = decide (a.toInt < b.toInt) ∧ cmpHolds n 3 a b = decide (a.toInt ≤ b.toInt)
    ∧ cmpHolds n 4 a b = decide (b.toInt < a.toInt) ∧ cmpHolds n 5 a b = decide (b.toInt ≤ a.toInt)
    ∧ cmpHolds n 6 a b = decide (a.toNat < b.toNat) ∧ cmpHolds n 7 a b = decide (a.toNat ≤ b.toNat)
    ∧ cmpHolds n 8 a b = decide (b.toNat < a.toNat) ∧ cmpHolds n 9 a b = decide (b.toNat ≤ a.toNat))

/-! ### Floating point, conversions and cross-lane instructions -/

/-- R268, R271, R275 and R276: each active lane computes by itself, writes its result and raises its flags; nothing else
changes. -/
def Obligations.FloatResults : Prop :=
  ∀ (s : State) (t : BitVec 2) (f : RForm) (c : BitVec 3) (v : BitVec 5), s.Issues →
    let k := t.toNat
    let m := fmtOf k
    let rm := f.p.rm.toNat
    let a := fun l => s.g.fop k l f.a f.lit
    let b := fun l => s.g.fop k l f.b f.lit
    Completes (.fadd t f) s (fun u => FloatResult s u k f.d (fun l => m.add rm (a l) (b l)))
    ∧ Completes (.fsub t f) s (fun u => FloatResult s u k f.d (fun l => m.sub rm (a l) (b l)))
    ∧ Completes (.fmul t f) s (fun u => FloatResult s u k f.d (fun l => m.mul rm (a l) (b l)))
    ∧ Completes (.fma t f) s (fun u => FloatResult s u k f.d (fun l => m.fma rm (a l) (b l) (s.g.fop k l f.p.c f.lit)))
    ∧ Completes (.fmin t f) s (fun u => FloatResult s u k f.d (fun l => m.minmax false (a l) (b l)))
    ∧ Completes (.fmax t f) s (fun u => FloatResult s u k f.d (fun l => m.minmax true (a l) (b l)))
    ∧ Completes (.frnd t f) s (fun u => FloatResult s u k f.d (fun l => m.rnd rm (a l)))
    ∧ Completes (.fscale t f) s (fun u => FloatResult s u k f.d (fun l => m.scale rm (a l) (s.g.word l f.b f.lit).toInt))
    ∧ Completes (.fcmp t c f) s (fun u => MaskResults s u f.d (fun l => (m.cmp c.toNat (a l) (b l)).1)
        (s.g.orFlags (fun l => (m.cmp c.toNat (a l) (b l)).2)))
    ∧ Completes (.cvt v f) s (fun u => FloatResult s u v.toNat f.d
        (fun l => (fmtOf v.toNat).round rm ((fmtOf (srcCode f)).decode (s.g.fop (srcCode f) l f.a f.lit))))
    ∧ Completes (.cvti v f) s (fun u => Results s u f.d (codeWords v.toNat)
        (fun l => splitN (codeWords v.toNat) (cvtInt rm (srcCode f) v.toNat (s.g.cop (srcCode f) l f.a f.lit)).bits) clean
        (s.g.orFlags (fun l => (cvtInt rm (srcCode f) v.toNat (s.g.cop (srcCode f) l f.a f.lit)).flags)))

/-- R272: a packed form is two operations, one on each half of the word; both halves' flags are raised. -/
def Obligations.PackedResults : Prop :=
  ∀ (s : State) (f : RForm), s.Issues →
    let rm := f.p.rm.toNat
    let lo := fun (v : BitVec 7) (l : Nat) => (s.g.word l v f.lit).toNat % 2 ^ 16
    let hi := fun (v : BitVec 7) (l : Nat) => (s.g.word l v f.lit).toNat / 2 ^ 16
    let halves := fun (i : Instr) (op : Nat → Nat → Nat → Rslt) =>
      Completes i s (fun u => FloatResult s u 1 f.d (fun l =>
        ⟨(op (lo f.a l) (lo f.b l) (lo f.p.c l)).bits + (op (hi f.a l) (hi f.b l) (hi f.p.c l)).bits * 2 ^ 16,
         (op (lo f.a l) (lo f.b l) (lo f.p.c l)).flags ||| (op (hi f.a l) (hi f.b l) (hi f.p.c l)).flags⟩))
    halves (.haddF16x2 f) (fun a b _ => f16.add rm a b)
    ∧ halves (.hmulF16x2 f) (fun a b _ => f16.mul rm a b)
    ∧ halves (.hfmaF16x2 f) (fun a b c => f16.fma rm a b c)
    ∧ halves (.haddBf16x2 f) (fun a b _ => bf16.add rm a b)
    ∧ halves (.hmulBf16x2 f) (fun a b _ => bf16.mul rm a b)
    ∧ halves (.hfmaBf16x2 f) (fun a b c => bf16.fma rm a b c)

/-- R176 and R275: rounding changes no value that the format holds, under any rounding mode, and raises nothing.
R268: any operation on a NaN gives the default NaN, with NV where an operand is signalling; ∞ − ∞ and 0 × ∞ give it
with NV. -/
def Obligations.FloatRounding : Prop :=
  (∀ (t rm x : Nat), t < 4 → x < 2 ^ (fmtOf t).bits → ((fmtOf t).decode x).isNan = false →
    (fmtOf t).round rm ((fmtOf t).decode x) = ⟨x, 0⟩)
  ∧ (∀ (t rm x y : Nat),
    let m := fmtOf t
    let a := m.decode x
    let b := m.decode y
    ((a.isNan = true ∨ b.isNan = true) →
      m.add rm x y = ⟨m.nanBits, nvIf (a.isSnan || b.isSnan)⟩ ∧ m.sub rm x y = ⟨m.nanBits, nvIf (a.isSnan || b.isSnan)⟩
      ∧ m.mul rm x y = ⟨m.nanBits, nvIf (a.isSnan || b.isSnan)⟩)
    ∧ (∀ n, a = .inf n → b = .inf (!n) → m.add rm x y = ⟨m.nanBits, flNV⟩)
    ∧ (∀ n, a = .inf n → b = .inf n → m.sub rm x y = ⟨m.nanBits, flNV⟩)
    ∧ (∀ n n' e, a = .inf n → b = .fin n' 0 e → m.mul rm x y = ⟨m.nanBits, flNV⟩)
    ∧ (∀ n n' e, a = .fin n' 0 e → b = .inf n → m.mul rm x y = ⟨m.nanBits, flNV⟩))

/-- R269, Table 2: `fclass` writes exactly one bit, the one of the operand's class; the quiet bit is the highest bit of the fraction. -/
def Obligations.FloatClasses : Prop :=
  (∀ (s : State) (t : BitVec 2) (f : RForm), s.Issues →
    Completes (.fclass t f) s (fun u => Results s u f.d 1
      (fun l => [BitVec.ofNat 32 ((fmtOf t.toNat).classOf (s.g.fop t.toNat l f.a f.lit))]) clean 0))
  ∧ (∀ (t x : Nat), t < 4 →
    let m := fmtOf t
    let e := x / 2 ^ m.fb % 2 ^ m.eb
    let fr := x % 2 ^ m.fb
    let neg := x / 2 ^ (m.eb + m.fb) % 2 = 1
    let quiet := x.testBit ([51, 22, 9, 6].getD t 0)
    (m.classOf x = 2 ^ 0 ↔ neg ∧ e = 2 ^ m.eb - 1 ∧ fr = 0)
    ∧ (m.classOf x = 2 ^ 1 ↔ neg ∧ 0 < e ∧ e < 2 ^ m.eb - 1)
    ∧ (m.classOf x = 2 ^ 2 ↔ neg ∧ e = 0 ∧ fr ≠ 0)
    ∧ (m.classOf x = 2 ^ 3 ↔ neg ∧ e = 0 ∧ fr = 0)
    ∧ (m.classOf x = 2 ^ 4 ↔ ¬neg ∧ e = 0 ∧ fr = 0)
    ∧ (m.classOf x = 2 ^ 5 ↔ ¬neg ∧ e = 0 ∧ fr ≠ 0)
    ∧ (m.classOf x = 2 ^ 6 ↔ ¬neg ∧ 0 < e ∧ e < 2 ^ m.eb - 1)
    ∧ (m.classOf x = 2 ^ 7 ↔ ¬neg ∧ e = 2 ^ m.eb - 1 ∧ fr = 0)
    ∧ (m.classOf x = 2 ^ 8 ↔ e = 2 ^ m.eb - 1 ∧ fr ≠ 0 ∧ quiet = false)
    ∧ (m.classOf x = 2 ^ 9 ↔ e = 2 ^ m.eb - 1 ∧ quiet = true)
    ∧ ∃ k, k < 10 ∧ m.classOf x = 2 ^ k)

/-- R271: what `fcmp` answers, and when it raises NV. -/
def Obligations.FloatConditions : Prop :=
  ∀ (t x y : Nat),
    let m := fmtOf t
    let a := m.decode x
    let b := m.decode y
    let sn := if a.isSnan = true ∨ b.isSnan = true then flNV else 0
    ((a.isNan = true ∨ b.isNan = true) →
      m.cmp 0 x y = (false, sn) ∧ m.cmp 1 x y = (true, sn) ∧ m.cmp 2 x y = (false, flNV) ∧ m.cmp 3 x y = (false, flNV)
      ∧ m.cmp 4 x y = (false, flNV) ∧ m.cmp 5 x y = (false, flNV) ∧ m.cmp 6 x y = (true, sn) ∧ m.cmp 7 x y = (false, sn))
    ∧ ((a.isNan = false ∧ b.isNan = false) → ∀ c, c < 8 →
      (m.cmp c x y).2 = 0
      ∧ (m.cmp 1 x y).1 = !(m.cmp 0 x y).1
      ∧ ((m.cmp 3 x y).1 = true ↔ (m.cmp 2 x y).1 = true ∨ (m.cmp 0 x y).1 = true)
      ∧ ((m.cmp 5 x y).1 = true ↔ (m.cmp 4 x y).1 = true ∨ (m.cmp 0 x y).1 = true)
      ∧ m.cmp 6 x y = (false, 0) ∧ m.cmp 7 x y = (true, 0))
    ∧ (∀ n n' e e', a = .fin n 0 e → b = .fin n' 0 e' → (m.cmp 0 x y).1 = true ∧ (m.cmp 2 x y).1 = false)

/-- R268, R270, R278 to R281: where their flag has room, the long-latency instructions of the vector chapter start an operation
with their results, and its completion writes them; `sqrt` gives the correctly rounded root, a special function the f32 that the model leaves free within
the bound of R194.
R281: an operation that the vector unit or the conversion queue holds takes effect at its completion: its registers are
written, its flags are raised, its completion flag falls, and it is gone.
R280 and R187: `cvts` draws once for each active lane, at issue: the state of the generator moves on at once, and the
results come with the completion, which leaves other registers, gang ids and memory as they were. -/
def Obligations.LongOperations : Prop :=
  (∀ (s : State) (t : BitVec 2) (f : RForm) (v : BitVec 5), s.Issues → s.g.flagRoom (s.g.flagFor f.d) = true →
    let k := t.toNat
    let starts := fun (i : Instr) (n : Nat) (vs : Nat → List Word) (fl dt : Nat) =>
      StartsOp s i (computeOp s f.d n vs fl) dt .longOpComplete ∧ Finishes s i .longOpComplete (fun _ => true) f.d n vs fl
    let one := fun (i : Instr) (op : Nat → Rslt) =>
      starts i (if t = 0 then 2 else 1) (fun l => fwords k (op (s.g.fop k l f.a f.lit)).bits)
        (s.g.orFlags (fun l => (op (s.g.fop k l f.a f.lit)).flags)) 24
    one (.sqrt t f) (fun x => (fmtOf k).sqrt f.p.rm.toNat x)
    ∧ one (.exp2 t f) (specialFn k 10)
    ∧ one (.log2 t f) (specialFn k 11)
    ∧ one (.rcp t f) (specialFn k 12)
    ∧ one (.rsqrt t f) (specialFn k 13)
    ∧ one (.sin t f) (specialFn k 14)
    ∧ one (.cos t f) (specialFn k 15)
    ∧ one (.tanh t f) (specialFn k 16)
    ∧ one (.sigm t f) (specialFn k 17)
    ∧ one (.erf t f) (specialFn k 18)
    ∧ (let n := blockLen v.toNat
       let val := fun l => (fmtOf (srcCode f)).decode (s.g.fop (srcCode f) l f.a f.lit)
       let sc := fun j => blockScale v.toNat (s.g.blockVals n val j)
       let el := fun l => blockElem v.toNat (sc (l / n)).1 (sc (l / n)).2 (l % n) (val l)
       starts (.cvtq v f) 1 (fun l => [blockWord (sc (l / n)).2 (sc (l / n)).1 (el l).bits])
         ((s.g.blocks n).foldl (fun a j =>
           a ||| s.g.blockFlags n j ((s.g.blockVals n val j).any Machine.Num.isNan) (fun i => (el (n * j + i)).flags)) 0) 16)
    ∧ (let r := fun l => (fmtOf v.toNat).round f.p.rm.toNat (blockDecode (srcCode f)
         ((s.g.word l f.a f.lit).toNat / 2 ^ 8 % 256) ((s.g.word l f.a f.lit).toNat / 2 ^ 16 % 256)
         ((s.g.word l f.a f.lit).toNat % 256) (l % blockLen (srcCode f)))
       starts (.dcvtq v f) (if v = 0 then 2 else 1) (fun l => fwords v.toNat (r l).bits) (s.g.orFlags (fun l => (r l).flags)) 16))
  ∧ (∀ (s : State) (d : BitVec 7) (n dt fl : Nat) (vs : Nat → List Word), s.Issues →
    s.g.flagRoom (s.g.flagFor d) = true → (∀ l, (vs l).length ≤ n) →
    ∃ t u, s.compute d n vs fl dt = .next t ∧ exec (.longOpComplete s.nextId) t = .next u
      ∧ Tab.find u.ops s.nextId = none
      ∧ Gid.OnlyRegs s.g u.g d n ∧ Gid.Holds u.g s.g d vs
      ∧ u.g.sticky = s.g.sticky ||| BitVec.ofNat 64 fl
      ∧ (∀ k, Tab.get 0 u.g.flags k = Tab.get 0 s.g.flags k)
      ∧ u.g.gang.pend = []
      ∧ u.mem = s.mem ∧ u.wr = s.wr ∧ u.regs = s.regs
      ∧ (∀ k, k ≠ s.cur → Tab.find u.gids k = Tab.find s.gids k))
  ∧ (∀ (s : State) (c : BitVec 5) (f : RForm), s.Issues → s.g.flagRoom (s.g.flagFor f.d) = true →
    let rounded := fun (l : Nat) => [BitVec.ofNat 32 (sroundF (fmtOf c.toNat)
      ((rngDraws s.g.rng s.g.actives.length).1.getD (s.g.actives.filter (· < l)).length 0)
      (f32.decode (s.g.word l f.a f.lit).toNat)).bits]
    (∃ t u, exec (.cvts c f) s = .next t ∧ exec (.longOpComplete s.nextId) t = .next u ∧ Tab.find u.ops s.nextId = none
      ∧ Gid.OnlyRegs s.g u.g f.d 1 ∧ (c.toNat < 4 → Gid.Holds u.g s.g f.d rounded) ∧ u.mem = s.mem ∧ u.wr = s.wr
      ∧ u.g.gang.buf = s.g.gang.buf.tail ∧ ∀ k, k ≠ s.cur → Tab.find u.gids k = Tab.find s.gids k)
    ∧ Completes (.cvts c f) s (fun t =>
      t.g.rng = (rngDraws s.g.rng s.g.actives.length).2
      ∧ (∃ o, Tab.find t.ops s.nextId = some o ∧ o.dst = f.d ∧ o.kind = .compute ∧ o.gid = s.cur
        ∧ (c.toNat < 4 → ∃ fl, o.writes = s.g.wrOn (fun _ => true) f.d rounded ++ [.sticky fl]))
      ∧ (s.ptime + 16, Due.event (.longOpComplete s.nextId)) ∈ t.agenda
      ∧ t.g.lanes = s.g.lanes ∧ t.g.y = s.g.y ∧ t.g.sticky = s.g.sticky ∧ t.mem = s.mem
      ∧ t.g.gang.buf = s.g.gang.buf.tail
      ∧ t = { s with nextId := t.nextId, ops := t.ops, agenda := t.agenda, gids := t.gids }
      ∧ ∀ k, k ≠ s.cur → Tab.find t.gids k = Tab.find s.gids k))

/-- R282 to R285: cross-lane instructions, every source read before any lane writes. `homeOf` turns a lane id into a home lane,
`has` says that it exists and is active, and `prim` is the lane itself outside protected mode (R388). In protected mode the shadow of
the elected lane agrees with it on what it supplies (R389).
R283: `wrlane` writes the uniform a into the lane that b names, where it exists and is active, and nowhere else. Its
destination is a lane register (any other raises the illegal-instruction cause at its clause).
R285: without protected mode the combinations run over the active lanes in ascending order: `reduce` gives every lane
what `scan` gives the highest. -/
def Obligations.CrossLanes : Prop :=
  (∀ (s : State) (f : RForm) (o : BitVec 3), s.Issues →
    let g := s.g
    let e := g.elected
    let k := (g.word e f.b f.lit).toNat
    let puts := fun (i : Instr) (vs : Nat → Word) => Completes i s (fun t => Results s t f.d 1 (fun l => [vs l]) clean 0)
    let from_ := fun (l : Nat) (src : Option Nat) => match src with
      | some j => if g.has j = true then g.word (g.homeOf j) f.a f.lit else g.word (g.prim l) f.a f.lit
      | none => g.word (g.prim l) f.a f.lit
    let own := fun l => g.laneId (g.prim l)
    let b := fun l => (g.word (g.prim l) f.b f.lit).toNat
    let agrees := fun (x : BitVec 7) => g.mismatch (g.supplies (fun l => [(g.word l x f.lit).zeroExtend 64])) = none
    (agrees f.a → puts (.bcast f) (fun _ => g.word e f.a f.lit))
    ∧ (agrees f.b → puts (.rdlane f) (fun _ => if g.has k = true then g.word (g.homeOf k) f.a f.lit else 0))
    ∧ Completes (.voteAny f) s (fun t => MaskResults s t f.d (fun _ => g.peers.any (fun l => g.mbit l f.a.toNat)) 0)
    ∧ Completes (.voteAll f) s (fun t => MaskResults s t f.d (fun _ => g.peers.all (fun l => g.mbit l f.a.toNat)) 0)
    ∧ Completes (.voteUni f) s (fun t => MaskResults s t f.d
        (fun _ => g.peers.all (fun l => g.mbit l f.a.toNat == g.mbit e f.a.toNat)) 0)
    ∧ Completes (.ballot f) s (fun t => Results s t f.d 2
        (fun _ => splitN 2 ((g.peers.filter (fun l => g.mbit l f.a.toNat)).map (fun l => 2 ^ g.laneId l)).sum) clean 0)
    ∧ puts (.shflIdx f) (fun l => from_ l (some (b l)))
    ∧ puts (.shflUp f) (fun l => from_ l (if b l ≤ own l then some (own l - b l) else none))
    ∧ puts (.shflDown f) (fun l => from_ l (some (own l + b l)))
    ∧ puts (.shflXor f) (fun l => from_ l (some (own l ^^^ b l)))
    ∧ puts (.elect f) (fun l => if g.prim l = e then 1 else 0)
    ∧ puts (.reduce o f) (fun _ => combineAll o.toNat (g.peers.map (fun l => g.word l f.a f.lit)))
    ∧ puts (.scan o f) (fun l => combineAll o.toNat
        ((g.peers.filter (fun j => decide (j ≤ g.prim l))).map (fun j => g.word j f.a f.lit))))
  ∧ (∀ (s : State) (f : RForm), s.Issues → f.d.toNat < 96 →
    let g := s.g
    let k := (g.word g.elected f.b f.lit).toNat
    g.mismatch (g.supplies (fun l => [(g.word l f.a f.lit).zeroExtend 64, (g.word l f.b f.lit).zeroExtend 64])) = none →
    Completes (.wrlane f) s (fun t =>
      OnlyGang s t ∧ Gid.OnlyRegs g t.g f.d 1 ∧ t.g.gang = g.advance.gang ∧ t.g.sticky = g.sticky
      ∧ ∀ l, g.isActive l = true → t.g.regAt l f.d 0 =
          if g.has k = true ∧ g.laneId l = k then g.word g.elected f.a f.lit else g.regAt l f.d 0))
  ∧ (∀ (g : Gid) (o : Nat) (f : RForm) (l : Nat), g.prot = false → g.isActive l = true →
    (∀ j, g.isActive j = true → j ≤ l) →
    combineAll o ((g.peers.filter (fun j => decide (j ≤ g.prim l))).map (fun j => g.word j f.a f.lit))
      = combineAll o (g.peers.map (fun j => g.word j f.a f.lit)))

/-! ### Control, waiting and exceptions -/

/-- R229 to R231: branches, calls and register transfers, where primary and shadow lanes agree (as they do outside protected
mode). A call writes the address of the word after its clause into its link first. -/
def Obligations.ControlTransfers : Prop :=
  ∀ (s : State) (b : BForm) (j : JForm) (r : RForm), s.Issues →
    let g := s.g
    let link := splitD g.gang.next
    (Completes (.br b) s (fun t => OnlyGang s t
        ∧ Gid.Lands g t.g s.ptime true (fun _ => g.here + (b.off.signExtend 64) * 4)))
    ∧ (g.mismatch (fun l => [BitVec.ofNat 64 (g.mbit l b.mreg.toNat != b.neg.getLsbD 0).toNat]) = none →
      Completes (.brM b) s (fun t => OnlyGang s t
        ∧ Gid.Lands g t.g s.ptime true (fun l =>
          if (g.mbit l b.mreg.toNat != b.neg.getLsbD 0) = true then g.here + (b.off.signExtend 64) * 4 else g.gang.next)))
    ∧ (Completes (.call j) s (fun t => OnlyGang s t
        ∧ ∃ h, Gid.OnlyRegs g h j.d 2 ∧ Gid.Holds h g j.d (fun _ => link) ∧ h.gang = g.gang
          ∧ Gid.Lands h t.g s.ptime false (fun _ => g.here + (j.off.signExtend 64) * 4)))
    ∧ (g.mismatch (fun l => [g.dword l r.a r.lit]) = none →
      Completes (.jmp r) s (fun t => OnlyGang s t ∧ Gid.Lands g t.g s.ptime true (fun l => g.dword l r.a r.lit))
      ∧ Completes (.ret r) s (fun t => OnlyGang s t ∧ Gid.Lands g t.g s.ptime false (fun l => g.dword l r.a r.lit))
      ∧ Completes (.callReg r) s (fun t => OnlyGang s t
        ∧ ∃ h, Gid.OnlyRegs g h r.d 2 ∧ Gid.Holds h g r.d (fun _ => link) ∧ h.gang = g.gang
          ∧ Gid.Lands h t.g s.ptime false (fun l => g.dword l r.a r.lit)))

/-- R233 to R235: the forms that end their clause, and the hints. `wbase` with a value that R171 accepts in every active lane
moves the windows; what it does with another value is IllegalStops. -/
def Obligations.ClauseEnds : Prop :=
  ∀ (s : State) (h : BitVec 4) (f : RForm), s.Issues →
    let g := s.g
    Completes .reform s (fun t => OnlyGang s t ∧ Gid.Files g t.g s.ptime (fun _ => g.gang.next))
    ∧ Completes .nop s (fun t => OnlyGang s t ∧ t.g = g.advance)
    ∧ Completes (.reservedHint h f) s (fun t => OnlyGang s t ∧ t.g = g.advance)
    ∧ Completes .yield s (fun t =>
        t = { s with gids := t.gids, cores := t.cores } ∧ Gid.Continues g t.g s.ptime g.gang.next
        ∧ (t.core g.core) = { s.core g.core with yielded := some (s.cur, g.gang.uid) })
    ∧ ((∀ l, g.isActive l = true → (g.word l f.a f.lit).toNat % 32 = 0 ∧ (g.word l f.a f.lit).toNat < g.regs) →
      Completes (.wbase f) s (fun t => OnlyGang s t ∧ t.g.gang.hdr = g.gang.next ∧ t.g.gang.running = false
        ∧ ∀ l, t.g.lane l = if g.isActive l = true then
            { g.lane l with wbase := (g.word l f.a f.lit).toNat, pc := g.gang.next } else g.lane l))

/-- R197, R346, R347 and R221: flags, time and control registers. `getfl`, `clrfl` and `tfence` wait while an operation that
can raise a flag is outstanding.
R221: `setc` writes the register that imm12 names: the per-lane registers EPC, EWB and EW0–EW3 by each active lane, the
others by the elected lane, in their RW fields; `getc` then reads it so. -/
def Obligations.ControlRegisters : Prop :=
  (∀ (s : State) (f : RForm) (i : IForm), s.Issues →
    let g := s.g
    let e := g.elected
    (s.flagsOpen s.cur = false →
      Completes (.getfl f) s (fun t => Results s t f.d 1 (fun _ => [(g.sticky.extractLsb' 0 6).zeroExtend 32]) clean 0))
    ∧ (s.flagsOpen s.cur = false → g.mismatch (g.supplies (fun l => [(g.word l f.a f.lit).zeroExtend 64])) = none →
      Completes (.clrfl f) s (fun t => OnlyGang s t ∧ Gid.OnlyRegs g t.g f.d 1
        ∧ Gid.Holds t.g g f.d (fun _ => [(g.sticky.extractLsb' 0 6).zeroExtend 32])
        ∧ t.g.sticky = g.sticky &&& ~~~(((g.word e f.a f.lit).extractLsb' 0 6).zeroExtend 64)
        ∧ t.g.gang = g.advance.gang))
    ∧ (s.flagsOpen s.cur = false → (g.sticky.extractLsb' 0 6 &&& g.sticky.extractLsb' 8 6) = 0 →
      Completes .tfence s (fun t => OnlyGang s t ∧ Gid.Continues g t.g s.ptime g.gang.next))
    ∧ Completes (.rdtime f) s (fun t => Results s t f.d 2 (fun _ => splitD (BitVec.ofNat 64 s.ptime)) clean 0)
    ∧ Completes (.getc i) s (fun t => Results s t i.d 2
        (fun l => splitD (s.ctlRead (if 0x43 ≤ i.imm.toNat ∧ i.imm.toNat ≤ 0x49 then l else e) i.imm.toNat)) clean 0))
  ∧ (∀ (s : State) (i : IForm), s.Issues →
    let g := s.g
    let n := i.imm.toNat
    let v := g.dword g.elected i.a i.lit
    (0x43 ≤ n ∧ n ≤ 0x49 → Completes (.setc i) s (fun t => OnlyGang s t ∧ t.g.gang = g.advance.gang
      ∧ ∀ l, g.isActive l = true →
        (n = 0x43 → (t.g.lane l).epc = g.dword l i.a i.lit)
        ∧ (n = 0x44 → (t.g.lane l).ewb = g.dword l i.a i.lit)
        ∧ (n = 0x45 → t.g.lane l = g.lane l)
        ∧ (0x46 ≤ n → Tab.get 0 (t.g.lane l).ew (n - 0x46) = (g.dword l i.a i.lit).extractLsb' 0 32)))
    ∧ (¬ (0x43 ≤ n ∧ n ≤ 0x49) → g.mismatch (g.supplies (fun l => [g.dword l i.a i.lit])) = none →
      Completes (.setc i) s (fun t => t.mem = s.mem ∧ t.wr = s.wr ∧ t.g.lanes = g.lanes ∧ t.g.gang = g.advance.gang
        ∧ (n = 0x001 → t.g.sticky = v &&& 0x3F3F#64)
        ∧ (n = 0x002 → (t.lc g.core g.kslot).quota = max 1 (min (v.toNat % 2 ^ 7) (s.lc g.core g.kslot).limit)
            ∧ (t.lc g.core g.kslot).split = v.toNat / 2 ^ 8 % 2 ^ 6)
        ∧ (n = 0x003 → (t.lc g.core g.kslot).age = max 16 (v.toNat % 2 ^ 12) ∧ (t.lc g.core g.kslot).aged = v.toNat / 2 ^ 32)
        ∧ (n = 0x005 → Tab.find (t.core g.core).spconf g.team = some v)
        ∧ (n = 0x020 → (t.core g.core).mat.mxstat = v)
        ∧ (n = 0x006 → t.g.rng = if v = 0 then 0x9E3779B97F4A7C15#64 else v)
        ∧ (n = 0x040 → (t.lc g.core g.kslot).tvec = v &&& 0x01FFFFFFFFFFFFFD#64)
        ∧ (n = 0x042 → t.g.eact = v)
        ∧ (0x4A ≤ n ∧ n ≤ 0x4D → Tab.get 0 t.g.ks (n - 0x4A) = v)
        ∧ (n = 0x000 ∨ n = 0x004 ∨ n = 0x007 ∨ n = 0x021 ∨ n = 0x022 ∨ n = 0x041 ∨ n = 0x050 ∨ n = 0x081 →
            OnlyGang s t ∧ t.g = g.advance))))

/-- R344, R378 and R346: a software trap, a breakpoint and a pending arithmetic exception stop the gang after the
instruction, with the code in `a` of the elected lane; with a handler enabled and none running, the entry into it follows.
R235, R345 and R370: a `wbase` value that R171 does not accept and an `eret` outside a handler take the
illegal-instruction cause after the instruction, which ends the team, by its first such cause (R391); no WBASE changes. -/
def Obligations.TrapsAndIllegal : Prop :=
  (∀ (s : State) (f : RForm), s.Issues →
    let g := s.g
    let e := g.elected
    g.inHandler = false → (s.lc g.core g.kslot).tvec.getLsbD 0 = true →
    let stops := fun (i : Instr) (c : BitVec 8) (lane : Nat) (code : BitVec 16) => Completes i s (fun t =>
      t = { s with gids := t.gids, agenda := t.agenda } ∧ (∀ k, k ≠ s.cur → Tab.find t.gids k = Tab.find s.gids k)
      ∧ t.awaits (.handlerEntry s.cur) = true
      ∧ ∃ h, Gid.Continues g h s.ptime g.gang.next
        ∧ Gid.HeldWith h t.g { cause := c, lane := lane, code := code, pc := g.gang.next })
    (g.mismatch (g.supplies (fun l => [(g.word l f.a f.lit).zeroExtend 64])) = none →
      stops (.trap f) 0x02 e ((g.word e f.a f.lit).extractLsb' 0 16)
      ∧ stops (.brk f) 0x03 e ((g.word e f.a f.lit).extractLsb' 0 16))
    ∧ (s.flagsOpen s.cur = false → (g.sticky.extractLsb' 0 6 &&& g.sticky.extractLsb' 8 6) ≠ 0 → stops .tfence 0x04 0 0))
  ∧ (∀ (s : State) (f : RForm), s.Issues →
    let g := s.g
    let stops := fun (i : Instr) => Completes i s (fun t =>
      t.awaits (.teamEnd g.team) = true ∧ t.mem = s.mem ∧ t.wr = s.wr ∧ t.regs = s.regs
      ∧ ((Tab.find s.teams g.team).isSome = true →
          (∀ st, (s.team g.team).ending = some st → (t.team g.team).ending = some st)
          ∧ ((s.team g.team).ending = none →
              ∃ st, (t.team g.team).ending = some st ∧ st.cause = 0x10 ∧ st.pc = g.gang.next))
      ∧ ∃ h lane, Gid.Continues g h s.ptime g.gang.next
        ∧ Gid.HeldWith h t.g { cause := 0x10, lane := lane, pc := g.gang.next })
    ((∃ l, g.isActive l = true ∧ ¬ ((g.word l f.a f.lit).toNat % 32 = 0 ∧ (g.word l f.a f.lit).toNat < g.regs)) → stops (.wbase f))
    ∧ (g.inHandler = false → stops .eret))

/-- R373 steps 4 and 5, R369 and R372: once nothing of gang id `k` issues or drains and no lease renewal of its launch is being served, its oldest stopped gang enters the handler: what is saved, and
where its threads go on.
R345 and R376 steps 1 to 4: `eret` from a handler for a cause other than pre-emption. Threads whose EACT bit is set and
whose EPC is RPC go on there, mid-clause at OFS with w0–w3 from EW0–EW3 where OFSV is set; the others are filed. -/
def Obligations.HandlerRoundTrip : Prop :=
  (∀ (s : State) (k : Nat) (gg : Gang) (rest : List Gang) (st : Stop),
    (Tab.find s.gids k).isSome = true → (s.gid k).inHandler = false → s.stopping (s.gid k).team = false →
    (s.gid k).gang = {} → (s.gid k).others = [] → s.draining k = false →
    (∀ r ∈ (s.launch (s.gid k).launch).recs, r.st ≠ .renewing) →
    (s.gid k).held = gg :: rest → gg.stop = some st → gg.off < 32 → st.lane < 64 →
    let g := s.gid k
    let hpc := (s.lc g.core g.kslot).tvec &&& 0x01FFFFFFFFFFFFFC#64
    Completes (.handlerEntry k) s (fun t =>
      let h := t.gid k
      t = { s with gids := t.gids, agenda := t.agenda, nextId := s.nextId + 1, cores := t.cores }
      ∧ (∀ j, j ≠ k → Tab.find t.gids j = Tab.find s.gids j)
      ∧ (∀ c, c ≠ g.core → t.core c = s.core c)
      ∧ t.core g.core = { s.core g.core with mat := { (s.core g.core).mat with tspend := (t.core g.core).mat.tspend } }
      ∧ (s.ptime + ccNs 32, Due.event (.clauseStart g.core)) ∈ t.agenda
      ∧ field h.gcause 7 0 = st.cause.toNat ∧ h.gcause.getLsbD 15 = true ∧ h.gcause.getLsbD 14 = st.ofsv
      ∧ field h.gcause 12 8 = (if st.ofsv = true then gg.off else 0) ∧ field h.gcause 37 32 = st.lane
      ∧ field h.gcause 63 48 = st.code.toNat
      ∧ h.rpc = st.pc ∧ h.eact = gg.active ∧ h.ytaint = [] ∧ h.held = rest ∧ h.y = g.y ∧ h.sticky = g.sticky
      ∧ h.gang.hdr = hpc ∧ h.gang.active = gg.active
      ∧ ∀ l, l < g.lanes.length →
        if gg.active.getLsbD l = true then
          h.lane l = { g.lane l with
            epc := st.pc, ewb := BitVec.ofNat 64 (g.lane l).wbase, eaddr := Tab.get 0 st.addrs l, ew := (g.lane l).w, taint := []
            st := .issuing, wasWaiting := decide ((g.lane l).st = .waiting), pc := hpc }
        else h.lane l = g.lane l))
  ∧ (∀ (s : State), s.Issues → s.g.inHandler = true → field s.g.gcause 7 0 ≠ 1 →
    let g := s.g
    let keeps := fun l => g.eact.getLsbD l && decide ((g.lane l).epc = g.rpc)
    let ofsv := g.gcause.getLsbD 14
    Completes .eret s (fun t =>
      t.mem = s.mem ∧ t.wr = s.wr ∧ t.regs = s.regs ∧ (∀ j, j ≠ s.cur → Tab.find t.gids j = Tab.find s.gids j)
      ∧ t.g.gcause = 0 ∧ t.g.y = g.y ∧ t.g.sticky = g.sticky ∧ t.g.held = g.held
      ∧ (∀ l, t.g.lane l =
          if g.isActive l = true then
            if keeps l = true then
              { g.lane l with wbase := (g.lane l).ewb.toNat, w := if ofsv then (g.lane l).ew else (g.lane l).w, pc := g.rpc, st := .issuing }
            else
              { g.lane l with wbase := (g.lane l).ewb.toNat, w := if ofsv then (g.lane l).ew else (g.lane l).w, pc := (g.lane l).epc
                              st := .filed, filedAt := s.ptime }
          else g.lane l)
      ∧ ((∃ l, g.isActive l = true ∧ keeps l = true) →
          t.g.gang.hdr = g.rpc ∧ t.g.gang.off = (if ofsv then field g.gcause 12 8 else 0)
          ∧ ∀ l, l < 64 → t.g.gang.active.getLsbD l = (g.isActive l && keeps l))
      ∧ (g.held ≠ [] → t.awaits (.handlerEntry s.cur) = true)))

/-- R233, R338 and R365: where no load, atomic, computation or `imprintq` of its active threads and no write of its gang id is
outstanding, and no word of a weight page of its pair is unacknowledged, `exit` makes the active threads EXITED and gives the gang's
context back; memory and registers stay, and the team retires with its last thread. While one is outstanding it waits.
R341 and R342: `lwait` and `waitw`, each at once or by waiting. A tentative team has committed before (`commitFirst`);
`lwaitNow` is the dispatcher's answer; the word of `waitw` has been read (`ownReqs`). -/
def Obligations.ThreadsExitOrWait : Prop :=
  (∀ (s : State), s.Issues →
    let pair := pairOf s.g.core
    let mine := fun (o : Op) => o.gid = s.cur ∧ (o.kind = .load ∨ o.kind = .amo ∨ o.kind = .compute ∨ o.kind = .imprint)
      ∧ o.lanes &&& s.g.gang.active ≠ 0
    ((∀ e ∈ s.ops, ¬ mine e.2) → (∀ e ∈ s.reqs, e.2.kind = .write → e.2.gid ≠ s.cur ∧ (pairOf e.2.core = pair → (s.req e.1).wt = false)) →
      (∀ l ∈ (s.pair pair).l1, l.wt = true → l.dirty = 0) →
      Completes .exit s (fun t => t.mem = s.mem ∧ t.wr = s.wr ∧ t.regs = s.regs ∧ t.g.gang = {}
        ∧ (∀ l, s.g.isActive l = true →
          (t.g.lane l).st = .exited ∧ (t.g.lane l).x = (s.g.lane l).x ∧ (t.g.lane l).pc = (s.g.lane l).pc)
        ∧ (s.gids = [(s.cur, s.g)] → (∀ l, l < s.g.lanes.length → s.g.isActive l = true) →
            t.awaits (.teamRetire s.g.team) = true)))
    ∧ ((∃ e ∈ s.ops, mine e.2) → exec .exit s = .next s))
  ∧ (∀ (s : State) (f : RForm), s.Issues →
    let g := s.g
    let e := g.elected
    let a := g.dword e f.a f.lit
    let b := g.word e f.b f.lit
    (g.mismatch (g.supplies (fun l => [g.dword l f.a f.lit])) = none → s.commitFirst = .ok () →
      (∀ st acq, s.lwaitNow a (s.launch g.launch).tenant = some (st, acq) →
        Completes (.lwait f) s (fun t => t.mem = s.mem ∧ t.wr = s.wr ∧ t.g.gang.hdr = g.gang.next ∧ t.g.gang.running = false
          ∧ Gid.OnlyRegs (g.mapActive (fun _ t => { t with pc := g.gang.next })) t.g f.d 1 ∧ Gid.HoldsOn t.g g g.isElected f.d [st]))
      ∧ (s.lwaitNow a (s.launch g.launch).tenant = none →
        Completes (.lwait f) s (fun t => t = { s with gids := t.gids, agenda := t.agenda }
          ∧ Gid.Waits g t.g (fun l => .lwait a (if g.isElected l = true then f.d else 116)))))
    ∧ (g.mismatch (g.supplies (fun l => [g.dword l f.a f.lit, (g.word l f.b f.lit).zeroExtend 64])) = none →
      ∀ x id q rest, s.checked [e] (fun _ => a) 4 rightR false false false = .ok [x] →
      s.ownReqs s.cur g.gang.uid = (id, q) :: rest → (q.reply.getD { bytes := 0 }).denied = false →
      (waitwHolds f.d.toNat (q.wordAt a.toNat) b = true →
        Completes (.waitw f) s (fun t => t.mem = s.mem ∧ t.wr = s.wr ∧ t.g.gang.hdr = g.gang.next ∧ t.g.gang.running = false
          ∧ t.g.gang.buf = [] ∧ ∀ l, g.isActive l = true → t.g.lane l = { g.lane l with pc := g.gang.next }))
      ∧ (waitwHolds f.d.toNat (q.wordAt a.toNat) b = false →
        Completes (.waitw f) s (fun t => t.mem = s.mem ∧ t.wr = s.wr ∧ t.g.gang = {} ∧ t.awaits (.waitwReread s.cur) = true
          ∧ ∀ l, g.isActive l = true → t.g.lane l = { g.lane l with
              st := .waiting, await := some (.waitw a x.pa f.d.toNat b f.p.scope.toNat e), pc := g.gang.next }))))

/-- R338: `tbar`, once what precedes it is done. The threads wait while some thread of the team has not arrived; the arrival
of the last one files them all at the clauses that follow, and the barrier's count goes up.
R339: `cbar` in the same way over every team of the cohort, with the acquire of device scope on their pairs. -/
def Obligations.Barriers : Prop :=
  (∀ (s : State), s.Issues → s.before 2 = .ok () → s.matrixOpen s.cur = false → (∃ l, s.g.isActive l = true) →
    let g := s.g
    let w := Await.tbar (s.team g.team).barrier
    let absent := fun k l => l < (s.gid k).lanes.length ∧ ((s.gid k).lane l).st ≠ .exited ∧ ((s.gid k).lane l).await ≠ some w
      ∧ ¬ (k = s.cur ∧ g.isActive l = true)
    ((∃ k ∈ s.gidsOf g.team, ∃ l, absent k l) →
      Completes .tbar s (fun t => t = { s with gids := t.gids, agenda := t.agenda }
        ∧ (∀ k, k ≠ s.cur → Tab.find t.gids k = Tab.find s.gids k) ∧ Gid.Waits g t.g (fun _ => w)))
    ∧ ((∀ k ∈ s.gidsOf g.team, ∀ l, ¬ absent k l) → (Tab.find s.teams g.team).isSome = true →
      Completes .tbar s (fun t => (t.team g.team).barrier = (s.team g.team).barrier + 1 ∧ t.mem = s.mem ∧ t.wr = s.wr
        ∧ t.g.gang = {}
        ∧ ∀ l, g.isActive l = true →
          t.g.lane l = { g.lane l with st := .filed, await := none, pc := g.gang.next, filedAt := s.ptime })))
  ∧ (∀ (s : State), s.Issues → s.before 4 = .ok () → s.matrixOpen s.cur = false → (∃ l, s.g.isActive l = true) →
    let g := s.g
    let w := Await.cbar (s.team g.team).cbarrier
    let ks := (s.cohortOf g.team).flatMap s.gidsOf
    let absent := fun k l => l < (s.gid k).lanes.length ∧ ((s.gid k).lane l).st ≠ .exited ∧ ((s.gid k).lane l).await ≠ some w
      ∧ ¬ (k = s.cur ∧ g.isActive l = true)
    ((∃ k ∈ ks, ∃ l, absent k l) →
      Completes .cbar s (fun t => t = { s with gids := t.gids, agenda := t.agenda }
        ∧ (∀ k, k ≠ s.cur → Tab.find t.gids k = Tab.find s.gids k) ∧ Gid.Waits g t.g (fun _ => w)))
    ∧ ((∀ k ∈ ks, ∀ l, ¬ absent k l) → (Tab.find s.teams g.team).isSome = true →
      Completes .cbar s (fun t => (s.team g.team).cbarrier < (t.team g.team).cbarrier ∧ t.mem = s.mem ∧ t.wr = s.wr
        ∧ t.g.gang = {}
        ∧ ∀ l, g.isActive l = true →
          t.g.lane l = { g.lane l with st := .filed, await := none, pc := g.gang.next, filedAt := s.ptime })))

/-- R343: `sleep a` makes the threads wait until `ptime` reaches its value at issue plus U(a), or files them at once where U(a) is 0; they
are filed when the time has come, and no others are. (In protected mode an elected operand on which primary and shadow disagree stops the
team, R389.) -/
def Obligations.Sleeping : Prop :=
  (∀ (s : State) (f : RForm), s.Issues →
    let g := s.g
    let n := (g.word g.elected f.a f.lit).toNat
    g.mismatch (g.supplies (fun l => [(g.word l f.a f.lit).zeroExtend 64])) = none →
      n ≤ 2 ^ 32 - 1
      ∧ (n = 0 → Completes (.sleep f) s (fun t => t = { s with gids := t.gids, agenda := t.agenda }
        ∧ (∀ k, k ≠ s.cur → Tab.find t.gids k = Tab.find s.gids k) ∧ Gid.Files g t.g s.ptime (fun _ => g.gang.next)))
      ∧ (n ≠ 0 → Completes (.sleep f) s (fun t => t = { s with gids := t.gids, agenda := t.agenda }
        ∧ (∀ k, k ≠ s.cur → Tab.find t.gids k = Tab.find s.gids k)
        ∧ Gid.Waits g t.g (fun _ => .sleep (s.ptime + n)) ∧ (s.ptime + n, Due.event (.sleepExpiry s.cur)) ∈ t.agenda)))
  ∧ (∀ (s : State) (k : Nat) (g : Gid), Tab.find s.gids k = some g → Completes (.sleepExpiry k) s (fun t =>
      t = { s with gids := t.gids, agenda := t.agenda }
      ∧ (∀ j, j ≠ k → Tab.find t.gids j = Tab.find s.gids j)
      ∧ ∀ l, l < g.lanes.length → (t.gid k).lane l
          = if (g.lane l).st = .waiting ∧ (match (g.lane l).await with
                | some (.sleep stop) => decide (stop ≤ s.ptime)
                | _ => false) = true
            then { g.lane l with st := .filed, filedAt := s.ptime, await := none } else g.lane l))

/-! ### Scratchpad, global memory and atomics -/

/-- R258 and R243: `ld.s` writes each active lane's bytes, extended under the signedness of its size; in protected mode a shadow takes
its primary's (R389). Nothing changes but the destination and the conflict counter SPCONF (R83).
R258 and R83: `st.s` outside protected mode, where no thread of the team waits: of lanes that write one byte the highest
prevails, and every other byte of the scratchpad, all device memory and every register stay as they were. -/
def Obligations.ScratchAccess : Prop :=
  (∀ (s : State) (f : MForm), s.Issues →
    s.InWindow (fun l => s.g.isActive l = true) (fun l => s.g.scrOff (s.g.prim l) f) (szBytes f.sz) →
    Completes (.ldS f) s (fun t =>
      t = { s with gids := t.gids, cores := t.cores } ∧ (∀ k, k ≠ s.cur → Tab.find t.gids k = Tab.find s.gids k)
      ∧ (∀ c, c ≠ s.g.core → t.core c = s.core c) ∧ t.core s.g.core = { s.core s.g.core with spconf := (t.core s.g.core).spconf }
      ∧ Gid.OnlyRegs s.g t.g f.d (szRegs f.sz)
      ∧ Gid.Holds t.g s.g f.d (fun l => loadWords (BitVec.ofNat 1024 ((s.pair (s.team s.g.team).pair).scrRead
          ((s.team s.g.team).winBase + (s.g.scrOff (s.g.prim l) f).toNat) (szBytes f.sz))) 0 f.sz)
      ∧ t.g.gang = s.g.advance.gang))
  ∧ (∀ (s : State) (f : MForm), s.Issues → s.g.prot = false → s.NoneWaits →
    s.InWindow (fun l => s.g.isActive l = true) (fun l => s.g.scrOff l f) (szBytes f.sz) →
    let base := (s.team s.g.team).winBase
    let covers := fun l a => s.g.isActive l = true ∧ base + (s.g.scrOff l f).toNat ≤ a
      ∧ a < base + (s.g.scrOff l f).toNat + szBytes f.sz
    Completes (.stS f) s (fun t =>
      t = { s with gids := t.gids, cores := t.cores, pairs := t.pairs } ∧ t.g = s.g.advance
      ∧ (∀ k, k ≠ s.cur → Tab.find t.gids k = Tab.find s.gids k)
      ∧ (∀ p, p ≠ (s.team s.g.team).pair → t.pair p = s.pair p)
      ∧ (∀ a, (∀ l, ¬ covers l a) → t.scratch a = s.scratch a)
      ∧ (∀ l a, covers l a → (∀ k, l < k → ¬ covers k a) →
          t.scratch a = BitVec.ofNat 8 (s.g.storeData l f / 2 ^ (8 * (a - (base + (s.g.scrOff l f).toNat)))))))

/-- R263: a scratchpad atomic of a lane that shares its word with no other: the old word goes to the register and the new one
to the scratchpad. -/
def Obligations.ScratchAtomics : Prop :=
  ∀ (s : State) (f : RForm), s.Issues → s.g.prot = false → s.NoneWaits →
    let o := fun l => (s.g.word l f.a f.lit).toNat
    s.InWindow (fun l => s.g.isActive l = true) (fun l => (o l : Int)) 4 →
    let does := fun (i : Instr) (new : Word → Word → Word) => Completes i s (fun t =>
      t = { s with gids := t.gids, cores := t.cores, pairs := t.pairs } ∧ Gid.OnlyRegs s.g t.g f.d 1 ∧ t.g.gang = s.g.advance.gang
      ∧ (∀ k, k ≠ s.cur → Tab.find t.gids k = Tab.find s.gids k)
      ∧ (∀ l, s.g.isActive l = true → (∀ k, s.g.isActive k = true → k ≠ l → o k ≠ o l) →
        t.winWord (o l) = new (s.winWord (o l)) (s.g.word l f.b f.lit)
        ∧ (f.d.toNat < 96 → t.g.regAt l f.d 0 = s.winWord (o l)))
      ∧ (∀ a, (∀ l, s.g.isActive l = true → ¬ ((s.team s.g.team).winBase + o l ≤ a ∧ a < (s.team s.g.team).winBase + o l + 4)) →
        t.scratch a = s.scratch a))
    does (.samoAdd f) (fun old b => old + b)
    ∧ does (.samoMinS32 f) (fun old b => if old.toInt ≤ b.toInt then old else b)
    ∧ does (.samoMaxS32 f) (fun old b => if old.toInt ≤ b.toInt then b else old)
    ∧ does (.samoXchg f) (fun _ b => b)

/-- R331 to R333: synchronisation words. `swinit` writes the whole word; `swarrive` by one lane adds to it and returns the
generation (R93); `swwait` goes on where the generation is reached, else the threads wait; at die scope and wider a tentative team has
committed before it (R386).
R93: an arrival of `n` at a word whose TARGET is not 0: COUNT takes the remainder and GEN counts the completed phases. -/
def Obligations.SyncWordsAndArrivals : Prop :=
  (∀ (s : State) (f : RForm), s.Issues → s.g.prot = false → s.NoneWaits →
    let g := s.g
    let e := g.elected
    let base := (s.team g.team).winBase
    let o := fun l => (g.word l f.a f.lit).toNat
    s.InWindow (fun l => l = e ∨ g.isActive l = true) (fun l => (o l : Int)) 16 →
    Completes (.swinit f) s (fun t =>
      t = { s with gids := t.gids, pairs := t.pairs } ∧ t.g = g.advance
      ∧ t.winWord (o e) = g.word e f.b f.lit ∧ t.winWord (o e + 4) = 0 ∧ t.winWord (o e + 8) = g.word e f.d f.lit
      ∧ t.winWord (o e + 12) = 0
      ∧ ∀ a, ¬ (base + o e ≤ a ∧ a < base + o e + 16) → t.scratch a = s.scratch a)
    ∧ (s.before 2 = .ok () → g.actives = [e] →
      Completes (.swarrive f) s (fun t =>
        t = { s with gids := t.gids, pairs := t.pairs }
        ∧ t.pair (s.team g.team).pair = (s.pair (s.team g.team).pair).arrive (base + o e) (g.word e f.b f.lit).toNat
        ∧ Gid.OnlyRegs g t.g f.d 1 ∧ Gid.Holds t.g g f.d (fun _ => [t.winWord (o e + 8)]) ∧ t.g.gang = g.advance.gang))
    ∧ (f.p.scope.toNat < 3 ∨ g.gang.stage ≠ 0 ∨ (s.team g.team).rst = false →
      (s.winWord (o e + 8) - g.word e f.b f.lit).toNat < 2 ^ 31 →
      Completes (.swwait f) s (fun t => t.mem = s.mem ∧ t.wr = s.wr ∧ Gid.Continues g t.g s.ptime g.gang.next))
    ∧ (f.p.scope.toNat < 3 ∨ g.gang.stage ≠ 0 ∨ (s.team g.team).rst = false →
      2 ^ 31 ≤ (s.winWord (o e + 8) - g.word e f.b f.lit).toNat →
      Completes (.swwait f) s (fun t => t = { s with gids := t.gids, agenda := t.agenda }
        ∧ Gid.Waits g t.g (fun _ => .swwait (o e) (g.word e f.b f.lit) f.p.scope g.gang.hdr g.gang.off))))
  ∧ (∀ (p : Pair) (a n : Nat), p.scrRead a 4 ≠ 0 →
    let target := p.scrRead a 4
    let count := p.scrRead (a + 4) 4 + n
    (p.arrive a n).scrRead a 4 = target
    ∧ (p.arrive a n).scrRead (a + 4) 4 = count % target
    ∧ (p.arrive a n).gen a = p.gen a + BitVec.ofNat 32 (count / target)
    ∧ ∀ b, ¬ (a + 4 ≤ b ∧ b < a + 12) → (p.arrive a n).scrByte b = p.scrByte b)

/-- R249, R250 and R95: an `ld.g` takes a galley entry; its threads park and the gang gives its context back. Where its words all stand
in the pair's L1, nothing else changes. The acquire load is parked in the same way, at die scope and wider once the pair's words of its
lines are written back. Without active lanes both are a `nop`.
R251 and R253: `ld.cons` at team scope or narrower and `ld.y`, of words that stand in the pair's L1: the destination takes
them at once; a consume load taints it and its threads remember the scope (R145). -/
def Obligations.GalleyLoads : Prop :=
  (∀ (s : State) (f : MForm) (as : List LaneAcc), s.Issues →
    (∀ l, s.g.isActive l = true → s.g.taintOf l f.a 2 = false) →
    let checks := fun (scope : Nat) =>
      s.checked s.g.actives (s.g.loadEa f) (szBytes f.sz) rightR (decide (scope < 3)) true false = .ok as
    let entry := fun (t : State) =>
      (s.ptime + 50000, Due.event (.galleyTimeout s.nextId)) ∈ t.agenda
      ∧ ∃ o, Tab.find t.ops s.nextId = some o ∧ o.kind = .galley ∧ o.dst = f.d ∧ o.sz = f.sz ∧ o.pc = s.g.gang.next ∧ o.gid = s.cur
        ∧ o.outstanding = maskOf (as.map (·.lane)) ∧ o.loads.map LaneLoad.lane = as.map (·.lane)
    let lanes := fun (t : State) => t.g.gang = {}
      ∧ ∀ l, t.g.lane l = if s.g.isActive l = true then { s.g.lane l with st := .parked } else s.g.lane l
    let parks := fun (i : Instr) => (∀ a ∈ as, s.stillHits a = true) → Completes i s (fun t =>
      t = { s with gids := t.gids, ops := t.ops, reqs := t.reqs, cores := t.cores, agenda := t.agenda, nextId := t.nextId }
      ∧ (∀ k, k ≠ s.cur → Tab.find t.gids k = Tab.find s.gids k)
      ∧ t.g = { s.g with lanes := t.g.lanes, gang := {} } ∧ lanes t ∧ entry t)
    let takes := fun (i : Instr) => Completes i s (fun t => lanes t ∧ entry t ∧ t.mem = s.mem ∧ t.wr = s.wr)
    (s.g.actives = [] → Completes (.ldG f) s (fun t => OnlyGang s t ∧ t.g = s.g.advance)
      ∧ Completes (.ldGAcq f) s (fun t => OnlyGang s t ∧ t.g = s.g.advance))
    ∧ (s.g.actives ≠ [] → s.galleyFree as = true →
      (checks 0 → parks (.ldG f) ∧ takes (.ldG f))
      ∧ (checks f.p.scope.toNat →
          (f.p.scope.toNat < 3 → parks (.ldGAcq f) ∧ takes (.ldGAcq f))
          ∧ (3 ≤ f.p.scope.toNat → s.g.gang.stage ≠ 0 → takes (.ldGAcq f)))))
  ∧ (∀ (s : State) (f : MForm) (as : List LaneAcc), s.Issues →
    (∀ l, s.g.isActive l = true → s.g.taintOf l f.a 2 = false) →
    let g := s.g
    let e := g.elected
    let bytes := fun (ea : Dword) => match (s.pair (pairOf g.core)).line s.asid g.kslot (ea.toNat / 128) with
      | some ln => loadWords ln.words (ea.toNat % 128) f.sz
      | none => []
    (f.d.toNat < 96 → f.p.scope.toNat < 3 →
      s.checked g.actives (g.loadEa f) (szBytes f.sz) rightR true true false = .ok as → (∀ a ∈ as, a.hit = true) →
      Completes (.ldCons f) s (fun t => t = { s with gids := t.gids, nextId := t.nextId }
        ∧ t.g = { g with lanes := t.g.lanes, gang := g.advance.gang }
        ∧ Gid.Holds t.g g f.d (fun l => bytes (g.loadEa f l))
        ∧ ∀ l, g.isActive l = true → (t.g.lane l).consScope = BitVec.ofNat 3 f.p.scope.toNat
          ∧ ∀ i, i < szRegs f.sz → t.g.taintAt l f.d i = true))
    ∧ (96 ≤ f.d.toNat → f.d.toNat < 112 → g.mismatch (g.supplies (fun l => [g.ea l f])) = none →
      g.isActive e = true →
      s.checked [e] (fun l => g.ea l f) (szBytes f.sz) rightR true true false = .ok as → (∀ a ∈ as, a.hit = true) →
      Completes (.ldY f) s (fun t => t = { s with gids := t.gids, nextId := t.nextId }
        ∧ t.g = { g with y := t.g.y, ytaint := t.g.ytaint, gang := g.advance.gang }
        ∧ Gid.Holds t.g g f.d (fun _ => bytes (g.ea e f)))))

/-- R252 and R76: `ld.nc`. On a page that is not cached it sends a read of each line to its target and goes on; the answer to a load of
one line writes its register. On a cached page the line comes past L1 from the chiplet's L2, at once where the L2 holds it, with the words
that are dirty in the pair's L1 in front.
R254: `pf` changes no register. Of a line that the chiplet's L2 does not hold it asks its home, and the answer brings the line; of one
that the L2 holds, or of a page that is not cached, it asks nothing. -/
def Obligations.UncachedAndPrefetch : Prop :=
  (∀ (s : State) (f : MForm) (as : List LaneAcc), s.Issues → as ≠ [] →
    s.checked s.g.actives (s.g.loadEa f) (szBytes f.sz) rightR false true false = .ok as →
    let pair := pairOf s.g.core
    let chip := chipOf pair
    let writes := fun (t : State) (a : LaneAcc) (d : Line) => Tab.find t.ops s.nextId = none ∧ t.mem = s.mem ∧ t.wr = s.wr
      ∧ Gid.OnlyRegs s.g t.g f.d (szRegs f.sz)
      ∧ (f.d.toNat < 96 → ∀ i v, (loadWords d (a.ea.toNat % 128) f.sz)[i]? = some v → t.g.regAt a.lane f.d i = v)
    ((∀ a ∈ as, a.nc = true) →
      Completes (.ldNc f) s (fun t =>
        t = { s with gids := t.gids, ops := t.ops, reqs := t.reqs, txs := t.txs, fab := t.fab, agenda := t.agenda, nextId := t.nextId }
        ∧ (∀ k, k ≠ s.cur → Tab.find t.gids k = Tab.find s.gids k) ∧ t.g = s.g.advance
        ∧ (s.ptime + 50000, Due.event (.loadReplyTimeout s.nextId)) ∈ t.agenda
        ∧ ∃ o, Tab.find t.ops s.nextId = some o ∧ o.kind = .load ∧ o.dst = f.d ∧ o.sz = f.sz
          ∧ o.outstanding = maskOf (as.map (·.lane)) ∧ o.loads.map LaneLoad.lane = as.map (·.lane)))
    ∧ (∀ a, as = [a] → a.nc = true → s.g.lanes.length ≤ 64 → s.g.core < 1024 → s.txs.length < 2 ^ 16 → ∀ m : Msg, m.poison = false →
      Answered (.ldNc f) s chip m .data (fun u =>
        let (w, k) := s.dirtyWords pair s.asid s.g.kslot (a.ea.toNat / 128) (a.pa / 128)
        writes u a (mergeLine m.data w k)))
    ∧ (∀ a, as = [a] → a.nc = false → s.g.lanes.length ≤ 64 →
      let l := s.l2Line chip (a.pa / 128)
      let (w, k) := s.dirtyWords pair s.asid s.g.kslot (a.ea.toNat / 128) (a.pa / 128)
      (l.st = .s ∨ l.st = .e ∨ l.st = .o ∨ l.st = .m) → l.pin = none → l.waiters = [] → l.poison = false →
      Completes (.ldNc f) s (fun t => writes t a (mergeLine l.data w k) ∧ t.g.gang.buf = s.g.gang.buf.tail)))
  ∧ (∀ (s : State) (f : MForm) (ln : Nat) (nc : Bool), s.Issues → (∃ l, s.g.isActive l = true) →
    let chip := chipOf (pairOf s.g.core)
    let l := s.l2Line chip ln
    (∀ l, s.g.isActive l = true → ∃ pa e, s.translate (clusterOf s.g.core) s.g.launch (s.g.loadEa f l) 1 rightR = .ok pa e
      ∧ e.nc = nc ∧ pa / 128 = ln) → s.lineOpen ln = false →
    let quiet := fun (t : State) => t.g = s.g.advance ∧ (∀ k, k ≠ s.cur → Tab.find t.gids k = Tab.find s.gids k) ∧ t.mem = s.mem
      ∧ t.wr = s.wr ∧ t.pairs = s.pairs
    (nc = true → Completes (.pf f) s (fun t => OnlyGang s t ∧ t.g = s.g.advance))
    ∧ (nc = false → s.g.gang.pend = [] → s.g.others = [] → s.g.held = [] → l.pin = none → l.waiters = [] →
      (l.st = .s ∨ l.st = .e ∨ l.st = .o ∨ l.st = .m → Completes (.pf f) s (fun t => quiet t ∧ t.txs = s.txs ∧ t.l2Line chip ln = l))
      ∧ (l.st = .i → s.roomL2 chip ln = some s →
        Completes (.pf f) s (fun t => quiet t
          ∧ (t.l2Line chip ln).st = .isD ∧ (t.l2Line chip ln).waiters = [s.nextId]
          ∧ ∃ tag tx, Tab.find t.txs (chip * 2 ^ 16 + tag) = some tx ∧ tx.cls = 0x01 ∧ tx.line = ln ∧ tx.req = s.nextId)
        ∧ (s.txs.length < 2 ^ 16 → s.g.core < 1024 → (∀ e ∈ s.l2, e.2.waiters = []) → ∀ m : Msg, Answered (.pf f) s chip m .data (fun u =>
            let k := u.l2Line chip ln
            k.data = m.data ∧ k.poison = m.poison ∧ k.wt = m.aux.getLsbD 3 ∧ k.waiters = []
            ∧ k.st = (if m.aux.extractLsb' 0 2 = 2 then .e else if m.aux.extractLsb' 0 2 = 3 then .m else .s)
            ∧ u.g = s.g.advance ∧ u.mem = s.mem ∧ u.wr = s.wr)))))

/-- R255, R264 and Table 3 of R136: `gdrain` with no galley entry left, and fences once the accesses before them are complete.
An acquire at die scope or wider invalidates every clean word of the pair's L1; a tentative team has committed before it (R386). -/
def Obligations.Fences : Prop :=
  ∀ (s : State) (f : RForm), s.Issues →
    let pair := pairOf s.g.core
    let scope := f.p.scope.toNat
    let acquired := fun (t : State) => t.g = s.g.advance ∧ t.mem = s.mem ∧ t.wr = s.wr
      ∧ (∀ k, k ≠ s.cur → Tab.find t.gids k = Tab.find s.gids k)
      ∧ (scope < 3 → t.pairs = s.pairs) ∧ (3 ≤ scope → ∀ l ∈ (t.pair pair).l1, l.valid = l.dirty)
    (s.ops.any (fun e => e.2.gid == s.cur && e.2.kind == .galley) = false →
      Completes .gdrain s (fun t => OnlyGang s t ∧ t.g = s.g.advance))
    ∧ (s.before scope = .ok () → Completes (.fenceRel f) s (fun t => OnlyGang s t ∧ t.g = s.g.advance))
    ∧ (s.accessesOpen s.cur s.g.gang.active = false → scope < 3 ∨ s.g.gang.stage ≠ 0 ∨ (s.team s.g.team).rst = false →
      Completes (.fenceAcq f) s acquired)
    ∧ (s.before scope = .ok () → Completes (.fenceAr f) s acquired)

/-- R256, R86 and R243: `st.g` outside protected mode to words that stand in the pair's L1. The bytes go into the L1, of lanes
that write one byte the highest prevails; every other byte of the L1, all device memory and every register stay. `st.g.rel`, once what
precedes it is done, stores in the same way; at die scope and wider its gang waits for the words to be written through (R257). -/
def Obligations.GlobalStores : Prop :=
  ∀ (s : State) (f : MForm) (as : List LaneAcc), s.Issues → s.g.prot = false → s.g.gang.done = 0 → (s.team s.g.team).rst = false →
    s.checked s.g.actives (fun l => s.g.ea l f) (szBytes f.sz) rightW true false true = .ok as →
    (∀ a ∈ as, a.hit = true ∧ a.nc = false) → nowOf f as = as →
    let g := s.g
    let pair := pairOf g.core
    let covers := fun l va => g.isActive l = true ∧ (g.ea l f).toNat ≤ va ∧ va < (g.ea l f).toNat + szBytes f.sz
    let stored := fun (t : State) =>
      (∀ p, p ≠ pair → t.pair p = s.pair p)
      ∧ (∀ va, (∀ l, ¬ covers l va) → (t.pair pair).l1Byte s.asid g.kslot va = (s.pair pair).l1Byte s.asid g.kslot va)
      ∧ (∀ l va, covers l va → (∀ k, l < k → ¬ covers k va) →
          (t.pair pair).l1Byte s.asid g.kslot va = some (BitVec.ofNat 8 (g.storeData l f / 2 ^ (8 * (va - (g.ea l f).toNat)))))
      ∧ (∀ k, k ≠ s.cur → Tab.find t.gids k = Tab.find s.gids k)
    Completes (.stG f) s (fun t => t = { s with gids := t.gids, pairs := t.pairs } ∧ t.g = g.advance ∧ stored t)
    ∧ (f.p.scope.toNat < 3 → s.before f.p.scope.toNat = .ok () →
      Completes (.stGRel f) s (fun t =>
        t = { s with gids := t.gids, pairs := t.pairs, reqs := t.reqs, txs := t.txs, fab := t.fab, agenda := t.agenda, nextId := t.nextId }
        ∧ t.g = g.advance ∧ stored t))
    ∧ (3 ≤ f.p.scope.toNat → g.gang.stage ≠ 0 → (∀ e ∈ s.teams, e.2.rst = false) →
      Completes (.stGRel f) s (fun t => stored t ∧ t.mem = s.mem ∧ t.wr = s.wr ∧ t.g.lanes = g.lanes ∧ t.g.y = g.y
        ∧ t.g.gang.buf = g.gang.buf.tail ∧ t.g.gang.pend = t.openWrites pair
        ∧ ∀ l ∈ (t.pair pair).l1, (∃ a ∈ as, l.pline = a.pa / 128) → l.dirty = 0))

/-- R389: where the lanes of a protected gang disagree on the address or data of a store, on the outcome of a branch, or on an operand
that the elected lane supplies, the instruction has no effect: memory, registers and caches stay, and the team stops for R390. -/
def Obligations.Divergence : Prop :=
  ∀ (s : State) (f : MForm) (b : BForm) (r : RForm) (l : Nat), s.Issues →
    let stops := fun (i : Instr) => Completes i s (fun t =>
      t = { s with gids := t.gids, teams := t.teams, agenda := t.agenda } ∧ t.g = { s.g with frozen := true }
      ∧ (∀ k, k ≠ s.cur → Tab.find t.gids k = Tab.find s.gids k)
      ∧ t.awaits (.divergenceRerun s.g.team) = true)
    (s.g.mismatch (fun l => [s.g.ea l f, BitVec.ofNat 64 (s.g.storeData l f)]) = some l → stops (.stG f) ∧ stops (.stGRel f))
    ∧ (s.g.mismatch (fun l => [BitVec.ofNat 64 (s.g.takes b l).toNat]) = some l → stops (.brM b))
    ∧ (s.g.mismatch (s.g.supplies (fun l => [(s.g.word l r.a r.lit).zeroExtend 64])) = some l →
        stops (.bcast r) ∧ stops (.sleep r) ∧ stops (.trap r) ∧ stops (.brk r) ∧ stops (.imprintq r))
    ∧ (s.g.mismatch (s.g.supplies (fun l => [(s.g.word l r.b r.lit).zeroExtend 64])) = some l → stops (.rdlane r))
    ∧ (s.g.mismatch (s.g.supplies (fun l => [(s.g.word l r.a r.lit).zeroExtend 64, (s.g.word l r.b r.lit).zeroExtend 64])) = some l →
        stops (.wrlane r))

/-- R259 to R261: a global atomic whose lanes agree on what they send. Its L1 step comes first: no register or byte of memory changes, and
the gang waits for the words of its lines. Then, for a release once its "before" actions and records are done, it sends each lane's request,
with the operation of its form, and goes on; a qualified form with an acquire waits for the result. The home's answer to the atomic of one
lane writes the old value to its register and raises its flags. -/
def Obligations.AtomicsStart : Prop :=
  ∀ (s : State) (w : BitVec 1) (f : RForm) (as : List LaneAcc), s.Issues → s.g.prot = false →
    let g := s.g
    let fl := g.flagFor f.d
    g.flagRoom fl = true →
    s.checked g.actives (fun l => g.dword l f.a f.lit) (if w = 0 then 4 else 8) rightA false true true = .ok as →
    (∀ a ∈ as, g.isActive a.lane = true) →
    let acq := decide (f.p.qual.toNat = 1 ∨ f.p.qual.toNat = 3)
    let rel := f.p.qual.toNat = 2 ∨ f.p.qual.toNat = 3
    let starts := fun (i : Instr) =>
      (g.gang.stage < 2 → (rel → s.before f.p.scope.toNat = .ok ()) → Completes i s (fun t =>
        t.g.gang.stage = 2 ∧ t.g.gang.buf = g.gang.buf ∧ t.g.lanes = g.lanes ∧ t.g.y = g.y ∧ t.g.flags = g.flags ∧ t.g.sticky = g.sticky
        ∧ t.mem = s.mem ∧ t.wr = s.wr ∧ t.cur = s.cur))
      ∧ (g.gang.stage = 2 → Completes i s (fun t => StartsAtomic s t f.d fl acq as))
      ∧ (∀ a, as = [a] → g.gang.stage = 2 → acq = false → g.lanes.length ≤ 64 → g.core < 1024 → s.txs.length < 2 ^ 16 → ∀ m : Msg, m.poison = false →
          Answered i s (chipOf (pairOf g.core)) m .amor (fun u => Tab.find u.ops s.nextId = none ∧ u.mem = s.mem ∧ u.wr = s.wr
            ∧ Gid.OnlyRegs g u.g f.d (nregs w) ∧ u.g.sticky = g.sticky ||| BitVec.ofNat 64 (flagsOfAux m.aux)
            ∧ (∀ k, Tab.get 0 u.g.flags k = Tab.get 0 g.flags k)
            ∧ (f.d.toNat < 96 → ∀ i v, (splitN (nregs w) m.data.toNat)[i]? = some v → u.g.regAt a.lane f.d i = v)))
    starts (.amoAdd w f) ∧ starts (.amoMinS w f) ∧ starts (.amoMaxS w f) ∧ starts (.amoAnd w f) ∧ starts (.amoOr w f)
    ∧ starts (.amoXor w f) ∧ starts (.amoXchg w f) ∧ starts (.amoCas w f) ∧ starts (.amoFadd w f) ∧ starts (.amoMinN w f)
    ∧ starts (.amoMaxN w f) ∧ ∀ op : BitVec 4, starts (.amoQualified w op f)

/-- R215, R340 and R348: a sort word whose entry expands runs its expansion in its place; `launch` reads the
entry's lines, and its last step posts it and returns its tag to the elected lane, or all ones where the queue refuses it; `imprintq` of a
core with no count pending starts, and at its completion, with no flush of the core outstanding, the elected lane takes the counter that X1
holds. -/
def Obligations.PostsAndSorts : Prop :=
  ∀ (s : State) (m : SForm) (f : RForm) (ws : List Word), s.Issues →
    let g := s.g
    let e := g.elected
    let q := (g.word e f.b f.lit).toNat
    (expandEntry (s.sortEntry g m) m = .ok ws →
      Completes (.sort m) s (fun t => OnlyGang s t ∧ t.g = g.replaceHead ws))
    ∧ (g.mismatch (g.supplies (fun l => [g.dword l f.a f.lit, (g.word l f.b f.lit).zeroExtend 64])) = none → q ≤ 63 →
      repliesCause ((s.ownReqs s.cur g.gang.uid).filterMap (fun r => r.2.reply)) = none →
      (g.gang.stage = 1 → (g.dword e f.a f.lit).toNat % 64 = 0 →
        (∀ p ∈ lineStarts ((g.dword e f.a f.lit).toNat : Nat) 128, ∃ x, s.probeAt e p.1 p.2 rightR false false false = .acc x
          ∧ s.lineOpen (x.pa / 128) = false) →
        Completes (.launch f) s (fun t => t.g.gang.stage = 2 ∧ t.g.gang.buf = g.gang.buf ∧ t.g.lanes = g.lanes ∧ t.mem = s.mem
          ∧ t.wr = s.wr ∧ t.tails = s.tails))
      ∧ (g.gang.stage = 3 ∨ g.gang.stage = 2 ∧ ¬ (1 ≤ (ownByte (s.ownReqs s.cur g.gang.uid) (g.dword e f.a f.lit).toNat).toNat
          ∧ (ownByte (s.ownReqs s.cur g.gang.uid) (g.dword e f.a f.lit).toNat).toNat ≤ 32) →
      Completes (.launch f) s (fun t => t.mem = s.mem ∧ t.wr = s.wr ∧ t.g.gang = g.advance.gang ∧ Gid.OnlyRegs g t.g f.d 2
        ∧ (∀ k, k ≠ s.cur → Tab.find t.gids k = Tab.find s.gids k)
        ∧ (s.refusesPost q (s.launch g.launch).tenant = true →
            t.tails = s.tails ∧ Gid.HoldsOn t.g g g.isElected f.d (splitD (BitVec.allOnes 64)))
        ∧ (s.refusesPost q (s.launch g.launch).tenant = false →
            t.tailOf q = (s.tailOf q + 1) % 2 ^ 32
            ∧ Gid.HoldsOn t.g g g.isElected f.d (splitD (BitVec.ofNat 64 (q * 2 ^ 32 + s.tailOf q)))))))
    ∧ (g.mismatch (g.supplies (fun l => [(g.word l f.a f.lit).zeroExtend 64])) = none → g.flagRoom (g.flagFor f.d) = true →
      let region := (g.word e f.a f.lit).extractLsb' 0 12
      (s.core g.core).pcnt = 0 →
      (∀ r ∈ s.reqs, r.2.kind = .flush → r.2.core ≠ g.core) →
      (∃ t u, exec (.imprintq f) s = .next t ∧ exec (.longOpComplete s.nextId) t = .next u ∧ Tab.find u.ops s.nextId = none
        ∧ Gid.OnlyRegs g u.g f.d 2 ∧ u.mem = s.mem ∧ u.wr = s.wr
        ∧ Gid.HoldsOn u.g g g.isElected f.d (splitD (BitVec.ofNat 64 (s.counterValue region (s.launch g.launch).tenant))))
      ∧ StartsOp s (.imprintq f)
        { gid := s.cur, kind := .imprint, flag := g.flagFor f.d, dst := f.d, nregs := 2, lanes := g.gang.active, region := region
          writes := g.wrOn g.isElected f.d (fun _ => [0, 0]) } 2000 .longOpComplete)

/-! ### Reset, device memory, the step, decoding -/

/-- The registers of the management windows at reset: ROUTE of two ports with HOLD = 1 and all else 0 (R28), THERM with PWRLIM = 8,000
(R447), PLCFG with LOG2N = 4 (R399), DISPCTL with COHAGE = 100 (R361), MODSTAT, PAIRACT, PLTAIL, PLACK, MBSTAT and every
LQCFG, LQTAIL and LQHEAD 0 (R447, R448, R399, R419, R350); the registers of threads, gang ids and launches per core (R164,
R296, R369, R372); no line, launch, team or counter slot, and every version 0 (R296, R396, R439). Device memory lists nothing: that a
byte nothing has written reads 0 is the model's choice (log entry 2). -/
def Obligations.ResetRegisters : Prop :=
  let s := State.reset
  s.ptime = 0 ∧ s.powered = false ∧ s.mem = [] ∧ s.wr = []
  ∧ (∀ i j, i < 36 → j < 36 → s.reg x1 (0x10000 + (64 * i + j) * 8) = if i = j then 0 else 0x10000#64)
  ∧ (∀ i j, i < 36 → j < 36 → s.reg x1 (0x30000 + (64 * i + j) * 8) = 0#64)
  ∧ s.reg x1 0x74000 = 0 ∧ field (s.reg x1 0x74008) 47 32 = 8000 ∧ s.reg x1 0x74008 = 8000#64 <<< 32
  ∧ (∀ i, i < 8 → s.reg x1 (0x74040 + 8 * i) = 0)
  ∧ s.reg x1 0x70000 = 4#64 <<< 8 ∧ s.reg x1 0x70008 = 0 ∧ s.reg x1 0x70010 = 0
  ∧ field (s.reg x0 0x11000) 15 0 = 100
  ∧ (∀ q, q < 64 → s.reg x0 (0x10000 + 32 * q) = 0 ∧ s.reg x0 (0x10008 + 32 * q) = 0 ∧ s.reg x0 (0x10010 + 32 * q) = 0)
  ∧ (∀ c g, c < 16 → g < 4096 → s.reg c (0xE0000 + 4 * g) = 0)
  ∧ (∀ c k, (s.lc c k).age = 64 ∧ (s.lc c k).aged = 0 ∧ (s.lc c k).tvec = 0 ∧ (s.lc c k).wp0 = 0 ∧ (s.lc c k).wp1 = 0
      ∧ (s.lc c k).xfault0 = 0 ∧ (s.lc c k).xfault1 = 0)
  ∧ (∀ k, (s.gid k).gcause = 0 ∧ (s.gid k).rpc = 0 ∧ (s.gid k).eact = 0 ∧ (s.gid k).sticky = 0)
  ∧ (∀ c, (s.core c).mat = {} ∧ (s.core c).pcnt = 0 ∧ (s.core c).slot = none)
  ∧ (∀ p, (s.pair p).rseq = 0 ∧ (s.pair p).l1 = [] ∧ (s.pair p).plates = [])
  ∧ s.gids = [] ∧ s.teams = [] ∧ s.launches = [] ∧ s.ops = [] ∧ s.reqs = [] ∧ s.cmds = [] ∧ s.txs = [] ∧ s.walks = [] ∧ s.l2 = [] ∧ s.dir = [] ∧ s.counters = [] ∧ s.links = [] ∧ s.vers = []
  ∧ s.agenda = [(0, .event (.powerOn {}))]

/-- The invariant of device memory holds at reset. -/
def Obligations.ResetKeepsMemoryForm : Prop :=
  State.reset.Inv

/-- Every step keeps device memory in its canonical form, whatever item of the agenda it runs; without power at its end, device memory
lists nothing (R446). -/
def Obligations.StepKeepsMemoryForm : Prop :=
  ∀ s t : State, s.Inv → step s = .next t → t.Inv ∧ (t.powered = false → t.mem = [])

/-- What a step reads of device memory after it is what was last written within it, else what it was before. -/
def Obligations.MemoryReadsBack : Prop :=
  (∀ (s : State) (a b : Nat) (v : Byte), (s.setByte a v).byte b = if b = a then v else s.byte b)
  ∧ (∀ (s t : State) (a : Nat), t.mem = s.mem → t.powered = true → (finish s t).byte a = t.byte a)
  ∧ (∀ (s : State) (ln k : Nat) (l : Line) (m : LineMask), k < 128 → m.getLsbD k = true →
      (s.setMemLine ln l m).byte (128 * ln + k) = lineByte l k)
  ∧ (∀ (s : State) (ln a : Nat) (l : Line) (m : LineMask),
      (∀ k, k < 128 → m.getLsbD k = true → a ≠ 128 * ln + k) → (s.setMemLine ln l m).byte a = s.byte a)
  ∧ (∀ (s : State) (ln k : Nat), k < 128 → lineByte (s.memLine ln) k = s.byte (128 * ln + k))

/-- R200 to R204: the words of every well-formed instruction decode to it, with every field at every value, and leave the words behind
them; and no header with a legal LEN, FA and FB loses a bit. -/
def Obligations.DecodeEncode : Prop :=
  (∀ (i : Instr) (rest : List Word), i.wellFormed = true → decode (encode i ++ rest) = .ok (i, rest))
  ∧ (∀ h : Header, 1 ≤ h.len → h.len ≤ 24 → ¬ (12 ≤ h.fa.toNat ∧ h.fa.toNat ≤ 14) → ¬ (12 ≤ h.fb.toNat ∧ h.fb.toNat ≤ 14) →
      decodeHeader (encodeHeader h) = some h)

/-- Words that the spec writes out decode to the instructions it gives for them (R265, R286, R317, R349, R433). -/
def Obligations.WordsDecode : Prop :=
  decode [0x14206100#32] = .ok (.add 1 ⟨.none, 4, 6, 8, 0⟩, [])
  ∧ decode [0x069FFFFA#32] = .ok (.brM ⟨.none, 2, 0, 0x1FFFFA⟩, [])
  ∧ decode [0xF9E81800#32, 0x40502A02#32] = .ok (.ldGAcq ⟨.o ⟨116, 0, 1, 4⟩, 10, 2, 5, 2, 0⟩, [])
  ∧ decode [0xF90E1400#32, 0x642820C7#32] = .ok (.amoQualified 0 7 ⟨.o ⟨7, 0, 1, 2⟩, 5, 2, 6, 0⟩, [])
  ∧ decode [0xF9068000#32, 0x84201043#32] = .ok (.fma 1 ⟨.o ⟨3, 1, 0, 0⟩, 4, 1, 2, 0⟩, [])
  ∧ decode [0xA0A04828#32] = .ok (.cvtq 8 ⟨.none, 20, 4, 0x41, 0⟩, [])
  ∧ decode [0xFA0D0660#32, 0xD3A74C47#32]
      = .ok (.mma ⟨.t ⟨0, 3, 1, 0, 0, 0, 0, 1, 1, 3⟩, 116, 116, 98, 0⟩, [])
  ∧ decode [0xF9E80400#32, 0xE3A74FE9#32, 1#32] = .ok (.swwait ⟨.o ⟨116, 0, 0, 2⟩, 116, 116, 127, 1⟩, [])
  ∧ decode [0xEBA74E81#32] = .ok (.eret, [])
  ∧ decode [0xFC1C4094#32] = .ok (.sort ⟨.none, 7, 8, 9, 4⟩, [])
  ∧ decodeHeader 0x00010004#32 = some ⟨4, 0, 0, 3, false⟩
  ∧ (∃ i, decode [0x8050CE8A#32] = .ok (i, []) ∧ i.wellFormed = false)
  ∧ (decode [0x8050CE93#32]).toOption = none

/-- A step that issues the instruction of a gang: where the words at the head of its clause decode to `i`, nothing it waits for is
open and no report precedes it, the step is the meaning of `i` on the gang in front, then what follows an instruction (the next one,
the end of the clause, or leaving the context), then the end of the step. -/
def Obligations.StepRunsInstruction : Prop :=
  ∀ (s u : State) (due k uid : Nat) (o : Gang) (sl : Slot) (rest : List Slot) (i : Instr),
    s.pass.takeItem = (some (due, .issue k uid), u) → u.powered = true → (u.gid k).gangOf uid = some o →
    let f := u.front k uid
    let h := if f.g.inHandler = true then f.onGid (fun g => { g with reports := g.reports.filter (fun r => r.cause != 0x06) }) else f
    f.stopping f.g.team = false → f.g.gang.running = true → f.pendOpen f.g.gang.pend = false → f.g.gang.buf = sl :: rest →
    decode sl.words = .ok (i, []) → f.hazard i = false → worst h.g.pendingReports = none →
    step s = match exec i h with
      | .next t => .next (finish s (t.afterIssue k uid f.g.gang))
      | .fault e => .fault e
      | .refused e => .refused e

/-- R205 and R207: the words of a clause stand one after the other from its header on: each instruction of the buffer takes its own, at the
address it carries, and the clause ends after the last. A word that cannot stand where it does is an instruction of no words, and the
clause that holds one raises the illegal-instruction cause at its header.
R163, R207 and R368: an idle slot takes the gang that waits to start a clause: where its header and words stand in the pair's L1, its
waits are met and its instructions legal, its w registers are cleared and its first instruction issues; a header that L1 does not hold is
asked for. A busy slot stays as it is. A group that has reached its age may be drawn. -/
def Obligations.ClauseStarts : Prop :=
  (∀ (s : State) (k uid n : Nat) (va next : Dword) (slots : List Slot), s.fetchSlots k uid n va = .ok (slots, next) →
    slots.length = n
    ∧ ((∀ sl ∈ slots, sl.words ≠ []) →
      next = va + BitVec.ofNat 64 (4 * (slots.flatMap (·.words)).length)
      ∧ (∀ j w, (slots.flatMap (·.words))[j]? = some w → s.fetchWord k uid (va + BitVec.ofNat 64 (4 * j)) = .ok w)
      ∧ (∀ sl ∈ slots, 1 ≤ sl.words.length ∧ sl.words.length ≤ 3)
      ∧ (∀ before sl behind, slots = before ++ sl :: behind →
          sl.addr = va + BitVec.ofNat 64
            (4 * ((before.flatMap (·.words)).length + (if majorOf (sl.words.headD 0) = 0x3E then 1 else 0)))))
    ∧ ((∃ sl ∈ slots, sl.words = []) → ∀ g, s.clauseCause g (slots.map (s.expandSlot g)) = some (0x10, 0)))
  ∧ ((∀ (s : State) (core k : Nat) (g : Gid) (w v : Word) (h : Header) (i : Instr), (s.core core).slot = none → s.onCore core = [(k, g)] →
    Tab.find s.gids k = some g → g.core = core → g.gang.uid ≠ 0 → g.gang.running = false → g.gang.stage = 0 → g.gang.since ≤ s.ptime →
    g.others = [] → g.held = [] → g.frozen = false → (∀ th ∈ g.lanes, th.st ≠ .filed) → s.stopping g.team = false → g.gang.blocked = false →
    (∀ p ∈ (s.core core).mat.tspend, p.1 ≠ k) → g.gang.hdr.toNat % 4 = 0 →
    (∀ pa e, (s.pair (pairOf core)).line (s.launch g.launch).asid g.kslot (g.gang.hdr.toNat / 128) = none →
      s.fetchReqs k g.gang.uid = [] →
      s.translate (clusterOf core) g.launch g.gang.hdr 4 rightX = .ok pa e → e.nc = false →
      Completes (.clauseStart core) s (fun t => (t.core core).slot = none ∧ t.awaits (.clauseStart core) = true ∧ t.mem = s.mem ∧ t.wr = s.wr
        ∧ ∃ r, (r ∈ t.fetchReqs k g.gang.uid) ∧ r.2.pline = pa / 128 ∧ r.2.vline = g.gang.hdr.toNat / 128 ∧ r.2.kind = .fill))
    ∧ (s.Fetches g g.gang.hdr w → s.Fetches g (g.gang.hdr + 4) v →
    majorOf w = 0 → decodeHeader w = some h → h.len = 1 → (∀ f, f < 12 → h.wait.getLsbD f = true → Tab.get 0 g.flags f = 0) →
    majorOf v ≠ 0 → majorOf v ≠ 0x3E → majorOf v ≠ 0x34 → majorOf v ≠ 0x35 → needsLit .none v = false →
    decode [v] = .ok (i, []) → (∀ f, i ≠ .sort f) → formOk i = true → contextOk g { addr := g.gang.hdr + 4, words := [v] } i = true →
    (∀ l ∈ g.actives, inBounds i g.regs (g.lane l).wbase = true) → s.wPending k g.gang.active = false →
    Completes (.clauseStart core) s (fun t => (t.core core).slot = some (k, g.gang.uid) ∧ (s.ptime, Due.issue k g.gang.uid) ∈ t.agenda
      ∧ t.mem = s.mem ∧ t.wr = s.wr
      ∧ (t.gid k).gang.uid = g.gang.uid ∧ (t.gid k).gang.active = g.gang.active ∧ (t.gid k).gang.running = true
      ∧ (t.gid k).gang.buf = [{ addr := g.gang.hdr + 4, words := [v] }] ∧ (t.gid k).gang.off = 0
      ∧ (t.gid k).gang.next = g.gang.hdr + 8 ∧ (t.gid k).gang.fa = h.fa ∧ (t.gid k).gang.fb = h.fb ∧ (t.gid k).gang.yh = h.yh
      ∧ (∀ l, g.isActive l = true → ((t.gid k).lane l).w = [] ∧ ((t.gid k).lane l).x = (g.lane l).x)
      ∧ ∀ l, g.isActive l = false → (t.gid k).lane l = g.lane l)))
  ∧ (∀ (s : State) (core : Nat) (c : Nat × Nat), (s.core core).slot = some c → Completes (.clauseStart core) s (fun t =>
      t = { s with gids := t.gids, cores := t.cores, agenda := t.agenda } ∧ (t.core core).slot = some c
      ∧ ∀ k g, Tab.find s.gids k = some g → g.frozen = false → (t.gid k).lanes = g.lanes ∧ (t.gid k).gang.buf = g.gang.buf
          ∧ (t.gid k).gang.running = g.gang.running))
  ∧ (∀ (s : State) (k : Nat) (g : Gid) (pc : Dword) (n : Nat), Tab.find s.gids k = some g → g.frozen = false → pc ∈ g.groups →
    g.agedAt (s.lc g.core g.kslot).age pc ≤ s.ptime →
    Completes (.groupAgeReached k n) s (fun t => t = { s with gids := t.gids, agenda := t.agenda }
      ∧ (t.gid k) = { g with elig := (t.gid k).elig } ∧ (∃ e ∈ (t.gid k).elig, e.1 = pc)
      ∧ (∀ j, j ≠ k → Tab.find t.gids j = Tab.find s.gids j) ∧ t.awaits (.clauseStart g.core) = true)))

/-! ### The matrix unit and stereo plates -/

/-- R290, R294, R297 and R298: `tshape` is held for the next clause; `tzero`, `tmask` and `tmov` on tile TA, its map and its tag; nothing else
of any core's matrix unit changes.
R298 and R306: `tfrag` moves one row of a tile between lanes and the tile, and `accrd` one row of an accumulator to lanes, 4 bytes to a
lane, in the part that the selector names; lanes take their words as the operation completes. -/
def Obligations.TilesAndFragments : Prop :=
  (∀ (s : State) (f : RForm), s.Issues → f.ta < 8 → f.tb < 8 → s.g.flagRoom s.g.gang.fb.toNat = true →
    s.g.mismatch (s.g.supplies (fun l => [s.g.dword l f.a f.lit, (s.g.word l f.b f.lit).zeroExtend 64])) = none →
    let g := s.g
    let m := s.mat
    let unit := fun (t : State) => (t.core g.core).mat
    let lim := fun (v : Word) => if v.toNat ≤ 128 then v.toNat else 0
    Completes (.tshape f) s (fun t => MatActs s t ∧ unit t = { m with tspend := m.tspend ++
        [(s.cur, g.gang.uid, f.ta, shapeReg (lim (g.word g.elected f.a f.lit)) (lim (g.word g.elected f.b f.lit)) f.afmt)] })
    ∧ Completes (.tzero f) s (fun t => MatActs s t ∧ m.OnlyTile (unit t) f.ta
        ∧ (∀ r i, r < 128 → i < 256 → (unit t).tileByte f.ta r i = 0)
        ∧ Tab.find (unit t).zmap f.ta = some (BitVec.allOnes 256) ∧ (unit t).shape f.ta = m.shape f.ta ||| (1#64 <<< 22)
        ∧ (unit t).tag f.ta = m.tag f.ta &&& ~~~(1#64 <<< 19))
    ∧ Completes (.tmask f) s (fun t => MatActs s t ∧ m.OnlyTile (unit t) f.ta ∧ (unit t).tiles = m.tiles ∧ (unit t).ttag = m.ttag
        ∧ (unit t).shape f.ta = m.shape f.ta ||| (1#64 <<< 22)
        ∧ ∃ z, Tab.find (unit t).zmap f.ta = some z ∧ ∀ i j, i < 16 → j < 16 →
            (z.getLsbD (16 * i + j) = true ↔
              ∀ a b, a < 8 → b < 8 → (elemAt (m.elems f.ta) (8 * i + a) (8 * j + b)).isZero = true))
    ∧ Completes (.tmov f) s (fun t =>
        MatStarts s t [g.core] { gid := s.cur, kind := .matrix, flag := g.gang.fb.toNat, tiles := tileBit f.ta } 132
        ∧ m.OnlyTile (unit t) f.ta ∧ (unit t).zmap = m.zmap
        ∧ (∀ r i, r < 128 → i < 256 → (unit t).tileByte f.ta r i = m.tileByte f.tb r i)
        ∧ (unit t).shape f.ta = m.shape f.ta &&& ~~~(1#64 <<< 22)
        ∧ (unit t).tag f.ta = if (m.tag f.tb).getLsbD 19 = true then m.tag f.tb else m.tag f.ta))
  ∧ (∀ (s : State) (f : RForm), s.Issues → f.ta < 8 → f.acc < 4 → s.g.flagRoom s.g.gang.fb.toNat = true →
    s.g.flagRoom (s.g.flagFor f.d) = true →
    s.g.mismatch (s.g.supplies (fun l => [s.g.dword l f.a f.lit, (s.g.word l f.b f.lit).zeroExtend 64])) = none →
    let g := s.g
    let m := s.mat
    let sel := (g.word g.elected f.b f.lit).toNat
    let pos := fun l => sel / 128 % 4 * g.width + l
    let col := fun l => sel / 128 % 8 * g.width + l
    let tileWord := fun l => [m.tileByte f.ta (sel % 128) (4 * pos l + 3) ++ m.tileByte f.ta (sel % 128) (4 * pos l + 2)
      ++ m.tileByte f.ta (sel % 128) (4 * pos l + 1) ++ m.tileByte f.ta (sel % 128) (4 * pos l)]
    Completes (.tfragRead f) s (fun t => t.cores = s.cores ∧
        MatStarts s t []
          { gid := s.cur, kind := .matrix, flag := g.flagFor f.d, dst := f.d
            writes := g.wrOn (fun l => decide (pos l < 64)) f.d tileWord } 8)
    ∧ Finishes s (.tfragRead f) .matrixOpComplete (fun l => decide (pos l < 64)) f.d 1 tileWord 0
    ∧ Completes (.tfragWrite f) s (fun t =>
        MatStarts s t [g.core] { gid := s.cur, kind := .matrix, flag := g.gang.fb.toNat, tiles := tileBit f.ta } 8
        ∧ m.OnlyTile (t.core g.core).mat f.ta ∧ (t.core g.core).mat.zmap = m.zmap ∧ (t.core g.core).mat.ttag = m.ttag
        ∧ (t.core g.core).mat.shape f.ta = m.shape f.ta &&& ~~~(1#64 <<< 22)
        ∧ (∀ l j, g.isActive l = true → pos l < 64 → j < 4 →
            (t.core g.core).mat.tileByte f.ta (sel % 128) (4 * pos l + j) = (g.word l f.a f.lit).extractLsb' (8 * j) 8)
        ∧ (∀ r i, r < 128 → i < 256 → ¬ (r = sel % 128 ∧ ∃ l, g.isActive l = true ∧ pos l < 64 ∧ i / 4 = pos l) →
            (t.core g.core).mat.tileByte f.ta r i = m.tileByte f.ta r i))
    ∧ Completes (.accrd f) s (fun t => t.cores = s.cores ∧
        MatStarts s t []
          { gid := s.cur, kind := .matrix, flag := g.flagFor f.d, dst := f.d
            writes := g.wrOn (fun l => decide (col l < 128)) f.d (fun l => [m.accAt f.acc (sel % 128) (col l)]) } 8)
    ∧ Finishes s (.accrd f) .matrixOpComplete (fun l => decide (col l < 128)) f.d 1 (fun l => [m.accAt f.acc (sel % 128) (col l)]) 0)

/-- R291, R295 and R304: rows between scratchpad and a tile or an accumulator, where every row is aligned and in the window: each byte that a row
holds, with the tile's padding of zeros, and no other. -/
def Obligations.ScratchRows : Prop :=
  ∀ (s : State) (f : RForm), s.Issues → f.spb = true → f.ta < 8 → f.acc < 4 → s.NoneWaits → s.g.flagRoom s.g.gang.fb.toNat = true →
    s.g.mismatch (s.g.supplies (fun l => [s.g.dword l f.a f.lit, (s.g.word l f.b f.lit).zeroExtend 64])) = none →
    let g := s.g
    let m := s.mat
    let sh := m.shape f.ta
    let rb := rowLen (shFmt sh) (shCols sh)
    let at_ := fun r => (g.word g.elected f.a f.lit).toNat + r * (g.word g.elected f.b f.lit).toNat
    let base := (s.team g.team).winBase
    let inside := fun (n : Nat) => ∀ r, r < shRows sh → at_ r + n ≤ (s.team g.team).winSize
    let op := fun (tiles : BitVec 17) => ({ gid := s.cur, kind := .matrix, flag := g.gang.fb.toNat, tiles := tiles } : Op)
    let cc := fun (n : Nat) => 18 + shRows sh * n / 64
    let starts := fun (t : State) (tiles : BitVec 17) (n : Nat) =>
      t = { s with
        cores := t.cores, pairs := t.pairs, nextId := s.nextId + 1, gids := t.gids
        ops := Tab.ins s.ops s.nextId
          { op tiles with lanes := g.gang.active, issued := s.ptime, gang := g.gang.uid }
        agenda := s.agenda ++ [(s.ptime + ccNs (cc n), .event (.matrixOpComplete s.nextId))] }
      ∧ (∀ k, k ≠ s.cur → Tab.find t.gids k = Tab.find s.gids k)
      ∧ t.g = { g with
          flags := if g.gang.fb.toNat = 15 then g.flags else Tab.upd 0 g.flags g.gang.fb.toNat (· + 1)
          gang := { g.advance.gang with pend := if g.gang.fb.toNat = 15 then [s.nextId] else [] } }
      ∧ (∀ c, c ≠ g.core → t.core c = s.core c)
      ∧ t.core g.core = { s.core g.core with mat := (t.core g.core).mat, spconf := (t.core g.core).spconf }
      ∧ (∀ q, q ≠ (s.team g.team).pair → t.pair q = s.pair q)
    shapeOk (shRows sh) (shCols sh) (shFmt sh) = true → at_ 0 % 16 = 0 → (g.word g.elected f.b f.lit).toNat % 16 = 0 →
    (inside rb → Completes (.tld f) s (fun t =>
        starts t (tileBit f.ta) rb ∧ t.pairs = s.pairs
        ∧ m.OnlyTile (t.core g.core).mat f.ta ∧ (t.core g.core).mat.ttag = m.ttag
        ∧ (t.core g.core).mat.shape f.ta = sh &&& ~~~(1#64 <<< 22)
        ∧ (∀ r i, r < shRows sh → i < rb →
            (t.core g.core).mat.tileByte f.ta r i = (s.pair (s.team g.team).pair).scrByte (base + at_ r + i))
        ∧ (∀ r i, r < shRows sh → rb ≤ i → i < (rb + 31) / 32 * 32 → (t.core g.core).mat.tileByte f.ta r i = 0)
        ∧ (∀ r i, r < 128 → i < 256 → (shRows sh ≤ r ∨ (rb + 31) / 32 * 32 ≤ i) →
            (t.core g.core).mat.tileByte f.ta r i = m.tileByte f.ta r i)))
    ∧ (inside (4 * shCols sh) → Completes (.accld f) s (fun t =>
        starts t (accBit f.acc) (4 * shCols sh) ∧ t.pairs = s.pairs
        ∧ m.OnlyAcc (t.core g.core).mat f.acc (fun r c => r < shRows sh ∧ c < shCols sh)
        ∧ ∀ r c, r < shRows sh → c < shCols sh → (t.core g.core).mat.accAt f.acc r c
            = BitVec.ofNat 32 ((s.pair (s.team g.team).pair).scrRead (base + at_ r + 4 * c) 4)))
    ∧ (inside rb → shRows sh = 1 ∨ rb ≤ (g.word g.elected f.b f.lit).toNat → Completes (.tst f) s (fun t =>
        starts t 0 rb ∧ (t.core g.core).mat = m
        ∧ (∀ r i, r < shRows sh → i < rb → t.scratch (base + at_ r + i) = m.tileByte f.ta r i)
        ∧ (∀ a, (∀ r i, r < shRows sh → i < rb → a ≠ base + at_ r + i) → t.scratch a = s.scratch a)))
    ∧ (inside (4 * shCols sh) → shRows sh = 1 ∨ 4 * shCols sh ≤ (g.word g.elected f.b f.lit).toNat → Completes (.accst f) s (fun t =>
        starts t 0 (4 * shCols sh) ∧ (t.core g.core).mat = m
        ∧ (∀ r c j, r < shRows sh → c < shCols sh → j < 4 →
            t.scratch (base + at_ r + 4 * c + j) = (m.accAt f.acc r c).extractLsb' (8 * j) 8)
        ∧ (∀ a, (∀ r i, r < shRows sh → i < 4 * shCols sh → a ≠ base + at_ r + i) → t.scratch a = s.scratch a)))

/-- R299: `wlatch` from tile TA, single and in pair mode: LATCH and LSHAPE, the weights w(k, n) as the tile holds them, transposed with TR, and in
pair mode columns N on from the follower's tile, whose own latch is replaced. -/
def Obligations.WeightLatch : Prop :=
  ∀ (s : State) (f : RForm), s.Issues → f.a = 116 → f.ta < 8 → s.g.flagRoom s.g.gang.fb.toNat = true →
    s.g.mismatch (s.g.supplies (fun l => [s.g.dword l f.a f.lit, (s.g.word l f.b f.lit).zeroExtend 64])) = none →
    let g := s.g
    let m := s.mat
    let far := (s.core (g.core + 1)).mat
    let sh := m.shape f.ta
    let k := if f.tr = true then shCols sh else shRows sh
    let n := if f.tr = true then shRows sh else shCols sh
    let src := fun (es : List (List Machine.Num)) (i j : Nat) => if f.tr = true then elemAt es j i else elemAt es i j
    shapeOk (shRows sh) (shCols sh) (shFmt sh) = true →
    Completes (.wlatch f) s (fun t =>
      let u := (t.core g.core).mat
      MatStarts s t (if f.d = 1 then [g.core, g.core + 1] else [g.core])
        { gid := s.cur, kind := .matrix, flag := g.gang.fb.toNat, tiles := latchBit
          ftiles := if f.d = 1 then tileBit f.ta ||| latchBit else 0, cycles := 16 + k } (16 + k)
      ∧ u = { m with latch := u.latch, lshape := u.lshape, ltr := f.tr, lw := u.lw, lw2 := u.lw2 }
      ∧ laValid u.latch = true ∧ laPair u.latch = decide (f.d = 1) ∧ laFmt u.latch = shFmt sh
      ∧ laMet u.latch = (m.tag f.ta).getLsbD 19 ∧ laReg u.latch = laReg (m.tag f.ta) ∧ laVer u.latch = laVer (m.tag f.ta)
      ∧ u.lshape = BitVec.ofNat 64 (k + n * 2 ^ 8)
      ∧ (∀ i j, i < k → j < n → elemAt u.weights i j = src (m.elems f.ta) i j)
      ∧ (f.d = 1 →
          let v := (t.core (g.core + 1)).mat
          let es := ({ far with tshape := m.tshape } : Mat).elems f.ta
          v = { far with latch := u.latch &&& ~~~(1#64 <<< 18), lshape := u.lshape, ltr := f.tr, lw := v.lw, lw2 := [] }
          ∧ (∀ i j, i < k → j < n → elemAt u.weights i (n + j) = src es i j)
          ∧ (∀ i j, i < k → j < n → elemAt v.weights i j = src es i j)))

/-- R301 to R303, R188 to R190 and R316: `mma` under a latch that the core may count: every element of rows 0 to M − 1 and columns 0 to NT − 1 is
accumulated in stream order from what Z, A and D give, and no other changes; its flags, cycles, skipped blocks and MACs go with
the operation.
R305: `accscale`, `accadd` and `tdeq` round each element once to binary32; `tquant` re-encodes rows of an accumulator in the tile's format. -/
def Obligations.MultiplyAndAccumulate : Prop :=
  (∀ (s : State) (f : RForm), s.Issues → f.tb < 8 → f.acc < 4 → s.g.flagRoom s.g.gang.fb.toNat = true →
    s.g.mismatch (s.g.supplies (fun l => [s.g.dword l f.a f.lit, (s.g.word l f.b f.lit).zeroExtend 64])) = none →
    let g := s.g
    let m := s.mat
    let sh := m.shape f.tb
    let es := m.elems f.tb
    let rows := if f.tr = true then shCols sh else shRows sh
    let k := if f.tr = true then shRows sh else shCols sh
    let n := laN m.lshape
    let nt := if laPair m.latch = true then 2 * n else n
    let x := fun i j => if f.tr = true then elemAt es j i else elemAt es i j
    let skip := fun i j => f.spb && shZmv sh
      && (Tab.get 0 m.zmap f.tb).getLsbD (if f.tr = true then 16 * (j / 8) + i / 8 else 16 * (i / 8) + j / 8)
    let old := fun i j => if j < n then m.accAt f.acc i j else (s.core (g.core + 1)).mat.accAt f.acc i (j - n)
    let decay := fun i j => f32.mul 0 (g.word g.elected f.b f.lit).toNat (old i j).toNat
    let start := fun i j => if f.tz = true then ((0 : Word), 0)
      else if f.td = true then (BitVec.ofNat 32 (decay i j).bits, (decay i j).flags) else (old i j, 0)
    let new := fun i j => mmaElem k (start i j) (x i) (fun q => elemAt m.weights q j) (skip i)
    let live := (List.range ((rows + 7) / 8)).map (fun gr => (List.range ((k + 7) / 8)).countP (fun b => !skip (8 * gr) (8 * b)))
    let rho := min (rateOf (laFmt m.latch)) (rateOf f.afmt)
    let cyc := 24 + (live.map (fun z => (z + 2 * rho - 1) / (2 * rho))).foldl (· + ·) 0
    rows ≤ 128 → n ≤ 128 → (laMet m.latch = false ∨ s.unapplied g.core + rows * k * nt ≤ 2 ^ 23) →
    Completes (.mma f) s (fun t => ∃ fl,
      MatStarts s t (if laPair m.latch = true then [g.core, g.core + 1] else [g.core])
        { gid := s.cur, kind := .matrix, flag := g.gang.fb.toNat, tiles := accBit f.acc
          ftiles := if laPair m.latch = true then accBit f.acc else 0, writes := [.sticky (BitVec.ofNat 64 fl)], cycles := cyc
          skips := (rows + 7) / 8 * ((k + 7) / 8) - live.foldl (· + ·) 0, macs := rows * k * nt, metered := laMet m.latch
          region := laReg m.latch } cyc
      ∧ (∀ b, fl.testBit b = true ↔ ∃ i j, i < rows ∧ j < nt ∧ (new i j).2.testBit b = true)
      ∧ m.OnlyAcc (t.core g.core).mat f.acc (fun i j => i < rows ∧ j < n)
      ∧ (∀ i j, i < rows → j < n → (t.core g.core).mat.accAt f.acc i j = (new i j).1)
      ∧ (laPair m.latch = true → (s.core (g.core + 1)).mat.OnlyAcc (t.core (g.core + 1)).mat f.acc (fun i j => i < rows ∧ j < n)
          ∧ ∀ i j, i < rows → j < n → (t.core (g.core + 1)).mat.accAt f.acc i j = (new i (n + j)).1)))
  ∧ (∀ (s : State) (f : RForm), s.Issues → f.ta < 8 → f.acc < 4 → s.g.flagRoom s.g.gang.fb.toNat = true →
    s.g.mismatch (s.g.supplies (fun l => [s.g.dword l f.a f.lit, (s.g.word l f.b f.lit).zeroExtend 64])) = none →
    let g := s.g
    let m := s.mat
    let sh := m.shape f.ta
    let es := m.elems f.ta
    let inTile := fun r c => if f.tr = true then c < shRows sh ∧ r < shCols sh else r < shRows sh ∧ c < shCols sh
    let el := fun r c => if f.tr = true then elemAt es c r else elemAt es r c
    let acc := fun r c => f32.decode (m.accAt f.acc r c).toNat
    let writes := fun (i : Instr) (cc : Nat) (on : Nat → Nat → Prop) (new : Nat → Nat → Rslt) => Completes i s (fun t => ∃ fl,
      MatStarts s t [g.core] { gid := s.cur, kind := .matrix, flag := g.gang.fb.toNat, tiles := accBit f.acc
                               writes := [.sticky (BitVec.ofNat 64 fl)] } cc
      ∧ (∀ b, fl.testBit b = true ↔ ∃ r c, r < 128 ∧ c < 128 ∧ on r c ∧ (new r c).flags.testBit b = true)
      ∧ m.OnlyAcc (t.core g.core).mat f.acc on
      ∧ ∀ r c, r < 128 → c < 128 → on r c → (t.core g.core).mat.accAt f.acc r c = BitVec.ofNat 32 (new r c).bits)
    writes (.accscale f) 136 (fun _ _ => True) (fun r c => f32.mul 0 (m.accAt f.acc r c).toNat (g.word g.elected f.b f.lit).toNat)
    ∧ (shapeOk (shRows sh) (shCols sh) (shFmt sh) = true →
      writes (.accadd f) (8 + shRows sh) inTile (fun r c =>
        let v := addNum 0 (acc r c) (el r c)
        { f32.round 0 v.1 with flags := (f32.round 0 v.1).flags ||| nvIf (v.2 || (acc r c).isSnan || (el r c).isSnan) })
      ∧ writes (.tdeq f) (8 + shRows sh) inTile (fun r c => f32.round 0 (el r c))
      ∧ Completes (.tquant f) s (fun t => ∃ fl,
          let row := fun r => encodeRow (shFmt sh) ((List.range (shCols sh)).map (fun c => if f.tr = true then acc c r else acc r c))
          MatStarts s t [g.core] { gid := s.cur, kind := .matrix, flag := g.gang.fb.toNat, tiles := tileBit f.ta
                                   writes := [.sticky (BitVec.ofNat 64 fl)] } (8 + shRows sh)
          ∧ (∀ b, fl.testBit b = true ↔ ∃ r, r < shRows sh ∧ (row r).2.testBit b = true)
          ∧ m.OnlyTile (t.core g.core).mat f.ta ∧ (t.core g.core).mat.ttag = m.ttag
          ∧ (t.core g.core).mat.shape f.ta = sh &&& ~~~(1#64 <<< 22)
          ∧ (∀ r i b, r < shRows sh → (row r).1[i]? = some b → (t.core g.core).mat.tileByte f.ta r i = b)
          ∧ (∀ r i, r < shRows sh → (row r).1.length ≤ i → i < ((row r).1.length + 31) / 32 * 32 →
              (t.core g.core).mat.tileByte f.ta r i = 0)
          ∧ (∀ r i, r < 128 → i < 256 → shRows sh ≤ r → (t.core g.core).mat.tileByte f.ta r i = m.tileByte f.ta r i))))

/-- R309, R313 and R314: `stbind` to an empty binding of a descriptor that is readable and in no cache asks for it, and shares a plate that
the pair's cache holds, whose LAYER it sets; `stinval` marks the plate; `stflush`
of an empty binding completes at once and of a bound one empties it; `stquery` answers the report in the elected lane, 0 on an empty binding. -/
def Obligations.Bindings : Prop :=
  ∀ (s : State) (f : RForm), s.Issues → s.g.flagRoom s.g.gang.fb.toNat = true → s.g.flagRoom (s.g.flagFor f.d) = true →
    s.g.mismatch (s.g.supplies (fun l => [s.g.dword l f.a f.lit, (s.g.word l f.b f.lit).zeroExtend 64])) = none →
    let g := s.g
    let pair := pairOf g.core
    let x := s.binding g.core f.sb
    let a := g.dword g.elected f.a f.lit
    let op := ({ gid := s.cur, kind := .matrix, flag := g.gang.fb.toNat, tiles := bindBit f.sb } : Op)
    (∀ acc, 0 < s.nextId → (∀ r ∈ s.reqs, r.2.op < s.nextId) → x.bound = false → a.toNat % 64 = 0 → s.commitFirst = .ok () → (s.pair pair).plate a s.asid = none →
      s.checkLanes (rightR ||| rightW) [s.probeAt g.elected a 64 (rightR ||| rightW) false false false] [(g.elected, a)] = .ok [acc] →
      Completes (.stbind f) s (fun t => t.mem = s.mem ∧ t.wr = s.wr ∧ t.binding g.core f.sb = { bound := true, va := a, asid := s.asid }
        ∧ (∀ b, b ≠ f.sb → t.binding g.core b = s.binding g.core b)
        ∧ ∃ id o, Tab.find t.ops id = some o ∧ o.kind = .matrix ∧ o.todo = some (.stbind f) ∧ o.flag = op.flag ∧ o.tiles = op.tiles
            ∧ o.loads.map LaneLoad.pline = [acc.pa / 128]
            ∧ t.awaits (.matrixOpComplete id) = true))
    ∧ (∀ acc p, x.bound = false → a.toNat % 64 = 0 → s.commitFirst = .ok () → (s.pair pair).plate a s.asid = some p →
      p.va = a → p.asid = s.asid → p.malformed = false →
      s.checkLanes (rightR ||| rightW) [s.probeAt g.elected a 64 (rightR ||| rightW) false false false] [(g.elected, a)] = .ok [acc] →
      ∃ t id u, exec (.stbind f) s = .next t ∧ t.awaits (.matrixOpComplete id) = true ∧ exec (.matrixOpComplete id) t = .next u
        ∧ Tab.find u.ops id = none ∧ u.mem = s.mem ∧ u.wr = s.wr
        ∧ u.binding g.core f.sb = { bound := true, va := a, asid := s.asid } ∧ (∀ k, Tab.get 0 u.g.flags k = Tab.get 0 g.flags k)
        ∧ (u.pair pair).plate a s.asid = some (if p.layer = (g.word g.elected f.b f.lit).toNat % 2 ^ 16 then p
            else (p.put 0 2 ((g.word g.elected f.b f.lit).toNat % 2 ^ 16)).setFlags false p.inv p.met))
    ∧ (∀ p, x.bound = true → (s.pair pair).plate x.va x.asid = some p → Completes (.stinval f) s (fun t =>
        t = { s with gids := t.gids, pairs := t.pairs } ∧ t.g = g.advance ∧ (∀ q, q ≠ pair → t.pair q = s.pair q)
        ∧ ∃ q, (t.pair pair).plate x.va x.asid = some q ∧ q = p.setFlags p.valid true p.met))
    ∧ (x.bound = false → Completes (.stinval f) s (fun t => OnlyGang s t ∧ t.g = g.advance))
    ∧ (x.bound = false → Completes (.stflush f) s (fun t => t.cores = s.cores ∧
        MatStarts s t [] { op with todo := some (.stflush f), args := [0, 0, 0, 0, 0] } 8))
    ∧ (x.bound = true → Completes (.stflush f) s (fun t => t.mem = s.mem ∧ t.wr = s.wr ∧ t.binding g.core f.sb = {}
        ∧ (∀ b, b ≠ f.sb → t.binding g.core b = s.binding g.core b)
        ∧ ((∀ c b, (c = 2 * pair ∨ c = 2 * pair + 1) → ¬ (c = g.core ∧ b = f.sb) → (s.binding c b).bound = false) →
            (t.pair pair).plate x.va x.asid = none)))
    ∧ (let report := if x.bound = false then 0
         else if field x.report 3 0 ≠ 0 then x.report
         else match (s.pair pair).plate x.va x.asid with
           | some p => BitVec.ofNat 64 (p.cnt * 2 ^ 8)
           | none => 0
       Completes (.stquery f) s (fun t => t.cores = s.cores ∧
         MatStarts s t []
           { gid := s.cur, kind := .matrix, flag := g.flagFor f.d, dst := f.d
             writes := g.wrOn g.isElected f.d (fun _ => splitD report) } 8)
       ∧ Finishes s (.stquery f) .matrixOpComplete g.isElected f.d 2 (fun _ => splitD report) 0)

/-- R310, R312 and R316: `dmma` on a plate whose arrays stand in the cache with the operation's shape, and put no other plate's out, takes the case of Table 8, and `strefresh` on a
usable plate recomputes it: the accumulator, the plate and the report are those of the path. On an unusable plate `strefresh` changes
the report alone, to REFUSED. -/
def Obligations.StereoPaths : Prop :=
  ∀ (s : State) (f : RForm) (p : Plate), s.Issues → f.acc < 4 → s.g.flagRoom s.g.gang.fb.toNat = true →
    s.g.mismatch (s.g.supplies (fun l => [s.g.dword l f.a f.lit, (s.g.word l f.b f.lit).zeroExtend 64])) = none →
    let g := s.g
    let m := s.mat
    let x := s.binding g.core f.sb
    let ten := (s.launch g.launch).tenant
    let q := { p with core := g.core, tenant := ten }
    let st := s.stereoOf g.core ten f (m.shape f.tb)
    (s.pair (pairOf g.core)).plate x.va x.asid = some p → p.va = x.va → p.asid = x.asid →
    s.plateVictims (pairOf g.core) x.va x.asid (4 * p.rows * (p.kd + p.nt)) = [] → laN m.lshape ≤ 128 → p.rows ≤ 128 →
    let takes := fun (i : Instr) (r : StereoRun) (macs cc : Nat) => Completes i s (fun t => t.mem = s.mem ∧ t.wr = s.wr
      ∧ (∀ e ∈ r.out, e.2.1 < laN m.lshape → (t.core g.core).mat.accAt f.acc e.1 e.2.1 = e.2.2)
      ∧ (∀ e ∈ r.out, laN m.lshape ≤ e.2.1 → (t.core (g.core + 1)).mat.accAt f.acc e.1 (e.2.1 - laN m.lshape) = e.2.2)
      ∧ (t.binding g.core f.sb) = { x with report := r.report }
      ∧ (t.pair (pairOf g.core)).plate x.va x.asid = some r.plate
      ∧ ∃ id o, Tab.find t.ops id = some o ∧ o.kind = .matrix ∧ o.writes = [.sticky (BitVec.ofNat 64 r.flags)] ∧ o.cycles = r.cycles
          ∧ o.macs = macs ∧ o.metered = laMet m.latch ∧ (t.ptime + ccNs cc, Due.event (.matrixOpComplete id)) ∈ t.agenda)
    (p.arrays = true → p.rows = st.m ∧ p.kd = st.k ∧ p.nt = st.nt →
      (laMet m.latch = false ∨ s.unapplied g.core + st.m * st.k * st.nt ≤ 2 ^ 23) →
      (stereoCase q m.latch st = 1 → takes (.dmma f) (deltaRun q m st) (st.m * st.k * st.nt) (2 * st.m + (deltaRun q m st).cycles))
      ∧ (stereoCase q m.latch st ≠ 1 →
          takes (.dmma f) (denseRun q m st (stereoCase q m.latch st) 0) (st.m * st.k * st.nt)
            (2 * st.m + (denseRun q m st (stereoCase q m.latch st) 0).cycles)))
    ∧ (p.arrays = true → p.valid = true ∧ p.ten = ten.toNat ∧ p.kd = laK m.lshape ∧ p.nt = m.columns →
      (laMet m.latch = false ∨ s.unapplied g.core + p.rows * p.kd * m.columns ≤ 2 ^ 23) →
      takes (.strefresh f) (refreshRun q m m.columns) (p.rows * p.kd * m.columns) (refreshRun q m m.columns).cycles)
    ∧ ((p.valid = false ∨ p.ten ≠ ten.toNat ∨ p.kd ≠ laK m.lshape ∨ p.nt ≠ m.columns) →
      Completes (.strefresh f) s (fun t =>
        t.binding g.core f.sb = { x with report := BitVec.ofNat 64 (p.cnt * 2 ^ 8 + 10) } ∧ t.pairs = s.pairs
        ∧ (∀ b r c, (t.core g.core).mat.accAt b r c = m.accAt b r c) ∧ t.mem = s.mem ∧ t.wr = s.wr))

/-- R322, R323, R327 and R328: a write within a team's window moves its bytes as they stand (R124) and the command goes on with the next; the last range of a
prefetch ends its command; the oldest gang stalled at a full engine tries again.
R289, R303, R308, R315, R392 and R393: a matrix operation completes with its registers and flags written, its flag lowered, MXSTAT and the
imprint count of its core increased; rows that have arrived go into their tile; a count of 2^20 is sent to X1 and restarts at 0; a plate
that leaves the cache keeps its descriptor there.
R295, R299 and R304: where the pair's L1 holds every byte of the rows valid and the checks pass, `tld`, `accld` and `wlatch` from memory take
those bytes, and their operation completes: the tile with its padding of zeros, the accumulator, or the latch. -/
def Obligations.EngineAndMatrixProgress : Prop :=
  ((∀ (s : State) (id : Nat) (c : Cmd), Tab.find s.cmds id = some c → c.pf = false → c.stage = 1 → c.srcs = [] → c.dsts = [] →
    ctl c.desc 0 = true → ctl c.desc 1 = true → ctl c.desc 2 = false → ctl c.desc 3 = false → c.run < runs c.desc → c.cancelled = false → c.started = true → 0 < c.plan.n →
    0 ≤ c.plan.src → 0 ≤ c.plan.dst → c.off + c.plan.n < (runBytes c.desc false).1 →
    (∀ e ∈ s.gids, e.2.team = c.team → ∀ th ∈ e.2.lanes, th.st ≠ .waiting) →
    let base := (s.team c.team).winBase
    let p := s.pair (s.team c.team).pair
    Completes (.engineWrite id) s (fun t =>
      t = { s with pairs := t.pairs, cmds := t.cmds, reqs := t.reqs, agenda := t.agenda }
      ∧ t.agenda = s.agenda ++ [(s.ptime, .event (.engineWrite id))]
      ∧ (∀ i, i < c.plan.n → (t.pair (s.team c.team).pair).scrByte (base + c.plan.dst.toNat + i) = p.scrByte (base + c.plan.src.toNat + i))
      ∧ (∀ a, ¬ (base + c.plan.dst.toNat ≤ a ∧ a < base + c.plan.dst.toNat + c.plan.n) →
          (t.pair (s.team c.team).pair).scrByte a = p.scrByte a)
      ∧ (∀ q, q ≠ (s.team c.team).pair → t.pair q = s.pair q)
      ∧ ∃ c', Tab.find t.cmds id = some c' ∧ c'.run = c.run ∧ c'.off = c.off + c.plan.n ∧ c'.stage = 0 ∧ c'.desc = c.desc))
  ∧ (∀ (s : State) (id : Nat) (c : Cmd), Tab.find s.cmds id = some c → c.pf = true → c.stage = 1 → c.srcs = [] → ctl c.desc 2 = false → c.started = true →
    runs c.desc = c.run + 1 → (Tab.find s.gids c.gid).isSome = true →
    (runBytes c.desc true).2 ≤ c.off + min ((runBytes c.desc true).2 - c.off)
      (2048 - ((runBase c.desc 0 28 c.run + c.off) % 2048).toNat) →
    Completes (.xpfRange id) s (fun t => Tab.find t.cmds id = none ∧ (t.gid c.gid).xdone = 1 ∧ t.mem = s.mem ∧ t.wr = s.wr))
  ∧ (∀ (s : State) (core k uid : Nat) (rest : List (Nat × Nat)), (s.core core).engineStalls = (k, uid) :: rest →
    Completes (.engineQueueRetry core) s (fun t => t = { s with agenda := s.agenda ++ [(s.ptime, .issue k uid)] })))
  ∧ ((∀ (s : State) (id : Nat) (o : Op) (g : Gid), Tab.find s.ops id = some o → o.todo = none → Tab.find s.gids o.gid = some g →
    o.macs = 0 ∨ o.metered = false →
    Completes (.matrixOpComplete id) s (fun t =>
      t = { s with cores := t.cores, ops := Tab.del s.ops id, gids := t.gids }
      ∧ (∀ c, c ≠ g.core → t.core c = s.core c)
      ∧ t.core g.core = { s.core g.core with mat := { (s.core g.core).mat with
          mxstat := BitVec.ofNat 64 (min (field (s.core g.core).mat.mxstat 63 32 + o.skips) 0xFFFFFFFF * 2 ^ 32
            + min (field (s.core g.core).mat.mxstat 31 0 + o.cycles) 0xFFFFFFFF) } }
      ∧ (∀ k, k ≠ o.gid → Tab.find t.gids k = Tab.find s.gids k)
      ∧ (o.flag ≠ 15 → Tab.get 0 (t.gid o.gid).flags o.flag = Tab.get 0 g.flags o.flag - 1)
      ∧ (∀ l r v, o.writes = [.x l r v] → l < g.lanes.length → Tab.find ((t.gid o.gid).lane l).x r = some v)
      ∧ (∀ v, o.writes = [.sticky v] → (t.gid o.gid).sticky = g.sticky ||| v)))
  ∧ (∀ (s : State) (id : Nat) (o : Op) (g : Gid), Tab.find s.ops id = some o → o.todo = none → Tab.find s.gids o.gid = some g →
    o.metered = true → 0 < o.macs → (s.core g.core).pcnt + o.macs < 2 ^ 20 →
    (s.core g.core).preg = o.region → (s.core g.core).pten = (s.launch g.launch).tenant →
    Completes (.matrixOpComplete id) s (fun t => (t.core g.core).pcnt = (s.core g.core).pcnt + o.macs
      ∧ (t.core g.core).preg = o.region ∧ (t.core g.core).pten = (s.launch g.launch).tenant))
  ∧ (∀ (s : State) (id base stride n len : Nat) (o : Op) (f : RForm) (g : Gid), Tab.find s.ops id = some o → o.todo = some (.tld f) →
    Tab.find s.gids o.gid = some g → o.metered = false → f.ta < 8 → n ≤ 128 → len ≤ 256 → o.args = [base, stride, n, len] →
    (∀ ll ∈ o.loads, ∃ d, (s.req ll.req).reply = some d ∧ d.denied = false ∧ d.poison = false) →
    Completes (.matrixOpComplete id) s (fun t => Tab.find t.ops id = none ∧ t.mem = s.mem
      ∧ (∀ r i, r < n → i < len →
          (s.rowFrom o (base + r * stride) len)[i]? = some ((t.core g.core).mat.tileByte f.ta r i))
      ∧ ∀ b r i, InTile b r i → b ≠ f.ta → (t.core g.core).mat.tileByte b r i = (s.core g.core).mat.tileByte b r i))
  ∧ (∀ (s : State) (core : Nat), 2 ^ 20 ≤ (s.core core).pcnt →
    Completes (.imprintThresholdFlush core) s (fun t => (t.core core) = { s.core core with pcnt := 0 }
      ∧ (∀ c, c ≠ core → t.core c = s.core c) ∧ t.mem = s.mem ∧ t.wr = s.wr ∧ t.gids = s.gids
      ∧ ∃ r, Tab.find t.reqs s.nextId = some r ∧ r.kind = .flush ∧ r.core = core ∧ r.cls = 0x07 ∧ r.target = 33
          ∧ r.master = BitVec.ofNat 12 core ∧ r.tenant = (s.core core).pten
          ∧ r.data.toNat / 2 ^ (8 * (16 * core % 128)) % 2 ^ 128
            = (s.core core).pcnt % 2 ^ 32 + (s.core core).preg.toNat * 2 ^ 32 + (s.core core).pten.toNat * 2 ^ 48))
  ∧ (∀ (s : State) (core : Nat), (s.core core).pcnt < 2 ^ 20 → Completes (.imprintThresholdFlush core) s (fun t => t = s))
  ∧ (∀ (s : State) (pair : Nat) (p : Plate), (s.pair pair).plates = [p] → p.adirty = false →
    Completes (.plateCacheEvict pair p.va) s (fun t => t.mem = s.mem
      ∧ (t.pair pair).plates = [{ p with arrays := false, opd := [], res := [], dirty := false }])))
  ∧ (∀ (s : State) (f : RForm) (as : List LaneAcc), s.Issues → f.spb = false → f.ta < 8 → f.acc < 4 →
    s.g.flagRoom s.g.gang.fb.toNat = true →
    s.g.mismatch (s.g.supplies (fun l => [s.g.dword l f.a f.lit, (s.g.word l f.b f.lit).zeroExtend 64])) = none →
    s.g.taintedWide f.a s.g.elected = false → s.g.taintOf s.g.elected f.b 1 = false →
    let g := s.g
    let m := s.mat
    let far := (s.core (g.core + 1)).mat
    let sh := m.shape f.ta
    let rb := rowLen (shFmt sh) (shCols sh)
    let k := if f.tr = true then shCols sh else shRows sh
    let n := if f.tr = true then shRows sh else shCols sh
    let at_ := fun r => (g.dword g.elected f.a f.lit).toNat + r * (g.word g.elected f.b f.lit).toNat
    let byte := fun va => (s.pair (pairOf g.core)).l1Byte s.asid g.kslot va
    let held := fun len => s.checkRows f (g.rowsOf f (shRows sh) len) false = .ok as
      ∧ ∀ r i, r < shRows sh → i < len → at_ r + i < 2 ^ 57 ∧ (byte (at_ r + i)).isSome = true
    let es := fun off => (List.range (shRows sh)).map (fun r => rowNums (shFmt sh) (shCols sh)
      ((List.range rb).map (fun i => ((byte (at_ r + off + i)).getD 0).toNat)))
    let src := fun (es : List (List Machine.Num)) (i j : Nat) => if f.tr = true then elemAt es j i else elemAt es i j
    let ends := fun (i : Instr) (P : State → Prop) => ∃ t u, exec i s = .next t ∧ exec (.matrixOpComplete s.nextId) t = .next u
      ∧ Tab.find u.ops s.nextId = none ∧ u.mem = s.mem ∧ u.wr = s.wr ∧ u.pairs = s.pairs
      ∧ (∀ k, k ≠ s.cur → Tab.find u.gids k = Tab.find s.gids k) ∧ u.g.lanes = g.lanes ∧ u.g.y = g.y ∧ u.g.sticky = g.sticky
      ∧ (∀ k, Tab.get 0 u.g.flags k = Tab.get 0 g.flags k) ∧ u.g.gang.pend = [] ∧ u.g.gang.buf = g.gang.buf.tail ∧ P u
    shapeOk (shRows sh) (shCols sh) (shFmt sh) = true →
    (held rb → ends (.tld f) (fun u => m.OnlyTile (u.core g.core).mat f.ta
      ∧ (∀ c, c ≠ g.core → u.core c = s.core c)
      ∧ (u.core g.core).mat.shape f.ta = sh &&& ~~~(1#64 <<< 22)
      ∧ ((∀ a ∈ as, a.wt = false) → (u.core g.core).mat.ttag = m.ttag)
      ∧ (∀ r i, r < shRows sh → i < rb → byte (at_ r + i) = some ((u.core g.core).mat.tileByte f.ta r i))
      ∧ (∀ r i, r < shRows sh → rb ≤ i → i < (rb + 31) / 32 * 32 → (u.core g.core).mat.tileByte f.ta r i = 0)
      ∧ (∀ r i, r < 128 → i < 256 → (shRows sh ≤ r ∨ (rb + 31) / 32 * 32 ≤ i) →
          (u.core g.core).mat.tileByte f.ta r i = m.tileByte f.ta r i)))
    ∧ (held (4 * shCols sh) → ends (.accld f) (fun u =>
        m.OnlyAcc (u.core g.core).mat f.acc (fun r c => r < shRows sh ∧ c < shCols sh)
        ∧ (∀ c, c ≠ g.core → u.core c = s.core c)
        ∧ ∀ r c j, r < shRows sh → c < shCols sh → j < 4 →
          byte (at_ r + 4 * c + j) = some (((u.core g.core).mat.accAt f.acc r c).extractLsb' (8 * j) 8)))
    ∧ (f.a ≠ 116 → held (if f.d = 1 then 2 * rb else rb) → ends (.wlatch f) (fun v =>
        let u := (v.core g.core).mat
        u = { m with latch := u.latch, lshape := u.lshape, ltr := f.tr, lw := u.lw, lw2 := u.lw2, mxstat := mxstatAdd m.mxstat 0 (16 + k) }
        ∧ (∀ c, c ≠ g.core → (f.d = 1 → c ≠ g.core + 1) → v.core c = s.core c)
        ∧ laValid u.latch = true ∧ laPair u.latch = decide (f.d = 1) ∧ laFmt u.latch = shFmt sh
        ∧ ((∀ a ∈ as, a.wt = false) → laMet u.latch = false)
        ∧ u.lshape = BitVec.ofNat 64 (k + n * 2 ^ 8)
        ∧ (∀ i j, i < k → j < n → elemAt u.weights i j = src (es 0) i j)
        ∧ (f.d = 1 →
            let w := (v.core (g.core + 1)).mat
            w = { far with latch := u.latch &&& ~~~(1#64 <<< 18), lshape := u.lshape, ltr := f.tr, lw := w.lw, lw2 := [] }
            ∧ (∀ i j, i < k → j < n → elemAt u.weights i (n + j) = src (es rb) i j)
            ∧ (∀ i j, i < k → j < n → elemAt w.weights i j = src (es rb) i j)))))

/-! ### Copy engines, the typecase, and completions -/

/-- R320, R322, R324, R327, R328 and R330: `xcopy` and `xpf` of a well-formed descriptor in y or in the window, once the pair's words are
written back, put one command on the core's engine, which begins at once; with every older command of the core started, a copy of one run
within the team's window and one write ends with its bytes moved, and a prefetch of no element ends. `xcancel` with nothing to cancel goes
on, else it marks the commands it selects and waits for them; `xstat` answers the counts in the elected lane. -/
def Obligations.EngineCommands : Prop :=
  ∀ (s : State) (f : RForm), s.Issues →
    let g := s.g
    let e := g.elected
    let dOff := (g.word e f.a f.lit).toNat
    let swOff := (g.word e f.b f.lit).toNat
    let d := if f.a = 96 then g.descY else (s.pair (s.team g.team).pair).descAt ((s.team g.team).winBase + dOff)
    let l := s.launch g.launch
    let fb := g.gang.fb.toNat
    let puts := fun (i : Instr) (pf : Bool) => malformed d pf = false → Completes i s (fun t =>
      t = { s with cmds := t.cmds, cores := t.cores, gids := t.gids, nextId := s.nextId + 1, agenda := t.agenda }
      ∧ t.agenda = s.agenda ++ [(s.ptime, .event (if pf = true then .xpfRange s.nextId else .engineWrite s.nextId))]
      ∧ t.cmds = Tab.ins s.cmds s.nextId
          { gid := s.cur, core := g.core, flag := fb, scope := f.p.scope, pf := pf, desc := d
            sw := if ctl d 2 = true then swOff else 0
            asid := l.asid, tenant := l.tenant, kslot := g.kslot, launch := g.launch, team := g.team }
      ∧ (∀ c, t.core c = s.core c) ∧ (∀ k, k ≠ s.cur → Tab.find t.gids k = Tab.find s.gids k)
      ∧ t.g = { g with
          flags := if fb = 15 then g.flags else Tab.upd 0 g.flags fb (· + 1)
          gang := { g.advance.gang with pend := if fb = 15 then [s.nextId] else [] } })
    (g.mismatch (g.supplies (fun l => [(g.word l f.a f.lit ++ g.word l f.b f.lit).zeroExtend 64])) = none →
      (f.a = 96 ∨ s.InWindow (fun l => l = e) (fun _ => (dOff : Int)) 64) →
      (ctl d 2 = true → s.InWindow (fun l => l = e) (fun _ => (swOff : Int)) 16) →
      g.flagRoom fb = true → s.cmdCount g.core < 512 → (s.core g.core).engineStalls = [] → g.gang.stage ≠ 0 →
      puts (.xcopy f) false ∧ puts (.xpf f) true
      ∧ ((∀ c ∈ s.cmds, c.2.core = g.core → c.1 < s.nextId → c.2.started = true) → (∀ e ∈ s.l2, e.2.pin ≠ some s.nextId) →
        let src := runBase d 0 28 0
        let dst := runBase d 8 44 0
        let n := (runBytes d false).1
        let p := s.pair (s.team g.team).pair
        let base := (s.team g.team).winBase
        let size := (s.team g.team).winSize
        (malformed d false = false → ctl d 0 = true → ctl d 1 = true → ctl d 2 = false → ctl d 3 = false → runs d = 1 → 0 ≤ src →
          src + n ≤ size → 0 ≤ dst → dst + n ≤ size → dst % 2048 + n ≤ 2048 → s.NoneWaits →
          ∃ t u v, exec (.xcopy f) s = .next t ∧ exec (.engineWrite s.nextId) t = .next u ∧ exec (.engineWrite s.nextId) u = .next v
            ∧ Tab.find v.cmds s.nextId = none ∧ v.g.xdone = 1 ∧ v.g.lanes = g.lanes ∧ v.g.sticky = g.sticky
            ∧ (∀ k, Tab.get 0 v.g.flags k = Tab.get 0 g.flags k) ∧ v.g.gang.pend = [] ∧ v.mem = s.mem ∧ v.wr = s.wr
            ∧ (∀ k, k ≠ s.cur → Tab.find v.gids k = Tab.find s.gids k) ∧ (∀ q, q ≠ (s.team g.team).pair → v.pair q = s.pair q)
            ∧ (∀ i, i < n → v.scratch (base + dst.toNat + i) = p.scrByte (base + src.toNat + i))
            ∧ ∀ a, ¬ (base + dst.toNat ≤ a ∧ a < base + dst.toNat + n) → v.scratch a = p.scrByte a)
        ∧ (malformed d true = false → ctl d 2 = false → runs d = 0 →
          ∃ t u, exec (.xpf f) s = .next t ∧ exec (.xpfRange s.nextId) t = .next u ∧ Tab.find u.cmds s.nextId = none ∧ u.g.xdone = 1
            ∧ u.g.lanes = g.lanes ∧ (∀ k, Tab.get 0 u.g.flags k = Tab.get 0 g.flags k) ∧ u.g.gang.pend = [] ∧ u.mem = s.mem
            ∧ u.wr = s.wr ∧ u.pairs = s.pairs ∧ ∀ k, k ≠ s.cur → Tab.find u.gids k = Tab.find s.gids k)))
    ∧ (g.mismatch (g.supplies (fun l => [(g.word l f.a f.lit).zeroExtend 64])) = none → (g.gang.stage ≠ 0 ∨ ∀ c ∈ s.cmds, c.2.gid ≠ s.cur) →
      Completes (.xcancel f) s (fun t => OnlyGang s t ∧ t.g = g.advance))
    ∧ (g.mismatch (g.supplies (fun l => [(g.word l f.a f.lit).zeroExtend 64])) = none → f.a = 116 → g.gang.stage = 0 → (∃ c ∈ s.cmds, c.2.gid = s.cur) →
      Completes (.xcancel f) s (fun t =>
        t = { s with cmds := t.cmds, gids := t.gids }
        ∧ (∀ id c, Tab.find s.cmds id = some c → c.gid = s.cur → Tab.find t.cmds id = some { c with cancelled := true })
        ∧ (∀ id, (∀ c, Tab.find s.cmds id = some c → c.gid ≠ s.cur) → (∀ c ∈ s.cmds, c.1 = id → c.2.gid ≠ s.cur) →
            Tab.find t.cmds id = Tab.find s.cmds id)
        ∧ t.g.gang.stage = 1 ∧ (∀ c ∈ s.cmds, c.2.gid = s.cur → c.1 ∈ t.g.gang.pend) ∧ t.g.gang.buf = g.gang.buf))
    ∧ (g.flagRoom (g.flagFor f.d) = true →
      let v := splitD (BitVec.ofNat 64 (g.ecyc * 2 ^ 32 + g.xdone * 2 ^ 13 + s.cmds.countP (fun c => c.2.gid == s.cur)))
      StartsOp s (.xstat f) { computeOp s f.d 2 (fun _ => v) 0 with writes := g.wrOn g.isElected f.d (fun _ => v) ++ [.sticky 0] } (ccNs 8)
        .longOpComplete
      ∧ Finishes s (.xstat f) .longOpComplete g.isElected f.d 2 (fun _ => v) 0)

/-- R334 to R336: `tcload` of an image that passes its checks, inside the bank, starts with one read for each line, by L1 (R76); where L1 holds
the image valid and no other `tcload` is open, its completion writes the entries. `tcread` answers the entry each lane names, and `tcfence` goes on, once no `tcload` they wait for is open. -/
def Obligations.TypecaseForms : Prop :=
  ∀ (s : State) (f : RForm), s.Issues →
    let g := s.g
    let e := g.elected
    let a := (g.dword e f.a f.lit).toNat
    let first := (g.word e f.b f.lit).toNat % 256
    let count := (g.word e f.b f.lit).toNat / 256 % 512
    let l := s.launch g.launch
    let fb := g.gang.fb.toNat
    (g.mismatch (g.supplies (fun k => [g.dword k f.a f.lit, (g.word k f.b f.lit).zeroExtend 64])) = none → g.flagRoom fb = true →
      1 ≤ count → first + count ≤ 256 →
      (l.forme.att = true → l.forme.tcimg.toNat ≤ a ∧ a + 16 * count ≤ l.forme.tcimg.toNat + 4096) →
      ∀ as, s.checkLanes rightR ((lineStarts (a : Int) (16 * count)).map (s.probeImage (g.dword e f.a f.lit)))
        [(e, g.dword e f.a f.lit)] = .ok as →
      ((∀ r ∈ s.reqs, r.2.op < s.nextId) →
        Completes (.tcload f) s (fun t => t.mem = s.mem ∧ t.wr = s.wr ∧ (∀ p, (t.pair p).bank = (s.pair p).bank)
          ∧ t.g.gang = { g.advance.gang with pend := if fb = 15 then [s.nextId] else [] }
          ∧ t.awaits (.longOpComplete s.nextId) = true
          ∧ ∃ o, Tab.find t.ops s.nextId = some o ∧ o.kind = .engine ∧ o.gid = s.cur ∧ o.flag = fb ∧ o.first = first ∧ o.count = count
              ∧ o.loads.map LaneLoad.ea = (lineStarts (a : Int) (16 * count)).map (·.1)))
      ∧ (let byte := fun va => (s.pair (pairOf g.core)).l1Byte s.asid g.kslot va
         (∀ o ∈ s.ops, o.2.kind ≠ .engine) → (∀ i, i < 16 * count → a + i < 2 ^ 57 ∧ (byte (a + i)).isSome = true) →
         ∃ t u, exec (.tcload f) s = .next t ∧ exec (.longOpComplete s.nextId) t = .next u ∧ Tab.find u.ops s.nextId = none
           ∧ u.mem = s.mem ∧ u.wr = s.wr ∧ u.cores = s.cores ∧ (∀ q, q ≠ pairOf g.core → u.pair q = s.pair q)
           ∧ (∀ k, k ≠ s.cur → Tab.find u.gids k = Tab.find s.gids k) ∧ u.g.lanes = g.lanes
           ∧ (∀ k, Tab.get 0 u.g.flags k = Tab.get 0 g.flags k) ∧ u.g.gang.pend = [] ∧ u.g.gang.buf = g.gang.buf.tail
           ∧ (∀ i j, i < count → j < 16 → byte (a + 16 * i + j)
               = some ((Tab.get 0 (u.pair (pairOf g.core)).bank (256 * g.kslot + first + i)).extractLsb' (8 * j) 8))
           ∧ ∀ k, ¬ (256 * g.kslot + first ≤ k ∧ k < 256 * g.kslot + first + count) →
               Tab.find (u.pair (pairOf g.core)).bank k = Tab.find (s.pair (pairOf g.core)).bank k))
    ∧ (s.tcloadOpen (fun k _ => k == s.cur) = false → g.flagRoom (g.flagFor f.d) = true →
      let v := fun l => splitN 4 (Tab.get 0 (s.pair (pairOf g.core)).bank (256 * g.kslot + (g.word l f.b f.lit).toNat % 256)).toNat
      StartsOp s (.tcread f) (computeOp s f.d 4 v 0) (ccNs 8) .longOpComplete
      ∧ Finishes s (.tcread f) .longOpComplete (fun _ => true) f.d 4 v 0)
    ∧ (s.tcloadOpen (fun _ o => o.core == g.core && o.kslot == g.kslot) = false →
      Completes .tcfence s (fun t => OnlyGang s t ∧ Gid.Continues g t.g s.ptime g.gang.next))

/-! ### The fabric -/

/-- R21 to R25, R30, R36 and R107: a message waits at its source in order; the oldest that admission lets go leaves as flits with consecutive
SEQ over the lanes of its pair, kept until they are acknowledged; the receiver takes the flit it expects, drops a duplicate, asks for a replay of
anything else, and counts and drops a bad one. A relay puts good flits in its forwarding buffer, from which a leg's sender takes them and its own
flits by turns. An ACK frees the flits up to its SEQ; a NAK, or the oldest one's age, puts every unacknowledged flit in line for a lane
again. -/
def Obligations.FlitDelivery : Prop :=
  (∀ (s : State) (i j : Nat) (m : Msg), i ≠ j →
    (s.send i j m).pairState i j = { s.pairState i j with
        egress := (s.pairState i j).egress ++ [{ m with
          ndata := if m.cls = 0x04 ∨ m.cls = 0x07 ∨ m.cls = 0x08 ∨ m.cls = 0x0D ∨ m.cls = 0x40 then 4
            else if m.cls = 0x0A ∨ m.cls = 0x44 then 1 else m.ndata }] }
    ∧ (s.send i j m).awaits (.flitInject i j) = true
    ∧ s.send i j m = { s with fab := (s.send i j m).fab, agenda := (s.send i j m).agenda })
  ∧ (∀ (s : State) (i j : Nat) (m : Msg) (rest : List Msg),
    let p := s.pairState i j
    let n := m.ndata.toNat + 1
    isPair i j = true → p.egress = m :: rest → p.bodies = [] → p.own = [] → p.through = [] → s.admits i j m = true →
    routeHold (s.route i j) = false → routeMode (s.route i j) < 2 → p.wireUntil ≤ s.ptime → p.replay.length + n ≤ 512 →
    n ≤ (s.ownLanes i j).length → (∀ x ∈ p.replay, n ≤ (x.f.seq - p.nextSeq).toNat) →
    Completes (.flitInject i j) s (fun t => t = { s with fab := t.fab, agenda := t.agenda }
      ∧ (∀ k, k ≠ 64 * i + j → Tab.find t.fab k = Tab.find s.fab k)
      ∧ (t.pairState i j).egress = rest ∧ (t.pairState i j).nextSeq = p.nextSeq + BitVec.ofNat 16 n
      ∧ (t.pairState i j).open_ = p.open_ + (if countOf m.cls = .open_ then 1 else 0)
      ∧ (t.pairState i j).pwbs = p.pwbs + (if countOf m.cls = .pwb then 1 else 0)
      ∧ (t.pairState i j).vnews = p.vnews + (if countOf m.cls = .vnew then 1 else 0)
      ∧ ∃ fs : List Flit, (t.pairState i j).replay = p.replay ++ fs.map (fun f => { f := f, at_ := s.ptime })
        ∧ fs.map (fun f => (f.kind, f.body)) = msgBodies m
        ∧ (∀ k f, fs[k]? = some f → f.seq = p.nextSeq + BitVec.ofNat 16 k ∧ f.crc = flitCrc f ∧ f.lane ∈ s.ownLanes i j
            ∧ (s.ptime + 25, Due.event (.flitReceive i j f)) ∈ t.agenda)))
  ∧ (∀ (s : State) (i k l τ : Nat) (f : Flit) (fs : List Flit) (r : Flit),
    let p := s.pairState i k
    routeHold (s.route i k) = true → p.own = f :: fs → p.through = [(τ, r)] → τ ≤ s.ptime → p.wireUntil ≤ s.ptime → s.ownLanes i k = [l] →
    Completes (.flitInject i k) s (fun t => t = { s with fab := t.fab, agenda := t.agenda } ∧ (t.pairState i k).turn = !p.turn
      ∧ (t.pairState i k).own = (if p.turn = true then p.own else fs) ∧ (t.pairState i k).through = (if p.turn = true then [] else p.through)
      ∧ (let x := { (if p.turn = true then r else f) with lane := l }
         (s.ptime + 25, Due.event (if x.dst.toNat = k then .flitReceive x.src.toNat x.dst.toNat x else .relayForward k x)) ∈ t.agenda)))
  ∧ (∀ (s : State) (i j : Nat) (f : Flit), f.crc ≠ flitCrc f → i < 36 → j < 36 →
    let v := s.reg x1 (crcOff i j)
    Completes (.flitReceive i j f) s (fun t => t = { s with regs := t.regs }
      ∧ t.reg x1 (crcOff i j) = (if 8 ≤ f.lane then setField v 63 32 (min (field v 63 32 + 1) 0xFFFFFFFF)
          else setField v 31 0 (min (field v 31 0 + 1) 0xFFFFFFFF))
      ∧ ∀ p o, regKey p o ≠ regKey x1 (crcOff i j) → t.reg p o = s.reg p o)
    ∧ Completes (.relayForward i f) s (fun t => t = s))
  ∧ (∀ (s : State) (k : Nat) (f : Flit), f.crc = flitCrc f →
    Completes (.relayForward k f) s (fun t => t = { s with fab := t.fab, agenda := t.agenda }
      ∧ t.pairState k f.dst.toNat = { s.pairState k f.dst.toNat with through := (s.pairState k f.dst.toNat).through ++ [(s.ptime + 20, f)] }
      ∧ (∀ x, x ≠ 64 * k + f.dst.toNat → Tab.find t.fab x = Tab.find s.fab x)
      ∧ (s.ptime + 20, Due.event (.flitInject k f.dst.toNat)) ∈ t.agenda))
  ∧ (∀ (s : State) (i j : Nat) (f : Flit), badFlit j f = false → f.kind ≠ 2 →
    let p := s.pairState i j
    (f.seq = p.expect → p.parts = [] → f.kind = 0 → (ofHeader f.body).ndata = 0 → knownClass (ofHeader f.body).cls = true →
      answerClass (ofHeader f.body).cls = false →
      Completes (.flitReceive i j f) s (fun t => t = { s with fab := t.fab, agenda := t.agenda }
        ∧ (t.pairState i j).expect = p.expect + 1
        ∧ (t.pairState i j).parts = [] ∧ (s.ptime, Due.deliver ⟨i, j, ofHeader f.body⟩) ∈ t.agenda))
    ∧ (f.seq ≠ p.expect → (p.expect - f.seq).toNat ≤ 32768 → Completes (.flitReceive i j f) s (fun t => t = s))
    ∧ (f.seq ≠ p.expect → 32768 < (p.expect - f.seq).toNat →
        Completes (.flitReceive i j f) s (fun t => t = s.control j i 2 p.expect)))
  ∧ (∀ (s : State) (i j : Nat) (f : Flit) (q : BitVec 16), badFlit j f = false → f.kind = 2 → f.body.extractLsb' 16 16 = q →
    (f.body.extractLsb' 0 8 = 1 → Completes (.flitReceive i j f) s (fun t => t = s.soon (.ackReceive i j q)))
    ∧ (f.body.extractLsb' 0 8 = 2 → Completes (.flitReceive i j f) s (fun t => t = s.soon (.nakReceive i j q))))
  ∧ (∀ (s : State) (i j : Nat), i < 64 → j < 64 → i ≠ j → (s.pairState i j).unacked ≠ 0 →
    Completes (.ackTimer i j) s (fun t => (t.pairState i j) = { s.pairState i j with unacked := 0 }
      ∧ t = { s with fab := t.fab, agenda := t.agenda }
      ∧ ∃ f, badFlit i f = false ∧ f.kind = 2 ∧ f.body.extractLsb' 0 8 = 1 ∧ f.body.extractLsb' 16 16 = (s.pairState i j).expect - 1
          ∧ (if routeMode (s.route j i) = 2 then
              (t.pairState j (routeRelay (s.route j i))).through
                = (s.pairState j (routeRelay (s.route j i))).through ++ [(s.ptime, f)]
            else (t.pairState j i).own = (s.pairState j i).own ++ [f])))
  ∧ (∀ (s : State) (i j : Nat) (q : BitVec 16), i < 64 →
    Completes (.ackReceive i j q) s (fun t => t = { s with fab := t.fab, agenda := t.agenda }
      ∧ t.pairState j i = { s.pairState j i with
          replay := (s.pairState j i).replay.filter (fun x => decide (0 < (x.f.seq - q).toNat ∧ (x.f.seq - q).toNat < 32768)) }
      ∧ ∀ k, k ≠ 64 * j + i → Tab.find t.fab k = Tab.find s.fab k))
  ∧ (∀ (s : State) (i j : Nat) (q : BitVec 16), i < 64 →
    let again := fun (t : State) (a b : Nat) =>
      let k := routeRelay (s.route a b)
      t = { s with fab := t.fab, agenda := t.agenda }
      ∧ (t.pairState a b).replay = (s.pairState a b).replay.map (fun x => { x with at_ := s.ptime, replays := x.replays + 1 })
      ∧ (∀ x ∈ (s.pairState a b).replay, if routeMode (s.route a b) = 2 then (s.ptime, x.f) ∈ (t.pairState a k).through
          else x.f ∈ (t.pairState a b).own)
      ∧ ((∃ x ∈ (s.pairState a b).replay, x.replays = 15) → t.awaits (.replayLimitLost a b) = true)
    Completes (.nakReceive i j q) s (fun t => again t j i)
    ∧ (∀ x xs, (s.pairState i j).replay = x :: xs → x.at_ + 1000 < s.ptime → Completes (.replayTimeout i j) s (fun t => again t i j)))

/-- R20, R27 to R29, R32 to R34 and R37: a lane that fails sixteen replays is given up and its colour lost, as with loss of light or more than 64
errors in an interval; a held pair takes the route of its lost bits; a route change is accepted whole and counted, or refused, and a change of
a lost bit starts the firmware's action; the share table is loaded only where every target's sum fits, and the MMP hears of one that does
not. -/
def Obligations.RoutesAndShares : Prop :=
  (∀ (s : State) (i j : Nat) (beta : Bool), i < 36 → j < 36 →
    Completes (.lossOfLight i j beta) s (fun t => t = { s with regs := t.regs, agenda := t.agenda, mmpNotes := t.mmpNotes }
      ∧ MmpNote.lane i j ∈ t.mmpNotes
      ∧ t.route i j = setField (s.route i j) (if beta = true then 33 else 32) (if beta = true then 33 else 32) 1
      ∧ (∀ p o, regKey p o ≠ regKey x1 (routeOff i j) → t.reg p o = s.reg p o)
      ∧ t.awaits (.fallbackReroute i j) = true))
  ∧ (∀ (s : State) (i j : Nat) (x : Sent) (xs : List Sent), i < 36 → j < 36 → (s.pairState i j).replay = x :: xs → 16 ≤ x.replays →
    let a := (s.firstLeg i j).1
    let b := (s.firstLeg i j).2
    Completes (.replayLimitLost i j) s (fun t => x.f.lane ∈ (t.pairState a b).dropped ∧ x.f.lane ∉ t.ownLanes a b
      ∧ (t.route i j).getLsbD (if 8 ≤ x.f.lane then 33 else 32) = true ∧ t.awaits (.fallbackReroute i j) = true
      ∧ x.f.lane ∉ t.lanes i j))
  ∧ (∀ (s : State), Completes .crcMonitorInterval s (fun t => ∀ i j, i < 36 → j < 36 →
      t.reg x1 (crcOff i j) = 0
      ∧ (64 < field (s.reg x1 (crcOff i j)) 31 0 → (t.route i j).getLsbD 32 = true ∧ t.awaits (.fallbackReroute i j) = true)
      ∧ (64 < field (s.reg x1 (crcOff i j)) 63 32 → (t.route i j).getLsbD 33 = true ∧ t.awaits (.fallbackReroute i j) = true)
      ∧ (field (s.reg x1 (crcOff i j)) 31 0 ≤ 64 → field (s.reg x1 (crcOff i j)) 63 32 ≤ 64 → t.route i j = s.route i j)))
  ∧ (∀ (s : State) (i j : Nat) (v : Dword), isPair i j = false → Completes (.routeWrite i j v) s (fun t => t = s))
  ∧ (∀ (s : State) (i j : Nat) (v : Dword), isPair i j = true → v.getLsbD 18 = false →
    let r := s.route i j
    (routeFields v ≠ routeFields r → s.routeAccepts i j v = true →
      Completes (.routeWrite i j v) s (fun t => routeFields (t.route i j) = routeFields v
        ∧ field (t.route i j) 31 24 = (field r 31 24 + 1) % 256 ∧ (t.route i j).getLsbD 18 = r.getLsbD 18
        ∧ routeHold (t.route i j) = true ∧ (t.route i j).getLsbD 32 = v.getLsbD 32 ∧ (t.route i j).getLsbD 33 = v.getLsbD 33
        ∧ (field v 33 32 ≠ field r 33 32 → t.awaits (.fallbackReroute i j) = true)))
    ∧ (routeFields v ≠ routeFields r → s.routeAccepts i j v = false →
      Completes (.routeWrite i j v) s (fun t => routeFields (t.route i j) = routeFields r ∧ field (t.route i j) 31 24 = field r 31 24
        ∧ (t.route i j).getLsbD 18 = true))
    ∧ (routeFields v = routeFields r →
      Completes (.routeWrite i j v) s (fun t => routeFields (t.route i j) = routeFields r ∧ field (t.route i j) 31 24 = field r 31 24
        ∧ routeHold (t.route i j) = routeHold v)))
  ∧ (∀ (s : State) (i j : Nat), i < 36 → j < 36 → i ≠ j →
    let r := s.route i j
    (routeHold r = false ∨ s.busy i j = true →
      Completes (.fallbackReroute i j) s (fun t => routeHold (t.route i j) = true ∧ routeFields (t.route i j) = routeFields r
        ∧ t.awaits (.fallbackReroute i j) = true))
    ∧ (routeHold r = true → s.busy i j = false → r.getLsbD 32 = false → r.getLsbD 33 = false →
      Completes (.fallbackReroute i j) s (fun t => routeMode (t.route i j) = 0 ∧ routeHold (t.route i j) = false))
    ∧ (routeHold r = true → s.busy i j = false → r.getLsbD 32 = true → r.getLsbD 33 = false →
      Completes (.fallbackReroute i j) s (fun t => routeMode (t.route i j) = 1 ∧ routeCsel (t.route i j) = 1
        ∧ routeHold (t.route i j) = false))
    ∧ (routeHold r = true → s.busy i j = false → r.getLsbD 32 = false → r.getLsbD 33 = true →
      Completes (.fallbackReroute i j) s (fun t => routeMode (t.route i j) = 1 ∧ routeCsel (t.route i j) = 0
        ∧ routeHold (t.route i j) = false))
    ∧ (routeHold r = true → s.busy i j = false → r.getLsbD 32 = true → r.getLsbD 33 = true → candidates (s.reg x1 (fbOff i j)) = [] →
      Completes (.fallbackReroute i j) s (fun t => (t.reg x1 0x74000).getLsbD 3 = true ∧ t.route i j = r)))
  ∧ (∀ (s : State) (v : Dword),
    let fits := ∀ j, j < 36 → s.stagedSum j ≤ field (s.reg x1 (0x3E000 + 8 * j)) 15 0
    ((v.getLsbD 0 = false ∨ (s.reg x1 0x74000).getLsbD 0 = true) → Completes (.admctlLoad v) s (fun t => t = s))
    ∧ (v.getLsbD 0 = true → (s.reg x1 0x74000).getLsbD 0 = false → fits →
      Completes (.admctlLoad v) s (fun t => t = { s with regs := t.regs, reqcap := t.reqcap, mmpNotes := t.mmpNotes }
        ∧ (∀ i j, i < 36 → j < 36 → t.share i j = field (s.reg x1 (capOff i j)) 15 0) ∧ (t.reg x1 0x3E400).getLsbD 1 = false))
    ∧ (v.getLsbD 0 = true → (s.reg x1 0x74000).getLsbD 0 = false → ¬ fits →
      Completes (.admctlLoad v) s (fun t => t = { s with regs := t.regs, mmpNotes := t.mmpNotes } ∧ (t.reg x1 0x3E400).getLsbD 1 = true
        ∧ MmpNote.tables ∈ t.mmpNotes)))

/-! ### Homes -/

/-- R102, R111 (Table 7), R113, R119 to R121, R125: a request that opens at its home reads DRAM, forwards to the owner, invalidates the sharers,
is granted, written back, recorded or performed at the home, as the directory says, or asks for a promotion first; one whose line is busy waits
in order, and one that no entry permits is denied. -/
def Obligations.HomeRequests : Prop :=
  ∀ (s : State) (e : BitVec 128),
    let h := s.rx.dst
    let m := s.rx.m
    let src := s.rx.src
    let ln := m.line.toNat
    let d := s.dirOf ln
    let tx : HomeTx := { src := src, m := m, st := .hd, kind := kindOf e, ireg := iregOf e }
    let snoops := fun (c : BitVec 8) (ps : List Nat) =>
      ps.foldl (fun (u : State) p => u.send h p { cls := c, tag := m.tag, line := m.line }) s
    let others := (sharerPorts d.sharers).filter (· != src)
    let fromDram := fun (i : Instr) => Completes i s (fun t => ∃ bad,
      t = { s with homeTx := Tab.ins s.homeTx ln { tx with needDram := true }, picks := t.picks
                   agenda := s.agenda ++ [(s.ptime + 145, .event (.dramReadComplete h ln bad))] })
    let forwards := fun (i : Instr) (c : BitVec 8) => Completes i s (fun t =>
      t = { snoops c [d.owner] with homeTx := Tab.ins s.homeTx ln { tx with st := .hf, needData := true } })
    let reads := fun (i : Instr) => (d.st = .di ∨ d.st = .ds → fromDram i) ∧ (d.st = .dx ∨ d.st = .do → forwards i 0x20)
    let echo := fun (c : BitVec 8) => ({ cls := c, tag := m.tag, line := m.line } : Msg)
    (s.Opens 0x01 e → reads .gets) ∧ (s.Opens 0x06 e → reads .ncrd) ∧ (s.Opens 0x0B e → reads .acqrd)
    ∧ (kindOf e = 1 → (s.Opens 0x02 e → reads .getx) ∧ (s.Opens 0x03 e → reads .upg))
    ∧ (kindOf e ≠ 1 → s.Opens 0x02 e →
        (d.st = .di ∨ d.st = .ds ∧ others = [] → fromDram .getx) ∧ (d.st = .dx → forwards .getx 0x21)
        ∧ (d.st = .ds → others ≠ [] → Completes .getx s (fun t => ∃ bad,
            t = { snoops 0x22 others with
              homeTx := Tab.ins s.homeTx ln { tx with st := .hda, acks := others.length, needDram := true }
              picks := t.picks
              agenda := (snoops 0x22 others).agenda ++ [(s.ptime + 145, .event (.dramReadComplete h ln bad))] })))
    ∧ (kindOf e ≠ 1 → s.Opens 0x03 e →
        (d.st = .ds → d.sharers &&& sharerBit src ≠ 0 → others = [] → Completes .upg s (fun t =>
          HomeAnswers s t h ln src (echo 0x41) { d with st := .dx, owner := src, sharers := 0 } s.byte))
        ∧ (d.st = .ds → d.sharers &&& sharerBit src ≠ 0 → others ≠ [] → Completes .upg s (fun t =>
          t = { snoops 0x22 others with homeTx := Tab.ins s.homeTx ln { tx with st := .ha, acks := others.length } }))
        ∧ (d.st = .dx → d.owner = src → others = [] → Completes .upg s (fun t =>
          HomeAnswers s t h ln src (echo 0x41) { d with st := .dx, owner := src, sharers := 0 } s.byte))
        ∧ (d.st = .dx → d.owner ≠ src → forwards .upg 0x21))
    ∧ (s.Opens 0x04 e →
        (d.st = .dx → d.owner = src → Completes .putx s (fun t =>
          HomeAnswers s t h ln src (echo 0x43) { d with st := .di, owner := 0, sharers := 0 } (s.withLine ln m.data fullMask)
          ∧ t.isPoisoned ln = m.poison))
        ∧ (d.st = .do → d.owner = src → d.sharers ≠ 0 → Completes .putx s (fun t =>
          HomeAnswers s t h ln src (echo 0x43) { d with st := .ds, owner := 0 } (s.withLine ln m.data fullMask)
          ∧ t.isPoisoned ln = m.poison))
        ∧ (d.st = .di ∨ d.st = .ds ∨ d.owner ≠ src → Completes .putx s (fun t =>
          HomeAnswers s t h ln src { echo 0x43 with aux := 1 } d s.byte)))
    ∧ (s.Opens 0x05 e →
        (d.st = .dx → d.owner = src → Completes .pute s (fun t =>
          HomeAnswers s t h ln src (echo 0x42) { d with st := .di, owner := 0, sharers := 0 } s.byte))
        ∧ (d.st = .di ∨ d.st = .ds ∨ d.st = .do ∨ d.owner ≠ src → Completes .pute s (fun t =>
          HomeAnswers s t h ln src { echo 0x42 with aux := 1 } d s.byte)))
    ∧ (s.Opens 0x09 e → Completes .zwr s (fun t => HomeAnswers s t h ln src (echo 0x42) d s.byte))
    ∧ (s.Opens 0x0C e → m.scope ≠ 0 → Completes .relrec s (fun t =>
        HomeAnswers s t h ln src (echo 0x42) { d with lrscope := m.scope, lrpair := m.pair, lrseq := m.mask.extractLsb' 0 32 } s.byte))
    ∧ (∀ i c, c = 0x07 ∧ i = Instr.ncwr ∨ c = 0x08 ∧ i = Instr.pwr → s.Opens c e →
        (d.st = .di ∨ d.st = .ds → sharerPorts d.sharers = [] → kindOf e ≠ 1 ∨ m.mask = 0 → Completes i s (fun t =>
          HomeAnswers s t h ln src (echo 0x42) { d with st := .di, owner := 0, sharers := 0 } (s.withLine ln m.data m.mask)
          ∧ t.isPoisoned ln = (s.isPoisoned ln && m.mask != fullMask)))
        ∧ (d.st = .di ∨ d.st = .ds → sharerPorts d.sharers = [] → kindOf e = 1 → m.mask ≠ 0 → Completes i s (fun t =>
          Tab.find t.homeTx ln = some { tx with st := .hv, reply := some (src, echo 0x42), bump := s.newTag h }
          ∧ (∀ pa, t.byte pa = s.withLine ln m.data m.mask pa)
          ∧ (t.pairState h x1).egress = (s.pairState h x1).egress
              ++ [{ cls := 0x60, tag := BitVec.ofNat 16 (s.newTag h), line := m.line, mask := (iregOf e).zeroExtend 128 }]))
        ∧ (d.st = .dx → sharerPorts d.sharers = [] → Completes i s (fun t =>
          t = { snoops 0x23 [d.owner] with homeTx := Tab.ins s.homeTx ln { tx with st := .hr, needData := true } }))
        ∧ (d.st = .ds → sharerPorts d.sharers ≠ [] → Completes i s (fun t =>
          t = { snoops 0x22 (sharerPorts d.sharers) with
            homeTx := Tab.ins s.homeTx ln { tx with st := .hr, acks := (sharerPorts d.sharers).length } })))
    ∧ (s.Opens 0x0A e → amoLegal (amoArgs m.data) = true → d.st = .di → sharerPorts d.sharers = [] → s.isPoisoned ln = false →
        kindOf e ≠ 1 → Completes .amo s (fun t =>
          let a := amoArgs m.data
          let n := 8 * amoSize a.type
          let old := (s.memLine ln).toNat / 2 ^ (8 * a.off) % 2 ^ n
          let new := amoNew n a.op a.type old (a.opa.toNat % 2 ^ n) (a.opb.toNat % 2 ^ n)
          HomeAnswers s t h ln src { echo 0x44 with ndata := 1, aux := auxOfFlags new.2, data := BitVec.ofNat 1024 old }
            { d with st := .di, owner := 0, sharers := 0 }
            (fun pa => if 128 * ln + a.off ≤ pa ∧ pa < 128 * ln + a.off + amoSize a.type
              then BitVec.ofNat 8 (new.1 / 2 ^ (8 * (pa - (128 * ln + a.off)))) else s.byte pa)))
    ∧ (s.Opens 0x0A e → amoLegal (amoArgs m.data) = true → d.st = .di → sharerPorts d.sharers = [] → s.isPoisoned ln = true →
        Completes .amo s (fun t => HomeAnswers s t h ln src { echo 0x44 with ndata := 1, poison := true }
          { d with st := .di, owner := 0, sharers := 0 } s.byte))
    ∧ (∀ i c k, c = 0x01 ∧ i = Instr.gets ∨ c = 0x02 ∧ i = Instr.getx ∨ c = 0x03 ∧ i = Instr.upg ∨ c = 0x06 ∧ i = Instr.ncrd ∨ c = 0x07 ∧ i = Instr.ncwr
          ∨ c = 0x08 ∧ i = Instr.pwr ∨ c = 0x09 ∧ i = Instr.zwr ∨ c = 0x0A ∧ i = Instr.amo ∨ c = 0x0B ∧ i = Instr.acqrd ∨ c = 0x0C ∧ i = Instr.relrec →
        askOf (BitVec.toNat c) = some k → m.cls = c → 16 ≤ h → h < 32 →
        (s.permits h m.master.toNat m.tenant (128 * ln) k = none → Completes i s (fun t =>
          t = { s with regs := t.regs, fab := t.fab, agenda := t.agenda } ∧ (src ≠ h →
            (t.pairState h src).egress = (s.pairState h src).egress ++ [echo 0x45])
          ∧ ((s.reg h 0x50000).getLsbD 63 = false → t.reg h 0x50000
              = BitVec.ofNat 64 (2 ^ 63 + (s.askedAs k s.rx).code * 2 ^ 60 + m.master.toNat * 2 ^ 48 + 128 * ln))))
        ∧ (s.permits h m.master.toNat m.tenant (128 * ln) k = some e → s.lineBusy ln = false → (takesWay c = true → s.HasRoom ln) → src ≠ h →
            c = 0x0B ∨ c = 0x01 ∨ c = 0x0C → s.mustPromote ln m = true ∨ s.mustDisplace ln m = true → Completes i s (fun t =>
          t = { s.send h (chipOf d.lrpair.toNat)
              { cls := 0x24, line := m.line, pair := d.lrpair, mask := d.lrseq.zeroExtend 128, tag := m.tag } with
            homeTx := Tab.ins s.homeTx ln { tx with st := .hp, promoting := true } }))
        ∧ (s.permits h m.master.toNat m.tenant (128 * ln) k = some e → s.lineBusy ln = true →
            c ≠ 0x0A ∨ amoLegal (amoArgs m.data) = true → Completes i s (fun t =>
          t = { s with homeQ := t.homeQ } ∧ Tab.get [] t.homeQ ln = Tab.get [] s.homeQ ln ++ [s.rx]
          ∧ ∀ q, q ≠ ln → Tab.find t.homeQ q = Tab.find s.homeQ q)))

/-- R111 (Table 8), R112, R113, R121, R122 and R127: what a transaction waits for arrives at its home: line data from DRAM, an owner's answer, the
acknowledgement of an invalidation, a promotion's words, X1's word that a version bump is done; the promotion write-back; and the next
request of a line whose transaction has ended. -/
def Obligations.HomeCompletions : Prop :=
  ∀ (s : State) (h ln : Nat) (x : HomeTx), Tab.find s.homeTx ln = some x → x.src ≠ h → x.acks = 0 → x.needData = false → x.needDram = false →
    let d := s.dirOf ln
    let echo := fun (c : BitVec 8) => ({ cls := c, tag := x.m.tag, line := x.m.line } : Msg)
    let data := fun (l : Line) (p : Bool) (grant : BitVec 4) => { echo 0x40 with ndata := 4, aux := grant, data := l, poison := p }
    let arrives := fun (u : State) => u.rx.dst = h ∧ u.rx.m.line.toNat = ln ∧ u.rx.m.tag = x.m.tag
    let bare := fun (u t : State) => ({ u with regs := t.regs, picks := t.picks } : State)
    -- DRAM data, for a reader, an uncached reader and a writer
    (∀ (u : State), u = { s with homeTx := Tab.ins s.homeTx ln { x with st := .hd, needDram := true } } →
      (x.m.cls = 0x01 → x.src < 16 → x.kind ≠ 1 → d.st = .di → Completes (.dramReadComplete h ln false) u (fun t =>
        HomeAnswers (bare u t) t h ln x.src (data (s.memLine ln) (s.isPoisoned ln) 2) { d with st := .dx, owner := x.src, sharers := 0 } s.byte))
      ∧ (x.m.cls = 0x01 → x.src < 16 → x.kind ≠ 1 → d.st = .ds → Completes (.dramReadComplete h ln false) u (fun t =>
        HomeAnswers (bare u t) t h ln x.src (data (s.memLine ln) (s.isPoisoned ln) 1) { d with sharers := d.sharers ||| sharerBit x.src } s.byte))
      ∧ (x.m.cls = 0x01 → x.src = x0 → x.kind ≠ 1 → d.st = .di → Completes (.dramReadComplete h ln false) u (fun t =>
        HomeAnswers (bare u t) t h ln x.src (data (s.memLine ln) (s.isPoisoned ln) 1) { d with st := .ds, sharers := d.sharers ||| sharerBit x0 } s.byte))
      ∧ (x.m.cls = 0x01 ∨ x.m.cls = 0x02 ∨ x.m.cls = 0x03 → x.kind = 1 → d.st = .di → Completes (.dramReadComplete h ln false) u (fun t =>
        HomeAnswers (bare u t) t h ln x.src (data (s.memLine ln) (s.isPoisoned ln) 9) { d with st := .ds, sharers := d.sharers ||| sharerBit x.src } s.byte))
      ∧ (x.m.cls = 0x06 ∨ x.m.cls = 0x0B → Completes (.dramReadComplete h ln false) u (fun t =>
        HomeAnswers (bare u t) t h ln x.src (data (s.memLine ln) (s.isPoisoned ln) 0) d s.byte))
      ∧ (x.m.cls = 0x02 ∨ x.m.cls = 0x03 → x.kind ≠ 1 → Completes (.dramReadComplete h ln false) u (fun t =>
        HomeAnswers (bare u t) t h ln x.src (data (s.memLine ln) (s.isPoisoned ln) 3) { d with st := .dx, owner := x.src, sharers := 0 } s.byte))
      ∧ (∀ bad, Completes (.dramReadComplete h ln bad) u (fun t => (bad = true → t.isPoisoned ln = true)
          ∧ (∀ p o, regKey p o ≠ regKey h 0x50020 → t.reg p o = s.reg p o)
          ∧ field (t.reg h 0x50020) 63 32 = min (field (s.reg h 0x50020) 63 32 + if bad = true then 1 else 0) 0xFFFFFFFF
          ∧ field (s.reg h 0x50020) 31 0 ≤ field (t.reg h 0x50020) 31 0
          ∧ field (t.reg h 0x50020) 31 0 ≤ field (s.reg h 0x50020) 31 0 + 1)))
    -- invalidations acknowledged
    ∧ (∀ (u : State) (st : HState) (n : Nat), 0 < n → st ≠ .hp → arrives u →
        u = { s with rx := u.rx, homeTx := Tab.ins s.homeTx ln { x with st := st, acks := n } } →
        (1 < n → Completes .iack u (fun t => t = { u with homeTx := Tab.ins u.homeTx ln { x with st := st, acks := n - 1 } }))
        ∧ (n = 1 → st = .ha → Completes .iack u (fun t =>
          HomeAnswers u t h ln x.src (echo 0x41) { d with st := .dx, owner := x.src, sharers := 0 } s.byte))
        ∧ (n = 1 → st = .hr → x.evict = false → x.m.cls = 0x07 ∨ x.m.cls = 0x08 → x.kind ≠ 1 → Completes .iack u (fun t =>
          HomeAnswers u t h ln x.src (echo 0x42) { d with st := .di, owner := 0, sharers := 0 } (s.withLine ln x.m.data x.m.mask))))
    -- the owner's answer to FWDS, FWDX and RECALL
    ∧ (∀ (u : State) (st : HState), arrives u → u = { s with rx := u.rx, homeTx := Tab.ins s.homeTx ln { x with st := st, needData := true } } →
        let f := u.rx.m
        let kept := f.aux.extractLsb' 0 2
        let sh := d.sharers ||| sharerBit x.src
        (st = .hf → x.m.cls = 0x01 → x.kind ≠ 1 → f.ndata ≠ 0 →
          (kept = 2 → Completes .fdata u (fun t => HomeAnswers u t h ln x.src (data f.data f.poison 1) { d with st := .do, sharers := sh } s.byte))
          ∧ (kept = 1 → Completes .fdata u (fun t => HomeAnswers u t h ln x.src (data f.data f.poison 1)
              { d with st := .ds, owner := 0, sharers := d.sharers ||| sharerBit d.owner ||| sharerBit x.src } s.byte))
          ∧ (kept = 0 → f.aux.getLsbD 2 = true → Completes .fdata u (fun t => HomeAnswers u t h ln x.src (data f.data f.poison 1)
              { d with st := .ds, owner := 0, sharers := sh } (s.withLine ln f.data fullMask)))
          ∧ (kept = 0 → f.aux.getLsbD 2 = false → Completes .fdata u (fun t => HomeAnswers u t h ln x.src (data f.data f.poison 1)
              { d with st := .ds, owner := 0, sharers := sh } s.byte)))
        ∧ (st = .hf → x.m.cls = 0x02 ∨ x.m.cls = 0x03 → x.kind ≠ 1 → f.ndata ≠ 0 → Completes .fdata u (fun t =>
            HomeAnswers u t h ln x.src (data f.data f.poison 3) { d with st := .dx, owner := x.src, sharers := 0 } s.byte))
        ∧ (st = .hf → f.ndata = 0 → Completes .fdata u (fun t => (∃ bad, t.awaits (.dramReadComplete h ln bad) = true)
            ∧ t.fab = s.fab ∧ t.wr = s.wr ∧ ∃ y, Tab.find t.homeTx ln = some y ∧ y.needDram = true ∧ y.needData = false ∧ y.m = x.m)))
    -- a promotion's words, and the end of a bump
    ∧ (∀ (u : State), arrives u → u = { s with rx := u.rx, homeTx := Tab.ins s.homeTx ln { x with st := .hp, promoting := true } } →
        d.lrscope = 1 → x.evict = false → x.m.cls = 0x0B → d.st = .di → d.sharers = 0 → x.kind ≠ 1 → (∀ r ∈ s.pwbs, r.m.line.toNat ≠ ln) →
        Completes .promack u (fun t => (t.dirOf ln).lrscope = 0 ∧ (t.dirOf ln).st = .di ∧ t.fab = s.fab
          ∧ (∀ pa, t.byte pa = s.withLine ln u.rx.m.data u.rx.m.mask pa) ∧ (∃ bad, t.awaits (.dramReadComplete h ln bad) = true)
          ∧ ∃ y, Tab.find t.homeTx ln = some y ∧ y.m = x.m ∧ y.src = x.src ∧ y.st = .hd ∧ y.needDram = true))
    ∧ (∀ (u : State) (p : Nat) (a : Msg), u.rx.dst = h → u.rx.m.line.toNat = ln →
        let k := h * 2 ^ 16 + u.rx.m.tag.toNat
        (p ≠ h → a.cls = 0x42 → Tab.find s.pwbWait k = none →
          u = { s with rx := u.rx, homeTx := Tab.ins s.homeTx ln { x with st := .hv, reply := some (p, a), bump := u.rx.m.tag.toNat } } →
          Completes .vdone u (fun t => HomeAnswers { u with txs := t.txs } t h ln p a d s.byte ∧ t.txs = Tab.del s.txs k))
        ∧ (∀ r, Tab.find s.pwbWait k = some r → r.src ≠ h → u = { s with rx := u.rx } →
          Completes .vdone u (fun t => t = { u with txs := Tab.del s.txs k, pwbWait := Tab.del s.pwbWait k, fab := t.fab, agenda := t.agenda }
            ∧ (t.pairState h r.src).egress = (s.pairState h r.src).egress ++ [{ cls := 0x42, tag := r.m.tag, line := r.m.line }])))
    -- with the line's transaction over: a promotion write-back, and the next request
    ∧ (∀ (u : State) (e : BitVec 128), u = { s with rx := u.rx, homeTx := Tab.del s.homeTx ln } → u.rx.dst = h → u.rx.m.line.toNat = ln → 16 ≤ h → h < 32 →
        u.rx.src ≠ h → u.rx.m.cls = 0x0D → u.permits h u.rx.m.master.toNat u.rx.m.tenant (128 * ln) .write = some e → kindOf e ≠ 1 →
        d.st = .di → sharerPorts d.sharers = [] →
        Completes .pwb u (fun t => HomeAnswers u t h ln u.rx.src { cls := 0x42, tag := u.rx.m.tag, line := u.rx.m.line }
          { d with st := .di, owner := 0, sharers := 0 } (s.withLine ln u.rx.m.data u.rx.m.mask)))
    ∧ (∀ (u : State) (r : Rx) (rest : List Rx) (e : BitVec 128), u = { s with rx := u.rx, homeTx := Tab.del s.homeTx ln } → u.rx = r →
        (∀ w ∈ s.pwbs, w.m.line.toNat ≠ ln) → Tab.get [] s.homeQ ln = r :: rest → r.dst = h → r.m.line.toNat = ln →
        State.Opens { u with homeQ := Tab.del s.homeQ ln } 0x09 e →
        Completes (.homeOpenQueued h ln) u (fun t => Tab.get [] t.homeQ ln = rest
          ∧ HomeAnswers u { t with homeQ := u.homeQ } h ln r.src { cls := 0x42, tag := r.m.tag, line := r.m.line } d s.byte))

/-! ### Responses, snoops and version bumps -/

/-- R72, R110 (Table 6), R112, R121, R124, R127, R128, R247 and R260: at a compute chiplet each response ends the transaction of its TAG: a fill takes the granted
state, an upgrade the line, a write-back its buffer, an access its register or cause. Each snoop of a line that is not pinned is answered by its
state. A bump counts the version up at X1, reaches every chiplet and answers the home once all have acknowledged. -/
def Obligations.AnswersAndSnoops : Prop :=
  ∀ (s : State),
    let r := s.rx
    let m := r.m
    let c := r.dst
    (c < 16 → ∀ (x : Tx), Tab.find s.txs (c * 2 ^ 16 + m.tag.toNat) = some x →
      let l := s.l2Line c x.line
      let q := s.req x.req
      let rest_ := Tab.del s.txs (c * 2 ^ 16 + m.tag.toNat)
      -- the L2 line of the transaction becomes `l'`; nothing else changes
      let becomes := fun (i : Instr) (l' : L2Line) => Completes i s (fun t =>
        t = { s with txs := rest_, l2 := t.l2, agenda := t.agenda } ∧ t.l2Line c x.line = l'
        ∧ ∀ k, k ≠ c * 2 ^ 41 + x.line → Tab.find t.l2 k = Tab.find s.l2 k)
      ((∀ e ∈ s.l2, e.2.waiters = []) →
        (x.cls = 0x01 ∨ x.cls = 0x02 ∨ x.cls = 0x03 →
          becomes .data { l with st := if m.aux.extractLsb' 0 2 = 2 then .e else if m.aux.extractLsb' 0 2 = 3 then .m else .s
                                 wt := m.aux.getLsbD 3, data := m.data, poison := m.poison, owned := false })
        ∧ becomes .gntx { l with st := .m, owned := false }
        ∧ becomes .wback { deferred := l.deferred }
        ∧ (x.cls = 0x05 → becomes .cmpl { deferred := l.deferred }))
      ∧ (x.cls = 0x07 ∨ x.cls = 0x09 ∨ x.cls = 0x0C → q.kind = .write → l.waiters = [] → (∀ p ∈ s.promotions, x.req ∉ p.waits) →
          Completes .cmpl s (fun t =>
            t = { s with txs := rest_, reqs := Tab.del s.reqs x.req, gids := t.gids, l2 := t.l2, agenda := t.agenda }
            ∧ (∀ j n, t.l2Line j n = s.l2Line j n)
            ∧ ∀ k g, Tab.find s.gids k = some g → ∃ g', Tab.find t.gids k = some g'
              ∧ g' = { g with gang := g'.gang, others := g'.others, held := g'.held }
              ∧ (k = q.gid → g'.gang = { g.gang with pend := g.gang.pend.filter (· != x.req) }))
          ∧ ∀ g, Tab.find s.gids q.gid = some g → Completes .deny s (fun t => Tab.find t.reqs x.req = none
              ∧ t.mem = s.mem ∧ t.wr = s.wr ∧ (t.gid q.gid).reports = g.reports ++ [{ cause := 0x18, lane := q.lane }]))
      ∧ (∀ p : Promotion, x.cls = 0x0D → q.kind = .write → s.promotions = [p] → p.waits = [x.req] → p.chip = c → p.home ≠ c → p.m.cls = 0x24 → p.mask ≠ 0 →
          Completes .cmpl s (fun t => t.promotions = []
            ∧ (t.pairState c p.home).egress
              = (s.pairState c p.home).egress ++ [{ p.m with cls := 0x48, mask := p.mask, data := p.data, ndata := 4 }]))
      ∧ (∀ (o : Op) (ll : LaneLoad) (g : Gid), Tab.find s.ops q.op = some o → o.gid = q.gid → Tab.find s.gids o.gid = some g →
          o.loads = [ll] → ll.req = x.req → ll.arrived = false → ll.lane < g.lanes.length → g.lanes.length ≤ 64 → o.dst.toNat < 96 →
          o.outstanding = maskOf [ll.lane] → (Tab.find s.reqs x.req).isSome = true →
          (x.cls = 0x06 ∨ x.cls = 0x0B → q.kind = .bypass ∨ q.kind = .acquire → o.kind = .load → o.cons = false → q.mask = 0 →
            m.poison = false →
            Completes .data s (fun t => Tab.find t.ops q.op = none ∧ Tab.find t.reqs x.req = none ∧ t.wr = s.wr
              ∧ ∀ i v, (loadWords m.data (ll.ea.toNat % 128) o.sz)[i]? = some v →
                Tab.find ((t.gid o.gid).lane ll.lane).x ((g.lane ll.lane).wbase + o.dst.toNat + i) = some v))
          ∧ (x.cls = 0x06 ∨ x.cls = 0x0B → q.kind = .bypass ∨ q.kind = .acquire → o.kind = .load → m.poison = true →
            Completes .data s (fun t => Tab.find t.ops q.op = none
              ∧ (t.gid o.gid).reports = g.reports ++ [{ cause := 0x14, lane := ll.lane }] ∧ (t.gid o.gid).lanes = g.lanes))
          ∧ (x.cls = 0x0A → o.acq = 0 → g.prot = false → q.lane = ll.lane → m.poison = false → o.flag ≠ 15 →
            Completes .amor s (fun t => Tab.find t.ops q.op = none ∧ Tab.find t.reqs x.req = none ∧ t.wr = s.wr
              ∧ (t.gid o.gid).sticky = g.sticky ||| BitVec.ofNat 64 (flagsOfAux m.aux)
              ∧ Tab.get 0 (t.gid o.gid).flags o.flag = Tab.get 0 g.flags o.flag - 1
              ∧ ∀ i v, (splitN o.nregs m.data.toNat)[i]? = some v →
                Tab.find ((t.gid o.gid).lane ll.lane).x ((g.lane ll.lane).wbase + o.dst.toNat + i) = some v))))
    ∧ (c < 16 → r.src ≠ c →
      let l := s.l2Line c m.line.toNat
      let gone : L2Line := { deferred := l.deferred }
      let sends := fun (i : Instr) (l' : L2Line) (a : Msg) => Completes i s (fun t =>
        t = { s with l2 := t.l2, fab := t.fab, agenda := t.agenda } ∧ t.l2Line c m.line.toNat = l'
        ∧ (∀ k, k ≠ c * 2 ^ 41 + m.line.toNat → Tab.find t.l2 k = Tab.find s.l2 k)
        ∧ (t.pairState c r.src).egress = (s.pairState c r.src).egress ++ [a])
      let none_ : Msg := { cls := 0x47, tag := m.tag, line := m.line }
      let with_ := fun (aux : BitVec 4) => { none_ with aux := aux, ndata := 4, data := l.data, poison := l.poison }
      let ack := { none_ with cls := 0x46 }
      (l.pin = none → l.waiters = [] →
        (l.st = .e → sends .fwds { l with st := .s, wt := false } (with_ 1))
        ∧ (l.st = .m → sends .fwds { l with st := .o } (with_ 6))
        ∧ (l.st = .o → sends .fwds l (with_ 6))
        ∧ (l.st = .miB → sends .fwds l (with_ 4) ∧ sends .fwdx l (with_ 4) ∧ sends .recallLine l (with_ 4))
        ∧ (l.st = .eiB → sends .fwds l (with_ 0) ∧ sends .fwdx l (with_ 0) ∧ sends .recallLine l (with_ 0))
        ∧ (l.st = .i ∨ l.st = .s ∨ l.st = .isD ∨ l.st = .imD → sends .fwds l none_ ∧ sends .fwdx l none_ ∧ sends .recallLine l none_)
        ∧ (l.st = .m ∨ l.st = .o → sends .fwdx gone (with_ 4) ∧ sends .recallLine gone (with_ 4))
        ∧ (l.st = .e → sends .fwdx gone (with_ 0) ∧ sends .recallLine gone (with_ 0) ∧ sends .inv gone (with_ 0))
        ∧ (l.st = .m → sends .inv gone (with_ 4))
        ∧ (l.st = .s ∨ l.st = .o → sends .inv gone ack)
        ∧ (l.st = .smG → sends .inv { l with st := .imD, owned := false } ack)
        ∧ (l.st = .i ∨ l.st = .isD ∨ l.st = .imD ∨ l.st = .miB ∨ l.st = .eiB → sends .inv l ack))
      ∧ (l.pin ≠ none → ∀ i, i = Instr.fwds ∨ i = Instr.inv ∨ i = Instr.promote → Completes i s (fun t =>
          t = { s with l2 := t.l2, agenda := t.agenda } ∧ t.l2Line c m.line.toNat = { l with deferred := l.deferred ++ [(l.waiters.length, r.src, m)] }))
      ∧ (l.pin = none → c = chipOf m.pair.toNat → (∀ e ∈ s.teams, e.2.pair = m.pair.toNat → e.2.rst = false) → s.reqs = [] →
          let done := fun (mask : LineMask) (d : Line) => { m with cls := 0x48, mask := mask, data := d, ndata := 0 }
          ((s.pair m.pair.toNat).l1 = [] → Completes .promote s (fun t => t = { s with fab := t.fab, agenda := t.agenda }
            ∧ (t.pairState c r.src).egress = (s.pairState c r.src).egress ++ [done 0 0]))
          ∧ ∀ (a : L1Line), (s.pair m.pair.toNat).l1 = [a] → a.dirty ≠ 0 → a.by1 = 0 →
              let k := s.l2Line c a.pline
              k.st = .m → k.pin = none → k.waiters = [] → Completes .promote s (fun t =>
                (t.pair m.pair.toNat).l1 = [{ a with dirty := 0 }]
                ∧ (t.l2Line c a.pline).data = mergeLine k.data a.words (byteMask a.dirty) ∧ (t.l2Line c a.pline).st = .m
                ∧ (t.pairState c r.src).egress = (s.pairState c r.src).egress ++ [done 0 0])))
    ∧ (c = x0 → r.src ≠ c → Completes .inv s (fun t => t = { s with fab := t.fab, agenda := t.agenda }
        ∧ (t.pairState c r.src).egress = (s.pairState c r.src).egress ++ [{ cls := 0x46, tag := m.tag, line := m.line }]
        ∧ t.awaits .tailPollTimer = true))
    ∧ (let g := m.mask.toNat % 4096
      let v := m.mask.toNat / 2 ^ 32 % 2 ^ 32
      let new := Tab.get 0 s.vers g + 1
      (c = x1 → s.bumps = [] → Completes .vbump s (fun t =>
        t = { s with vers := t.vers, bumps := [(g, r.src, m.line.toNat + 2 ^ 41 * m.tag.toNat, 16)], fab := t.fab, agenda := t.agenda }
        ∧ Tab.get 0 t.vers g = new ∧ (∀ k, k ≠ g → Tab.get 0 t.vers k = Tab.get 0 s.vers k)
        ∧ ∀ j, j < 16 → (t.pairState x1 j).egress = (s.pairState x1 j).egress
          ++ [{ cls := 0x61, line := m.line, tag := m.tag, aux := if new = 0 then 1 else 0
                mask := BitVec.ofNat 128 (new.toNat * 2 ^ 32 + g) }]))
      ∧ (c < 16 → r.src ≠ c → Completes .vnew s (fun t =>
        t = { s with regs := t.regs, pairs := t.pairs, fab := t.fab, agenda := t.agenda }
        ∧ field (t.reg c (0xE0000 + 8 * (g / 2))) (32 * (g % 2) + 31) (32 * (g % 2)) = v
        ∧ (∀ pr, chipOf pr ≠ c → t.pair pr = s.pair pr)
        ∧ (∀ pr, chipOf pr = c → (t.pair pr).plates = (s.pair pr).plates.map (fun p =>
            if p.met = true ∧ p.reg = g ∧ (p.ver ≠ v ∨ m.aux.getLsbD 0 = true) then
              { p.setFlags p.valid true p.met with dirty := true } else p))
        ∧ (t.pairState c r.src).egress = (s.pairState c r.src).egress ++ [{ m with cls := 0x62, aux := 0 }]))
      ∧ ∀ (home tg : Nat) (n : Nat), s.bumps = [(g, home, tg, n)] → 0 < n →
          (1 < n → Completes .vack s (fun t => t = { s with bumps := [(g, home, tg, n - 1)] }))
          ∧ (n = 1 → home ≠ x1 → Completes .vack s (fun t => t = { s with bumps := [], fab := t.fab, agenda := t.agenda }
              ∧ (t.pairState x1 home).egress = (s.pairState x1 home).egress
                ++ [{ cls := 0x63, line := BitVec.ofNat 41 tg, tag := BitVec.ofNat 16 (tg / 2 ^ 41) }])))

/-! ### The caches of a die, the galley and the issue slot -/

/-- R85 to R87, R94 to R100, R110, R247, R386: a line leaves L1 or L2 with its words; a fill keeps the words a pair has written; a galley entry's threads
are filed with their data, or with a cause 50 µs after issue; a full tentative buffer commits. -/
def Obligations.CacheEvents : Prop :=
  ∀ (s : State), (∀ e ∈ s.teams, e.2.rst = false) →
    (∀ (pair asid slot vline : Nat) (l : L1Line), (s.pair pair).l1 = [l] → s.reqs = [] →
      l.asid = asid → l.kslot = slot → l.vline = vline →
      (l.dirty = 0 → Completes (.l1Evict pair asid slot vline) s (fun t =>
        t = { s with pairs := t.pairs } ∧ t.pair pair = { s.pair pair with l1 := [] } ∧ ∀ p, p ≠ pair → t.pair p = s.pair p))
      ∧ (let k := s.l2Line (chipOf pair) l.pline
        l.dirty ≠ 0 → l.by1 = 0 → k.st = .m ∨ k.st = .e → k.pin = none → k.waiters = [] →
        Completes (.l1Evict pair asid slot vline) s (fun t => t.pair pair = { s.pair pair with l1 := [] } ∧ t.mem = s.mem ∧ t.wr = s.wr
          ∧ (t.l2Line (chipOf pair) l.pline).st = .m
          ∧ (t.l2Line (chipOf pair) l.pline).data = mergeLine k.data l.words (byteMask l.dirty)
          ∧ ∀ q, q ≠ chipOf pair * 2 ^ 41 + l.pline → Tab.find t.l2 q = Tab.find s.l2 q)))
    ∧ (∀ (id : Nat) (r : Req) (l : L1Line) (o : Op) (d : LineData), Tab.find s.reqs id = some r → r.stale = false →
        (s.pair (pairOf r.core)).line r.asid r.kslot r.vline = some l → l.pline = r.pline → d.poison = false → d.denied = false →
        Tab.find s.ops r.op = some o → r.op ≠ 0 → o.kind = .galley → r.fetch = false →
        Completes (.l1FillReturn id d) s (fun t => t = { s with pairs := t.pairs, agenda := t.agenda }
          ∧ ∃ a e, (t.pair (pairOf r.core)).line r.asid r.kslot r.vline = some a ∧ a.valid = BitVec.allOnes 32 ∧ a.dirty = l.dirty
              ∧ (∀ k, k < 128 → lineByte a.words k = if l.valid.getLsbD (k / 4) = true then lineByte l.words k else lineByte d.bytes k)
              ∧ t.agenda = s.agenda ++ [(s.ptime, .event (.galleyReply id e))] ∧ e.bytes = a.words ∧ e.poison = false ∧ e.denied = false))
    ∧ (∀ (c ln : Nat) (l : L2Line), c < 16 → s.l2Line c ln = l → l.pin = none → l.waiters = [] →
        let h := s.homeOf (128 * ln)
        let puts := fun (cls : BitVec 8) (st : L2State) (m : Msg) => Completes (.l2Evict c ln) s (fun t =>
          t.l2Line c ln = { l with st := st } ∧ t.mem = s.mem ∧ t.wr = s.wr
          ∧ Tab.find t.txs (c * 2 ^ 16 + s.newTag c) = some { cls := cls, line := ln, target := h, issued := s.ptime }
          ∧ (t.pairState c h).egress = (s.pairState c h).egress
            ++ [{ m with cls := cls, tag := BitVec.ofNat 16 (s.newTag c), line := BitVec.ofNat 41 ln, master := BitVec.ofNat 12 (2176 + c) }])
        (l.st = .s → Completes (.l2Evict c ln) s (fun t => t = { s with l2 := t.l2, agenda := t.agenda } ∧ t.l2Line c ln = {}))
        ∧ (l.st = .e → puts 0x05 .eiB { cls := 0x05 })
        ∧ (l.st = .m ∨ l.st = .o → puts 0x04 .miB { cls := 0x04, ndata := 4, data := l.data, poison := l.poison }))
    ∧ (∀ (id : Nat) (r : Req) (o : Op) (ll : LaneLoad) (g : Gid) (d : LineData), Tab.find s.reqs id = some r → Tab.find s.ops r.op = some o →
        Tab.find s.gids o.gid = some g → o.kind = .galley → o.loads = [ll] → ll.req = id → ll.arrived = false → ll.lane < g.lanes.length →
        g.lanes.length ≤ 64 → o.outstanding = maskOf [ll.lane] → o.arrived = 0 → o.acq = 0 → o.dst.toNat < 96 → r.mask = 0 →
        o.cons = false → d.denied = false → d.poison = false →
        Completes (.galleyReply id d) s (fun t => Tab.find t.ops r.op = none ∧ Tab.find t.reqs id = none ∧ t.wr = s.wr
          ∧ ((t.gid o.gid).lane ll.lane).st = .filed ∧ ((t.gid o.gid).lane ll.lane).pc = o.pc
          ∧ ((t.gid o.gid).lane ll.lane).filedAt = s.ptime
          ∧ t.awaits (.clauseStart g.core) = true
          ∧ (∀ i v, (loadWords d.bytes (ll.ea.toNat % 128) o.sz)[i]? = some v →
              Tab.find ((t.gid o.gid).lane ll.lane).x ((g.lane ll.lane).wbase + o.dst.toNat + i) = some v)
          ∧ ∀ k, k ≠ ll.lane → (t.gid o.gid).lane k = g.lane k))
    ∧ (∀ (id : Nat) (o : Op) (g : Gid), Tab.find s.ops id = some o → Tab.find s.gids o.gid = some g → o.issued + 50000 ≤ s.ptime →
        (Completes (.galleyTimeout id) s (fun t => Tab.find t.ops id = none ∧ t.mem = s.mem ∧ t.wr = s.wr
          ∧ ∀ l, l < g.lanes.length →
            (o.outstanding.getLsbD l = true → ((t.gid o.gid).lane l).report = some 0x13 ∧ ((t.gid o.gid).lane l).st = .filed
              ∧ ((t.gid o.gid).lane l).pc = o.pc ∧ ((t.gid o.gid).lane l).x = (g.lane l).x)
            ∧ (o.outstanding.getLsbD l = false → o.arrived.getLsbD l = true → (t.gid o.gid).lane l =
                { g.lane l with st := .filed, pc := o.pc, filedAt := s.ptime, await := none })
            ∧ (o.outstanding.getLsbD l = false → o.arrived.getLsbD l = false → (t.gid o.gid).lane l = g.lane l)))
        ∧ (o.flag ≠ 15 → Completes (.loadReplyTimeout id) s (fun t => Tab.find t.ops id = none ∧ t.mem = s.mem ∧ t.wr = s.wr
          ∧ (t.gid o.gid).lanes = g.lanes ∧ Tab.get 0 (t.gid o.gid).flags o.flag = Tab.get 0 g.flags o.flag - 1
          ∧ ∃ st, (t.gid o.gid).reports = g.reports ++ [st] ∧ st.cause = 0x13)))
    ∧ (∀ (id : Nat) (r : Req) (g : Gid), Tab.find s.ops id = none → Tab.find s.reqs id = some r → r.kind = .write → r.cls = 0x07 →
        s.txs = [] → s.promotions = [] → Tab.find s.gids r.gid = some g →
        Completes (.loadReplyTimeout id) s (fun t => Tab.find t.reqs id = none ∧ t.mem = s.mem ∧ t.wr = s.wr
          ∧ ∃ st, (t.gid r.gid).reports = g.reports ++ [st] ∧ st.cause = 0x13))
    ∧ (∀ (core : Nat), Completes (.ldGStallRetry core) s (fun t =>
        t = { s with agenda := s.agenda ++ (s.core core).galleyStalls.map (fun e => (s.ptime, Due.issue e.1 e.2.1)) }))
    ∧ (∀ (team : Nat) (u : State) (x : Team) (ln : Nat) (d : Line) (w : BitVec 32),
        u = { s with teams := Tab.ins s.teams team { x with rst := true, held := [(ln, d, w, 0)] } } → s.reqs = [] → w ≠ 0 →
        let k := s.l2Line (chipOf x.pair) ln
        k.st = .m → k.pin = none → k.waiters = [] →
        Completes (.tentativeBufferFull team) u (fun t => (t.team team).rst = false ∧ (t.team team).held = []
          ∧ (t.l2Line (chipOf x.pair) ln).data = mergeLine k.data d (byteMask w) ∧ t.mem = s.mem ∧ t.wr = s.wr))

/-! ### Leases, unmapping and the mailbox -/

/-- R50, R55, R58, R59, R60, R62, R68 and R74: an entry the MMP writes stands in its table; a walk whose lines have come fills the cluster's TLB with the
page within its record, or leaves the page-table error to the access; records are
granted together and renewed for a period; an unmap lowers what clusters cache, waits for the last lease, clears its leaves, purges every
cluster, takes its frames out of the tables, and ends the records it met. -/
def Obligations.LeasesAndUnmaps : Prop :=
  (∀ (s : State) (port master entry : Nat) (v : BitVec 128), port < 36 → master < 4096 → entry < 8 →
    Completes (.accessTableWrite port master entry v) s (fun t => t = { s with acc := t.acc } ∧ t.accEntry port master entry = v
      ∧ ∀ p m e, m < 4096 → e < 8 → (p, m, e) ≠ (port, master, entry) → t.accEntry p m e = s.accEntry p m e))
  ∧ (∀ (s : State) (cluster k id : Nat) (w : Walk) (va : BitVec 64) (right : BitVec 4) (i : Nat) (is : List Nat),
    let l := s.launch k
    (l.covering va.toNat 1 right).filter (fun j => decide (s.ptime < (l.recAt j).expiry)) = i :: is →
    s.tlbHit cluster k va.toNat right (l.covering va.toNat 1 right) = none →
    s.walks = [(id, w)] → w.cluster = cluster → w.launch = k → w.va / 65536 = va.toNat / 65536 → w.bad = false → w.req = 0 →
    (∀ p, s.walkBy w.read l.asid va.toNat = .page p → p.rights &&& (l.recAt i).rights = (l.recAt i).rights →
      (Tab.get [] s.tlbs cluster).length < 2048 →
      Completes (.tlbWalk cluster k va right) s (fun t => t = { s with tlbs := t.tlbs, walks := [] }
        ∧ ∃ e ∈ Tab.get [] t.tlbs cluster, e.launch = k ∧ e.recIx = i ∧ e.expiry = (l.recAt i).expiry ∧ e.rights = (l.recAt i).rights
            ∧ e.lo = max p.va (l.recAt i).vbase ∧ e.hi = min (p.va + p.size) ((l.recAt i).vbase + (l.recAt i).len) - 1
            ∧ e.pa = p.pa + (e.lo - p.va) ∧ e.wt = p.wt ∧ e.nc = p.nc ∧ e.ireg = p.ireg))
    ∧ (s.walkBy w.read l.asid va.toNat = .error
        ∨ (∃ p, s.walkBy w.read l.asid va.toNat = .page p ∧ p.rights &&& (l.recAt i).rights ≠ (l.recAt i).rights) →
      Completes (.tlbWalk cluster k va right) s (fun t => t = { s with walks := [(id, { w with bad := true })] }
        ∧ (s.tlbHits cluster k va.toNat right (l.covering va.toNat 1 right) = [] → va.toNat < 2 ^ 57 →
            t.translate cluster k va 1 right = .cause 0x1A))))
  ∧ (∀ (s u : State) (k : Nat) (l : Launch) (ps : List Page), Tab.find s.launches k = some l → l.phase = .leases →
    s.pagesFor l.asid l.recs = some ps → s.addAll (spread (s.mastersOf l.forme.order) (l.entriesFor ps)) = some u →
    let stop := s.ptime + (if l.lper = 0 then 2000000 else l.lper * 100000)
    Completes (.leaseGrant k) s (fun t => t.acc = (u.admitImage l).acc ∧ t.mem = s.mem
      ∧ (t.launch k).phase = .verify ∧ (t.launch k).recs = l.recs.map (fun r => { r with st := .granted, expiry := stop })
      ∧ t.awaits (.kernelVerify k) = true ∧ ∀ i, i < l.recs.length → (stop, Due.event (.leaseLapse k i)) ∈ t.agenda))
  ∧ (∀ (s : State) (k i id : Nat) (u : Unmap), s.unmaps = [(id, u)] → u.phase = 1 → u.asid = (s.launch k).asid →
    ((s.launch k).recAt i).meets u.va u.len = true → ((s.launch k).recAt i).expiry ≤ s.ptime →
    Completes (.leaseLapse k i) s (fun t => t = { s with agenda := t.agenda } ∧ t.awaits (.unmapLapseReached id) = true))
  ∧ (∀ (s : State) (k i : Nat) (l : Launch), Tab.find s.launches k = some l → i < l.recs.length → (l.recAt i).st = .renewing →
    let stop := s.ptime + (if l.lper = 0 then 2000000 else l.lper * 100000)
    (s.unmaps = [] → Completes (.leaseRenewalServe k i) s (fun t =>
      t = { s with launches := t.launches, agenda := t.agenda, wr := t.wr, l2 := t.l2, regs := t.regs }
      ∧ (stop, Due.event (.leaseLapse k i)) ∈ t.agenda
      ∧ (l.leaseTab = 0 → t = { s with launches := t.launches, agenda := s.agenda ++ [(stop, .event (.leaseLapse k i))] })
      ∧ (t.launch k).recAt i = { l.recAt i with st := .granted, expiry := stop }
      ∧ ∀ j, j ≠ i → (t.launch k).recAt j = l.recAt j))
    ∧ (∀ id u, s.unmaps = [(id, u)] → u.asid = l.asid → (l.recAt i).meets u.va u.len = true → u.phase = 1 → u.short = 0 →
      Completes (.leaseRenewalServe k i) s (fun t => (t.launch k).recAt i = { l.recAt i with st := .revoking, expiry := stop })))
  ∧ (∀ (s : State) (id c : Nat) (u : Unmap), Tab.find s.unmaps id = some u →
    (∀ e, Tab.get [] s.tlbs c = [e] → (s.launch e.launch).asid = u.asid → ((s.launch e.launch).recAt e.recIx).meets u.va u.len = true →
      Completes (.clusterShortenNotice c id) s (fun t =>
        Tab.get [] t.tlbs c = [{ e with expiry := min e.expiry ((s.launch e.launch).recAt e.recIx).expiry }]
        ∧ Tab.find t.unmaps id = some { u with waits := u.waits - 1 } ∧ t.awaits (.unmapLapseReached id) = true))
    ∧ (u.phase = 1 → u.waits = 0 → (∀ r ∈ s.revoked u, r.2.st ≠ .renewing ∧ r.2.expiry ≤ s.ptime) →
      Completes (.unmapLapseReached id) s (fun t => Tab.find t.unmaps id = some { u with phase := 2, waits := 128 }
        ∧ (∀ c, c < 128 → t.awaits (.clusterPurge c id) = true) ∧ t.launches = s.launches
        ∧ ((∀ x ∈ s.leavesIn u.asid u.va (u.va + u.len),
              x.1 % 8 = 0 ∧ (s.permits (s.targetOf (128 * (x.1 / 128))) 2194 0 (128 * (x.1 / 128)) .write).isSome = true) →
            ∀ x ∈ s.leavesIn u.asid u.va (u.va + u.len), ∀ i, i < 8 → t.byte (x.1 + i) = 0)))
    ∧ (s.reqs = [] → (∀ e ∈ s.teams, e.2.rst = false) → (∀ i, i < 4 → ∀ l ∈ (s.pair (4 * c + i)).l1, u.covers l.asid l.vline = false) →
      Completes (.clusterPurge c id) s (fun t => t = { s with tlbs := t.tlbs, unmaps := t.unmaps, agenda := t.agenda }
        ∧ Tab.get [] t.tlbs c = (Tab.get [] s.tlbs c).filter (fun e =>
            !(e.asid == u.asid && decide (e.lo < u.va + u.len) && decide (u.va ≤ e.hi)))
        ∧ Tab.find t.unmaps id = some { u with waits := u.waits - 1 } ∧ (u.waits = 1 → t.awaits (.unmapPurgeAcked id) = true)))
    ∧ (∀ v, u.phase = 2 → u.waits = 0 → s.cutFrames u.asid u.frames = some v → Completes (.unmapPurgeAcked id) s (fun t =>
        t.acc = v.acc ∧ Tab.find t.unmaps id = some { u with phase := 3 } ∧ t.awaits (.unmapTablesAcked id) = true ∧ t.mem = s.mem))
    ∧ (u.phase = 2 → u.waits = 0 → s.cutFrames u.asid u.frames = none → Completes (.unmapPurgeAcked id) s (fun t =>
        t = { s with agenda := s.agenda ++ [(s.ptime + 1000, .event (.unmapPurgeAcked id))] }))
    ∧ (u.phase = 3 → Completes (.unmapTablesAcked id) s (fun t =>
        t = { s with launches := t.launches, unmaps := Tab.del s.unmaps id, regs := t.regs, wr := t.wr, l2 := t.l2, agenda := t.agenda }
        ∧ t.reg x1 0x73008 = 2
        ∧ ∀ k l, Tab.find s.launches k = some l → l.asid = u.asid → ∀ i, i < l.recs.length →
            (t.launch k).recAt i = if (l.recAt i).meets u.va u.len = true ∧ (l.recAt i).st = .revoking then { l.recAt i with st := .ended }
              else l.recAt i)))

/-- R14, R46, R60, R79, R350, R412, R419 and R449: what each mailbox command sets, with DONE and its STATUS in MBSTAT, a command of another length refused; the host's
write to a register, which its target checks; and a split of a pair's scratchpad while no team is on it. -/
def Obligations.MailboxAndRegisters : Prop :=
  ∀ (s : State),
    let status := fun (t : State) (n : Nat) => t.reg x1 0x73008 = BitVec.ofNat 64 (n * 2 ^ 16 + 2)
    let asid := s.mb 0 2
    let may := fun pa k => (s.permits (s.targetOf pa) 2194 0 pa k).isSome = true
    (∀ i n, i = Instr.assignTenantToAsid ∧ n = 4 ∨ i = Instr.mapRange ∧ n = 32 ∨ i = Instr.unmapRange ∧ n = 24
        ∨ i = Instr.configureLaunchQueue ∧ n = 24 ∨ i = Instr.setHostPortTenant ∧ n = 4 →
      s.mbArea 4 4 ≠ n → Completes i s (fun t => t = { s with regs := t.regs } ∧ status t 2))
    ∧ (s.mbArea 4 4 = 4 → asid < 2 ^ 14 → s.mb 2 2 < 2 ^ 12 → field (s.peek64 (s.asidEntry asid + 8)) 47 15 ≠ 0 →
      may (128 * (s.asidEntry asid / 128)) .write →
      Completes .assignTenantToAsid s (fun t => status t 0
        ∧ (∀ i, i < 8 → t.byte (s.asidEntry asid + i) = BitVec.ofNat 8 ((s.mb 2 2 * 2 ^ 12 + 1) / 2 ^ (8 * i)))
        ∧ ∀ pa, ¬ (s.asidEntry asid ≤ pa ∧ pa < s.asidEntry asid + 8) → t.byte pa = s.byte pa))
    ∧ (s.mbArea 4 4 = 4 → s.mb 0 2 < 2 ^ 12 → s.mb 2 2 = 0 → Completes .setHostPortTenant s (fun t =>
        t = { s with regs := t.regs, acc := t.acc } ∧ status t 0 ∧ t.reg x0 0x14008 = BitVec.ofNat 64 (s.mb 0 2)
        ∧ (∀ p, 16 ≤ p → p < 36 → (t.entriesOf p 2193).map (fun e => (e.extractLsb' 0 8, e.extractLsb' 8 12, e.extractLsb' 20 108))
            = (s.entriesOf p 2193).map (fun e => (e.extractLsb' 0 8, BitVec.ofNat 12 (s.mb 0 2), e.extractLsb' 20 108)))
        ∧ ∀ p m e, m < 4096 → m ≠ 2193 → e < 8 → t.accEntry p m e = s.accEntry p m e))
    ∧ (let r := s.mb 2 1
      let pgsz := s.mb 3 1
      let page := sizeOfPage pgsz
      let src := s.mb 6 1
      let va := s.mb 8 8
      let size := s.mb 16 8
      let phys := s.mb 24 8
      let w := s.peek64 (s.asidEntry asid)
      s.mbArea 4 4 = 32 → asid < 2 ^ 14 → (r % 4 = 2 → False) ∧ (r / 8 % 2 = 1 → r / 2 % 2 = 1) → r < 64 → pgsz ≤ 3 →
      s.mb 4 2 < 2 ^ 12 → r / 16 % 2 = 1 ∨ s.mb 4 2 = 0 → src ≤ 3 → s.mb 7 1 = 0 → src ≠ 0 ∨ phys = 0 → va % page = 0 → size % page = 0 →
      size ≠ 0 → va + size ≤ 2 ^ 57 → src < 2 ∨ phys % page = 0 → src ≠ 1 ∨ phys + size ≤ 0x400000000000 →
      src ≠ 2 ∨ (0xC00000000000 ≤ phys ∧ phys + size ≤ 0xE00000000000) →
      (w.getLsbD 0 = false ∨ s.leavesIn asid va (va + size) ≠ [] → Completes .mapRange s (fun t => t = { s with regs := t.regs } ∧ status t 1))
      ∧ (∀ root u v, w.getLsbD 0 = true → s.leavesIn asid va (va + size) = [] → s.rootOf asid = some (root, u) →
          State.mapPages root pgsz src (BitVec.ofNat 4 r) (r.testBit 4) (r.testBit 5) (BitVec.ofNat 12 (s.mb 4 2)) (w.extractLsb' 12 12)
            (size / page) va phys u = some v →
          Completes .mapRange s (fun t => status t 0 ∧ (∀ pa, t.byte pa = v.byte pa) ∧ t.frames = v.frames ∧ t.launches = s.launches)))
    ∧ (let short := s.mb 4 4
      let va := s.mb 8 8
      let len := s.mb 16 8
      let ps := (s.leavesIn asid va (va + len)).map pageOfLeaf
      let u : Unmap := { asid := asid, va := va, len := len, short := short, phase := 1
                         frames := ps.map (fun p => (p.pa / 65536, (p.pa + p.size) / 65536 - 1)) }
      s.mbArea 4 4 = 24 → asid < 2 ^ 14 → s.mb 2 2 = 0 → short = 0 ∨ 100 ≤ short → va + len ≤ 2 ^ 57 →
      (∀ p ∈ ps, va ≤ p.va ∧ p.va + p.size ≤ va + len) → (s.cutFrames asid u.frames).isSome = true →
      (short = 0 → Completes .unmapRange s (fun t => t = { s with
            launches := t.launches, unmaps := t.unmaps, nextId := t.nextId, agenda := t.agenda, wr := t.wr, l2 := t.l2, regs := t.regs }
          ∧ Tab.find t.unmaps s.nextId = some u ∧ t.awaits (.unmapLapseReached s.nextId) = true
          ∧ ∀ k l, Tab.find s.launches k = some l → l.asid = asid → ∀ i, i < l.recs.length → (l.recAt i).meets va len = true →
              (t.launch k).recAt i = if (l.recAt i).st = .granted then { l.recAt i with st := .revoking } else l.recAt i))
      ∧ (short ≠ 0 → s.revoked u ≠ [] → Completes .unmapRange s (fun t =>
          Tab.find t.unmaps s.nextId = some { u with waits := 128 } ∧ (∀ c, c < 128 → t.awaits (.clusterShortenNotice c s.nextId) = true)
          ∧ ∀ k l, Tab.find s.launches k = some l → l.asid = asid → ∀ i, i < l.recs.length → (l.recAt i).meets va len = true →
              (l.recAt i).st = .granted → (t.launch k).recAt i
                = { l.recAt i with st := .revoking, expiry := min (l.recAt i).expiry (s.ptime + 1000 * short) })))
    ∧ (let q := s.mb 0 1
      let fl := s.mb 1 1
      let asid := s.mb 2 2
      let ring := s.mb 8 8
      let tail := s.mb 16 8
      let bytes := 2 ^ s.mb 4 1 * 2048
      ∀ rp tp : Page, s.mbArea 4 4 = 24 → q < 64 → fl = 1 ∨ fl = 3 → asid < 2 ^ 14 → s.mb 4 1 ≤ 12 → s.mb 5 3 = 0 → ring % 4096 = 0 → tail % 8 = 0 →
      ring < 2 ^ 57 → tail < 2 ^ 57 → lqEn (s.lqcfg q) = false → s.walk 0 asid ring = .page rp → s.walk 0 asid tail = .page tp →
      ring + bytes ≤ rp.va + rp.size → spaceOf (rp.pa + (ring - rp.va)) = .host → spaceOf (tp.pa + (tail - tp.va)) = .host →
      (s.entriesOf x0 2192).length ≤ 6 →
      Completes .configureLaunchQueue s (fun t => status t 0 ∧ lqEn (t.lqcfg q) = true ∧ lqTenant (t.lqcfg q) = s.tenantOf asid
        ∧ lqDev (t.lqcfg q) = decide (fl = 3) ∧ lqSlots (t.lqcfg q) = 2 ^ s.mb 4 1 ∧ t.awaits .tailPollTimer = true
        ∧ t.mem = s.mem ∧ t.wr = s.wr ∧ t.launches = s.launches))
    ∧ (∀ (port off : Nat) (v : BitVec 64), port < 36 → off % 8 = 0 → s.hostMay port off .write = false →
      Completes (.registerWrite port off v) s (fun t => t = { s with regs := t.regs }
        ∧ ((s.reg port 0x50000).getLsbD 63 = false → t.reg port 0x50000
            = BitVec.ofNat 64 (2 ^ 63 + 2 ^ 60 + 2193 * 2 ^ 48 + (0xF00000000000 + 2 ^ 30 * port + off) % 2 ^ 48))
        ∧ ∀ p o, regKey p o ≠ regKey port 0x50000 → regKey p o ≠ regKey port 0x50008 → t.reg p o = s.reg p o))
    ∧ (∀ (port off : Nat) (v : BitVec 64), port < 36 → off % 8 = 0 → s.hostMay port off .write = true →
      (∀ i, rowOfRegister port off v = some i → Completes (.registerWrite port off v) s (fun t =>
        t = { s with agenda := s.agenda ++ [(s.ptime, .event i)] }))
      ∧ (off = 0x50000 → Completes (.registerWrite port off v) s (fun t => t = { s with regs := t.regs }
          ∧ t.reg port off = (if v.getLsbD 63 = true then s.reg port off &&& 0x7FFFFFFFFFFFFFFF#64 else s.reg port off)
          ∧ ∀ p o, regKey p o ≠ regKey port off → t.reg p o = s.reg p o))
      ∧ (off = 0x50008 → Completes (.registerWrite port off v) s (fun t => t = { s with regs := t.regs }
          ∧ field (t.reg port off) 31 0 = field v 31 0 ∧ field (t.reg port off) 63 32 = field (s.reg port off) 63 32)))
    ∧ (∀ (pair : Nat) (v : BitVec 64), pair < 512 →
      (s.teamsOn pair ≠ [] ∨ 11 < field v 3 0 → Completes (.spsplitWrite pair v) s (fun t => t = { s with regs := t.regs }
        ∧ s.steps pair = t.steps pair ∧ (t.reg (chipOf pair) (0x60000 + 8 * (pair % 32))).getLsbD 8 = true))
      ∧ (s.teamsOn pair = [] → field v 3 0 ≤ 11 → (s.pair pair).l1 = [] → s.reqs = [] → s.steps pair ≠ field v 3 0 →
        Completes (.spsplitWrite pair v) s (fun t => t = { s with regs := t.regs, pairs := t.pairs, free := t.free }
          ∧ t.steps pair = field v 3 0 ∧ (t.pair pair).scrFree = some s.free ∧ (t.pair pair).scr = [] ∧ (t.pair pair).owners = []
          ∧ ∀ p, p ≠ pair → t.pair p = s.pair p)))

/-! ### Power, clock and imprint -/

/-- R8, R28, R31, R41, R78, R402, R442 and R444 to R448: bring-up blows one epoch fuse, loads its tables and ends READY, or FAILED at its step; without power
nothing is kept but the fuse banks and the list of suspect pairs, which it excludes; a bank map that is no fair permutation is refused and leaves its pair unusable; a trip removes power within 1 ms; the clock steps down above the limit or at 95 °C, and up again. -/
def Obligations.PowerAndClock : Prop :=
  (∀ (s : State) (b : BringUp), s.powered = false → s.tables = false → s.regs = [] → s.fuses < 8192 →
    let modstat := fun (t : State) => t.reg x1 0x74000
    (b.railsOk = false → Completes (.powerOn b) s (fun t => t.powered = true ∧ (modstat t).getLsbD 2 = true ∧ field (modstat t) 31 24 = 1
      ∧ (modstat t).getLsbD 0 = false ∧ t.fuses = s.fuses))
    ∧ (b.railsOk = true → b.fuseOk = false → Completes (.powerOn b) s (fun t =>
      (modstat t).getLsbD 2 = true ∧ field (modstat t) 31 24 = 2 ∧ (modstat t).getLsbD 0 = false ∧ t.fuses = s.fuses))
    ∧ (b.railsOk = true → b.fuseOk = true → b.coloursBad = [] → b.fallback = [] → b.slicesBad = [] →
      (b.memPass = 0 → Completes (.powerOn b) s (fun t => (modstat t).getLsbD 2 = true ∧ field (modstat t) 31 24 = 5
        ∧ (modstat t).getLsbD 0 = false ∧ t.fuses = s.fuses + 1))
      ∧ (b.memPass = 0xFFFF → b.fwOk = false → Completes (.powerOn b) s (fun t => (modstat t).getLsbD 2 = true
        ∧ field (modstat t) 31 24 = 6 ∧ (modstat t).getLsbD 0 = false))
      ∧ (b.memPass = 0xFFFF → b.fwOk = true → b.pairsBad = [] → pairsRefused b = [] → Completes (.powerOn b) s (fun t =>
        t.powered = true ∧ t.tables = true ∧ modstat t = (if s.suspects = [] then 1 else 3) ∧ t.fuses = s.fuses + 1
        ∧ field (t.reg x1 0x70018) 47 32 = s.fuses ∧ t.pubs = [{ kind := 1 }] ∧ t.ihsel = 0x0000FFFF00000000#64
        ∧ (∀ i j, i < 36 → j < 36 → routeMode (t.route i j) = 0 ∧ routeHold (t.route i j) = false)
        ∧ field (t.reg x1 0x40000) 47 18 = b.asidBase / 2 ^ 18 % 2 ^ 30 ∧ (t.reg x1 0x40000).getLsbD 0 = true
        ∧ (∀ p, p < 512 → (t.usable p = true ↔ p ∉ s.suspects)) ∧ t.mem = s.mem
        ∧ t.awaits .tailPollTimer = true ∧ t.awaits .crcMonitorInterval = true))
      ∧ (∀ (p : Nat) (m : List Nat), b.memPass = 0xFFFF → b.fwOk = true → b.pairsBad = [] → b.bankMaps = [(p, m)] → p < 512 →
        (bankMapOk m = true → Completes (.powerOn b) s (fun t => (t.usable p = true ↔ p ∉ s.suspects) ∧ ∀ q, q < 768 → t.bmap p q = m.getD q 0))
        ∧ (bankMapOk m = false → Completes (.powerOn b) s (fun t => modstat t = 3 ∧ t.usable p = false
          ∧ (∀ q, q < 512 → q ≠ p → (t.usable q = true ↔ q ∉ s.suspects)) ∧ ∀ q, q < 768 → t.bmap p q = q % 32 + 32 * (q / 64) + 384 * (q / 32 % 2))))))
  ∧ (∀ s : State, s.powered = true → ∀ b, Completes (.powerOn b) s (fun t => t = s))
  ∧ (∀ s : State, Completes .powerLoss s (fun t =>
      t = { State.reset with agenda := t.agenda, picks := s.picks, ticks := s.ticks, free := s.free, nextId := s.nextId, fuses := s.fuses
                             suspects := s.suspects, hostOut := s.hostOut }
      ∧ ∀ e ∈ t.agenda, e.2.unpowered = true))
  ∧ (∀ (s : State) (tmax : BitVec 8), Completes (.thermalTrip tmax) s (fun t =>
      t = { s with regs := t.regs, picks := t.picks, agenda := t.agenda } ∧ field (t.reg x1 0x74008) 31 24 = tmax.toNat
      ∧ ∃ dt, dt ≤ 1000000 ∧ (s.ptime + dt, Due.event .powerLoss) ∈ t.agenda))
  ∧ (∀ (s : State) (pwr : BitVec 16) (tmax : BitVec 8),
      let v := s.reg x1 0x74008
      let steps := fun (i : Instr) (n : Nat) => Completes i s (fun t => t = { s with regs := t.regs }
        ∧ field (t.reg x1 0x74008) 23 20 = n ∧ field (t.reg x1 0x74008) 63 48 = pwr.toNat ∧ field (t.reg x1 0x74008) 31 24 = tmax.toNat
        ∧ field (t.reg x1 0x74008) 47 32 = field v 47 32 ∧ (n ≠ field v 23 20 → (t.reg x1 0x74000).getLsbD 4 = decide (n ≠ 0)))
      (field v 47 32 < pwr.toNat ∨ 95 ≤ tmax.toNat → steps (.clockStepDown pwr tmax) (min 8 (field v 23 20 + 1)))
      ∧ (pwr.toNat ≤ field v 47 32 → tmax.toNat < 95 → steps (.clockStepDown pwr tmax) (field v 23 20))
      ∧ (100 * pwr.toNat ≤ 95 * field v 47 32 → steps (.clockStepUp pwr tmax) (field v 23 20 - 1))
      ∧ (95 * field v 47 32 < 100 * pwr.toNat → steps (.clockStepUp pwr tmax) (field v 23 20)))
  ∧ (∀ (s : State) (v : BitVec 64), Completes (.thermWrite v) s (fun t => t = { s with regs := t.regs }
      ∧ field (t.reg x1 0x74008) 47 32 = max 2000 (min 8000 (field v 47 32))
      ∧ field (t.reg x1 0x74008) 31 0 = field (s.reg x1 0x74008) 31 0 ∧ field (t.reg x1 0x74008) 63 48 = field (s.reg x1 0x74008) 63 48))

/-- R393, R397, R399 to R401, R403, R405 and R407: a flush counts once its slot's ceiling covers it with the reserve, after a CEILING record where it does not; a
counter command is accepted and publishes its record before it reports success, or ends with STATUS 1; records are written in order, signed,
at PLTAIL's slot. -/
def Obligations.ImprintRecords : Prop :=
  ∀ (s : State),
    let status := fun (t : State) (n : Nat) => t.reg x1 0x73008 = BitVec.ofNat 64 (n * 2 ^ 16 + 2)
    let refused := fun (i : Instr) => Completes i s (fun t => t = { s with regs := t.regs } ∧ status t 1)
    let queued := fun (i : Instr) (p : PubReq) => Completes i s (fun t =>
      t = { s with pubs := s.pubs ++ [{ p with mailbox := true }], regs := t.regs, agenda := t.agenda }
      ∧ t.awaits .proofPublish = true ∧ ∀ q o, regKey q o ≠ regKey x1 0x70018 → t.reg q o = s.reg q o)
    let g : BitVec 12 := BitVec.ofNat 12 (s.mb 0 2)
    let tn : BitVec 12 := BitVec.ofNat 12 (s.mb 2 2)
    let used := s.counterOf g tn
    (s.mbArea 4 4 = 4 → s.mb 0 2 < 4096 → s.mb 2 2 < 4096 →
      (s.fuseOut = false → used = none → s.counters.length < 16384 →
        queued .fresh { kind := 2, region := g, tenant := tn, ceiling := 2 ^ 36 })
      ∧ (s.fuseOut = true ∨ used ≠ none ∨ 16384 ≤ s.counters.length → refused .fresh)
      ∧ (s.fuseOut = false → s.openSlot g tn = true → queued .checkpoint { kind := 5, region := g, tenant := tn })
      ∧ (s.fuseOut = true ∨ s.openSlot g tn = false → refused .checkpoint ∧ refused .retire)
      ∧ (s.fuseOut = false → s.openSlot g tn = true → (∀ c ∈ s.cores, (s.core c.1).pcnt = 0) →
          (∀ e ∈ s.launches, e.2.phase = .complete ∨ e.2.tenant ≠ tn ∨ g ∉ s.meteredRegions e.2) →
          queued .retire { kind := 6, region := g, tenant := tn }))
    ∧ (s.mbArea 4 4 = 256 →
      let r := s.mbRecord
      let ok := s.fuseOut = false ∧ r.devid = devid ∧ ownSignature r.digest r.r r.s = true ∧ r.epoch < s.epoch ∧ 2 ≤ r.kind ∧ r.kind ≤ 5
        ∧ s.counterOf r.region r.tenant = none ∧ s.counters.length < 16384
      (ok → queued .restore { kind := 3, region := r.region, tenant := r.tenant, value := r.ceiling
                              ceiling := min (r.ceiling + 2 ^ 36) (2 ^ 64 - 1), aux2 := sourceOf r })
      ∧ (¬ ok → refused .restore))
    ∧ (s.mbArea 4 4 = 552 → s.mb 353 3 = 0 → s.mb 453 3 = 0 →
      let r := s.mbRecord
      let src := s.mbBytes 356 97
      let ok := s.fuseOut = false ∧ (r.kind = 6 ∨ r.kind = 4) ∧ s.certified 256 456 r.devid = true ∧ bigEndian 48 (sha384 src).toNat = r.devid
        ∧ ecVerify src r.digest r.r r.s = true ∧ r.devid ≠ devid ∧ (r.devid ++ sourceOf r) ∉ s.imported
      let sum := fun (n : Nat) => queued .importRecord { kind := 7, region := r.region, tenant := r.tenant, value := n
                                                         ceiling := min (n + 2 ^ 36) (2 ^ 64 - 1), aux := r.devid, aux2 := sourceOf r }
      (ok → s.counterOf r.region r.tenant = none → s.counters.length < 16384 → sum (if r.kind = 6 then r.value else r.ceiling))
      ∧ (∀ c, ok → s.counterOf r.region r.tenant = some c → c.st = .opened →
          sum (min (c.count + (if r.kind = 6 then r.value else r.ceiling)) (2 ^ 64 - 1)))
      ∧ (¬ ok → refused .importRecord))
    ∧ (s.mbArea 4 4 = 300 → s.mb 0 1 < 64 → s.mb 1 3 = 0 → s.mb 101 3 = 0 → s.mb 201 3 = 0 →
      let h := bigEndian 48 (sha384 (s.mbBytes 4 97)).toNat
      (s.fuseOut = false → s.certified 104 204 h = true →
        queued .keyLoad { kind := 9, aux := h, aux2 := List.replicate 10 0 ++ littleEndian 1 (s.mb 0 1) })
      ∧ (s.fuseOut = true ∨ s.certified 104 204 h = false → refused .keyLoad))
    ∧ (∀ (core src : Nat) (m : Msg) (c : Counter), core < 1024 → src ≠ x1 → m.master = BitVec.ofNat 12 core →
      let f := flushOf core m
      Tab.find s.homeQ (flushKey f.2.1 f.2.2) = none →
      (s.counterOf f.2.1 f.2.2 = some c → c.st = .opened → s.slotBusy f.2.1 f.2.2 = false → c.count + f.1 + 2 ^ 33 ≤ c.ceil → c.ceil < 2 ^ 64 →
        Completes (.imprintPortWrite core src m) s (fun t =>
          t = { s with counters := t.counters, homeQ := t.homeQ, fab := t.fab, agenda := t.agenda }
          ∧ Tab.find t.homeQ (flushKey f.2.1 f.2.2) = none
          ∧ (∀ k, k ≠ flushKey f.2.1 f.2.2 → Tab.find t.homeQ k = Tab.find s.homeQ k)
          ∧ t.counterOf f.2.1 f.2.2 = some { c with count := c.count + f.1 }
          ∧ (∀ g tn, (g, tn) ≠ (f.2.1, f.2.2) → t.counterOf g tn = s.counterOf g tn)
          ∧ (t.pairState x1 src).egress = (s.pairState x1 src).egress ++ [{ cls := 0x42, tag := m.tag, line := m.line }]))
      ∧ (s.counterOf f.2.1 f.2.2 = none → Completes (.imprintPortWrite core src m) s (fun t => t.counters = s.counters
          ∧ (t.pairState x1 src).egress = (s.pairState x1 src).egress ++ [{ cls := 0x42, tag := m.tag, line := m.line }]))
      ∧ (s.counterOf f.2.1 f.2.2 = some c → c.st = .opened → s.slotBusy f.2.1 f.2.2 = false → c.ceil < c.count + f.1 + 2 ^ 33 → c.ceil < 2 ^ 64 - 1 →
        Completes (.imprintPortWrite core src m) s (fun t => t.counters = s.counters ∧ t.fab = s.fab ∧ t.awaits .proofPublish = true
          ∧ t.pubs = s.pubs ++ [{ kind := 4, region := f.2.1, tenant := f.2.2, value := c.count, ceiling := min (c.ceil + 2 ^ 36) (2 ^ 64 - 1) }]
          ∧ Tab.find t.homeQ (flushKey f.2.1 f.2.2) = some [{ src := src, dst := x1, m := m }])))
    ∧ (∀ (p : PubReq) (rest : List PubReq), s.fuseOut = false → (s.reg x1 0x70000).getLsbD 0 = true → s.plTail - s.plAck < s.logSlots →
      (∀ e ∈ s.io, e.2.kind ≠ .record) → s.pubs = p :: rest → p.kind ≠ 5 → p.kind ≠ 6 →
      let pa := s.logBase + 256 * (s.plTail % s.logSlots)
      let bs := signedRecord (s.recordBody p)
      let h0 := s.targetOf pa
      let h1 := s.targetOf (pa + 128)
      h0 ≠ x1 → h1 ≠ x1 →
      Completes .proofPublish s (fun t => t.pubs = s.pubs ∧ t.regs = s.regs ∧ t.counters = s.counters
        ∧ (∃ o, Tab.find t.io s.nextId = some o ∧ o.kind = .record ∧ o.left = 2)
        ∧ bs.length = 256
        ∧ ∃ a b, (t.pairState x1 h0).egress = (s.pairState x1 h0).egress ++ (if h1 = h0 then [a, b] else [a])
            ∧ (t.pairState x1 h1).egress = (s.pairState x1 h1).egress ++ (if h1 = h0 then [a, b] else [b]) ∧ a.cls = 0x07 ∧ b.cls = 0x07
            ∧ a.line = BitVec.ofNat 41 (pa / 128) ∧ b.line = BitVec.ofNat 41 (pa / 128 + 1) ∧ a.mask = fullMask ∧ b.mask = fullMask
            ∧ a.data = lineOfBytes (bs.take 128) ∧ b.data = lineOfBytes (bs.drop 128) ∧ a.master = 2195 ∧ a.tenant = 0 ∧ b.master = 2195
            ∧ b.tenant = 0))
    ∧ (∀ v : BitVec 64,
      (s.plAck ≤ v.toNat → v.toNat ≤ s.plTail → Completes (.plackWrite v) s (fun t => t = { s with regs := t.regs, agenda := t.agenda }
        ∧ t.plAck = v.toNat ∧ t.plTail = s.plTail ∧ t.awaits .proofPublish = true))
      ∧ (v.toNat < s.plAck ∨ s.plTail < v.toNat → Completes (.plackWrite v) s (fun t => t = s))
      ∧ ((s.reg x1 0x70000).getLsbD 0 = true → Completes (.plcfgWrite v) s (fun t => t = { s with regs := t.regs, agenda := t.agenda }
        ∧ (t.reg x1 0x70000).getLsbD 0 = v.getLsbD 0 ∧ t.logBase = s.logBase ∧ t.logSlots = s.logSlots))
      ∧ ((s.reg x1 0x70000).getLsbD 0 = false →
        let placed := fun (t : State) => t.logBase = field v 47 12 * 4096 ∧ t.logSlots = 2 ^ max 4 (field v 11 8) ∧ t.awaits .proofPublish = true
        let lo := field v 47 12 * 4096 / 65536
        let hi := (field v 47 12 * 4096 + 256 * 2 ^ max 4 (field v 11 8) - 1) / 65536
        (v.getLsbD 0 = false ∨ s.ringFits lo hi = false → Completes (.plcfgWrite v) s (fun t =>
          t = { s with regs := t.regs, agenda := t.agenda } ∧ placed t ∧ (t.reg x1 0x70000).getLsbD 0 = false))
        ∧ (v.getLsbD 0 = true → s.ringFits lo hi = true → s.acc = [] → s.l2 = [] → s.launches = [] → Completes (.plcfgWrite v) s (fun t =>
          placed t ∧ (t.reg x1 0x70000).getLsbD 0 = true
          ∧ t = { s with regs := t.regs, acc := t.acc, frames := t.frames, wr := t.wr, poison := t.poison, agenda := t.agenda }
          ∧ (∀ f, lo ≤ f → f ≤ hi → holdsFrom 0 (f + 1) s.blocks f = false → ∀ a, a / 65536 = f → t.byte a = 0)
          ∧ ∀ p, 16 ≤ p → p < 32 → ∀ f, lo ≤ f → f ≤ hi → (t.permits p 2195 0 (65536 * f) .write).isSome = true
              ∧ (t.permits p 2193 ((s.reg x0 0x14008).extractLsb' 0 12) (65536 * f) .read).isSome = true))))

/-! ### The dispatcher, and the ends of teams and launches -/

/-- R350, R351, R353 to R364 and R408 to R410: tail words are read again; an entry that keeps every rule is accepted, another ends with status 2; a launch that
needs no attestation is ready, one metered without a slot ends with 6; a ready team is placed on a pair that takes it, its threads filed at
CODE; a cohort that has waited its time reserves pairs, and what asked for victims waits for them; an
evicted gang id resumes in its handler, in a free context. -/
def Obligations.LaunchesStart : Prop :=
  ∀ (s : State),
    (∀ q, q < 64 → (∀ j, j < 64 → lqEn (s.lqcfg j) = decide (j = q)) → lqDev (s.lqcfg q) = false → (∀ e ∈ s.io, e.2.kind ≠ .tail q) →
      let pa := field (s.lqtail q) 47 3 * 8
      let p := s.targetOf pa
      spaceOf pa = .device →
      Completes .tailPollTimer s (fun t => t.awaits .tailPollTimer = true ∧ t.regs = s.regs ∧ t.wr = s.wr
        ∧ (∃ o, Tab.find t.io s.nextId = some o ∧ o.kind = .tail q ∧ o.left = 1)
        ∧ ∃ m, (t.pairState x0 p).egress = (s.pairState x0 p).egress ++ [m] ∧ m.cls = 0x01 ∧ m.line = BitVec.ofNat 41 (pa / 128)
            ∧ m.master = 2192 ∧ m.tenant = lqTenant (s.lqcfg q)))
    ∧ (∀ (q seq : Nat), q < 64 →
      let tag := q * 2 ^ 32 + seq
      (∀ e ∈ s.launches, e.2.tag ≠ tag) → tag ∉ s.completed → seqAhead (s.lqhead q) seq < 2 ^ 31 → s.gids = [] →
      s.dispatcherRead (entryOwner q seq) (lqTenant (s.lqcfg q)) (lqBase (s.lqcfg q) + 2048 * (seq % lqSlots (s.lqcfg q))) 128 = (.bad, s) →
        Completes (.entryAccept q seq) s (fun t => tag ∈ t.unread ∧ Tab.find t.results tag = some 2 ∧ t.launches = s.launches))
    ∧ (∀ (q seq : Nat) (h recs hh ord : List Byte), q < 64 →
      let tag := q * 2 ^ 32 + seq
      let o := entryOwner q seq
      let tenant := lqTenant (s.lqcfg q)
      let bs := h ++ recs
      let asid := fieldOf bs 4 2
      let n := fieldOf h 0 1
      let slot := lqBase (s.lqcfg q) + 2048 * (seq % lqSlots (s.lqcfg q))
      let va := fieldOf bs 8 8
      let f := formeOf va hh ord
      (∀ e ∈ s.launches, e.2.tag ≠ tag) → tag ∉ s.completed → seqAhead (s.lqhead q) seq < 2 ^ 31 → 1 ≤ n → n ≤ 32 →
      s.dispatcherRead o tenant slot 128 = (.ok h, s) → s.dispatcherRead o tenant (slot + 128) (32 * n) = (.ok recs, s) →
      entryOk bs = true → asid < 2 ^ 14 → (s.read64 (s.asidEntry asid)).getLsbD 0 = true → s.tenantOf asid = tenant →
      s.virtualRead o x0 2192 asid tenant true va 64 = (.ok hh, s) →
      s.virtualRead o x0 2192 asid tenant true (va + 64) (2 * min 512 (fieldOf hh 18 2)) = (.ok ord, s) →
      formeOk ((fieldOf bs 2 1).testBit 1) hh ord = true → (launchOf q seq 0 0 tenant bs).deps.all (s.depOk q seq) = true →
      s.placeable f = true → (∀ p, 16 ≤ p → p < 36 → (s.entriesOf p 2192).length < 8) →
      let done := fieldOf bs 24 8
      Completes (.entryAccept q seq) s (fun t => t.accepts = s.accepts + 1 ∧ t.awaits .dispatchChoose = true ∧ t.results = s.results
        ∧ ∃ l, Tab.find t.launches s.accepts = some l ∧ l.tag = tag ∧ l.asid = asid ∧ l.tenant = tenant ∧ l.phase = .deps ∧ l.forme = f
            ∧ l.prio = fieldOf bs 1 1 % 128 ∧ l.teams = fieldOf bs 16 4 + 1 ∧ l.acceptedAt = s.ptime ∧ l.recs = recordsOf bs n
            ∧ (done = 0 → l.donePa = none)
            ∧ ∀ pg, done ≠ 0 → done < 2 ^ 57 → s.walk 0 asid done = .page pg → l.donePa = some (pg.pa + (done - pg.va))))
    ∧ (∀ (k : Nat) (l : Launch), Tab.find s.launches k = some l → l.phase = .verify → (∀ p ∈ s.pubs, p.launch ≠ some k) →
      (s.meteredRegions l = [] → l.forme.att = false → Completes (.kernelVerify k) s (fun t =>
        t = { s with launches := t.launches, agenda := t.agenda } ∧ (t.launch k) = { l with phase := .ready }
        ∧ t.awaits .dispatchChoose = true))
      ∧ ((∃ g ∈ s.meteredRegions l, s.openSlot g l.tenant = false) ∨ (s.meteredRegions l ≠ [] ∧ l.forme.att = false)
          ∨ (l.forme.att = true ∧ s.fuseOut = true) → l.donePa = none → l.ents = [] → l.doneEnt = none →
        Completes (.kernelVerify k) s (fun t => Tab.find t.launches k = none ∧ Tab.find t.results l.tag = some 6)))
    ∧ (∀ (k p : Nat) (l : Launch), s.launches = [(k, l)] → l.phase = .ready → l.endBy = none → l.again = [] → l.placed = 0 → 1 ≤ l.teams →
      l.forme.cohsz ≤ 1 → l.forme.order = [p] → l.forme.tcimg = 0 → s.usable p = true → s.mayPlace = true →
      (∀ e ∈ s.pairs, e.2.evictions = []) → s.gids = [] → s.qualifies k { id := 0 } 1 [] [] p = true → l.cursor = 0 →
      Completes .dispatchChoose s (fun t => (t.launch k).placed = 1
        ∧ (∃ key tm, Tab.find t.teams key = some tm ∧ tm.launch = k ∧ tm.id = 0 ∧ tm.pair = p ∧ tm.run = 0 ∧ tm.winSize = l.forme.scratch
          ∧ ∀ i, i < l.forme.threads / l.forme.width → ∃ gk g, Tab.find t.gids gk = some g ∧ g.team = key ∧ g.gid = i ∧ g.core = 2 * p + i % 2
              ∧ g.lanes.length = l.forme.width ∧ ∀ th ∈ g.lanes, th.pc = l.forme.code ∧ th.st = .filed ∧ th.filedAt = s.ptime ∧ th.wbase = 0)
        ∧ ((t.pair p).k0 = some k ∨ (t.pair p).k1 = some k)))
    ∧ (∀ (k : Nat) (l : Launch) (t0 : Nat) (w : Again) (ws : List Again), Tab.find s.launches k = some l → l.cohortSince = some t0 →
      t0 + field (s.reg x0 0x11000) 15 0 * 1000 < s.ptime → l.nextWork = w :: ws →
      Completes (.cohortAgeReserve k) s (fun t => t = { s with launches := t.launches, agenda := t.agenda } ∧ t.awaits .dispatchChoose = true
        ∧ t.launch k = { l with reserved := (l.reserved ++ l.forme.order.filter (fun p =>
            !l.reserved.contains p && s.qualifies k w (ws.length + 1) [] [] p)).take (ws.length + 1) }))
    ∧ (∀ v : BitVec 64, Completes (.dispctlWrite v) s (fun t => t = { s with regs := t.regs, agenda := t.agenda }
        ∧ (t.reg x0 0x11000).getLsbD 16 = v.getLsbD 16 ∧ field (t.reg x0 0x11000) 15 0 = max 1 (field v 15 0)
        ∧ t.awaits .dispatchChoose = true))
    ∧ (∀ (pair k : Nat) (rest : List Nat) (g : Gid), (s.pair pair).evictions = k :: rest → Tab.find s.gids k = some g → s.mayPlace = true →
      s.resumable pair = true → (s.core g.core).pcnt = 0 →
      let hpc := hpcOf (s.lc g.core g.kslot).tvec
      (contextMax ≤ s.contexts g.core → Completes (.gangResume pair) s (fun t => t = { s with agenda := t.agenda } ∧ t.awaits (.gangResume pair) = true))
      ∧ (s.contexts g.core < contextMax → Completes (.gangResume pair) s (fun t => (t.pair pair).evictions = rest
        ∧ (∀ x ∈ (t.pair pair).l1, ∀ k, x.valid.getLsbD k = true → x.dirty.getLsbD k = true) ∧ t.mem = s.mem ∧ t.wr = s.wr
        ∧ t.awaits (.clauseStart g.core) = true ∧ (t.gid k).evicted = false ∧ (t.gid k).gang.hdr = hpc ∧ (t.gid k).gang.running = false
        ∧ field (t.gid k).gcause 7 0 = 1 ∧ (t.gid k).gcause.getLsbD 15 = true ∧ (t.gid k).gcause.getLsbD 16 = true ∧ (t.gid k).rpc = 0
        ∧ ∀ l, l < g.lanes.length → (t.gid k).lane l
            = if (g.lane l).st = .evicted then { g.lane l with st := .issuing, pc := hpc } else g.lane l)))
    ∧ (∀ (k : Nat) (l : Launch) (j : Nat) (g : Gid), s.launches = [(k, l)] → l.phase = .ready → (j, g) ∈ s.gids → g.preempt = true →
      pairOf g.core ∈ l.incoming → l.nextWork.length ≤ (l.forme.order.filter s.usable).length →
      Completes .dispatchChoose s (fun t => t = { s with agenda := t.agenda }))

/-- R342, R365, R366, R371, R385 to R387, R390 and R391: the end of a team or launch stops its threads once their operations are drained, with the first
cause in ENDLOG; a team whose threads have all exited writes its words back and is gone; a run is discarded and placed again; a divergence is
rerun once elsewhere, or ends the launch with status 7; waiting threads whose word has come are filed. -/
def Obligations.TeamsAndWaitsEnd : Prop :=
  ∀ (s : State),
    (∀ (team : Nat) (t0 : Team), Tab.find s.teams team = some t0 →
      let l := s.launch t0.launch
      let idle := (∀ k ∈ s.gidsOf team, s.draining k = false)
      let gone := fun (t : State) => Tab.find t.teams team = none ∧ (∀ e ∈ t.gids, e.2.team ≠ team) ∧ t.awaits .dispatchChoose = true
      (t0.retiring = false → idle → (Tab.find s.launches t0.launch).isSome = true → s.cohortOf team = [team] →
        Completes (.teamEnd team) s (fun t => t.awaits (.teamRetire team) = true ∧ t.mem = s.mem ∧ t.wr = s.wr
          ∧ (∀ k g, Tab.find s.gids k = some g → g.team = team → ∀ th ∈ (t.gid k).lanes, th.st = .exited)
          ∧ (t.launch t0.launch).status = (if l.status = 0 then 8 else l.status)
          ∧ (∀ st, t0.ending = some st → (s.reg x0 0x13008).getLsbD 63 = false →
              t.reg x0 0x13000 = BitVec.ofNat 64 l.tag ∧ (t.reg x0 0x13008).getLsbD 63 = true ∧ (t.reg x0 0x13008).getLsbD 62 = false
              ∧ field (t.reg x0 0x13008) 55 48 = st.cause.toNat ∧ field (t.reg x0 0x13008) 38 32 = t0.endGang % 128
              ∧ field (t.reg x0 0x13008) 31 0 = t0.id % 2 ^ 32 ∧ t.reg x0 0x13010 = st.pc)))
      ∧ (t0.retiring = false → idle → s.teamBusy team = false → l.forme.matrix = false → (Tab.find s.launches t0.launch).isSome = true → l.again = [] →
        Completes (.teamRelaunch team) s (fun t => gone t ∧ t.mem = s.mem ∧ t.wr = s.wr
          ∧ (∀ x ∈ (t.pair t0.pair).l1, ¬ (x.asid = l.asid ∧ x.kslot = t0.kslot))
          ∧ (t.launch t0.launch).again = [{ id := t0.id, run := t0.run + 1, avoid := t0.pair :: (t0.diverged.map (·.pair)).toList,
                                            diverged := t0.diverged.map (fun d => { d with met := false }) }]))
      ∧ (t0.retiring = false → idle → s.teamBusy team = false → (Tab.find s.launches t0.launch).isSome = true → l.phase ≠ .complete → l.again = [] →
        let suspect := (t0.diverged.map (·.pair)).getD t0.pair
        let other := ∃ p ∈ l.forme.order, s.usable p = true ∧ p ≠ t0.pair
        (t0.rst = true → t0.rerun = false → other → l.forme.matrix = false → Completes (.divergenceRerun team) s (fun t => gone t
          ∧ (t.launch t0.launch).again = [{ id := t0.id, run := t0.run + 1, avoid := [t0.pair], diverged := t0.diverged }]))
        ∧ (t0.rst = false ∨ t0.rerun = true ∨ ¬ other → suspect < 512 → Completes (.divergenceRerun team) s (fun t =>
          t = { s with regs := t.regs, suspects := t.suspects, launches := t.launches, agenda := t.agenda } ∧ t.awaits (.launchEnd t0.launch) = true
          ∧ (t.launch t0.launch).phase = .ending ∧ (t.launch t0.launch).status = 7 ∧ t.usable suspect = false ∧ suspect ∈ t.suspects)))
      ∧ (s.teamDone team = true → s.teamBusy team = false →
        (t0.retiring = false → l.forme.matrix = false → t0.rst = false → (s.pair t0.pair).l1 = [] → (s.core (2 * t0.pair)).pcnt = 0 →
          (s.core (2 * t0.pair + 1)).pcnt = 0 → Completes (.teamRetire team) s (fun t =>
            t = { s with teams := t.teams, agenda := t.agenda } ∧ t.team team = { t0 with retiring := true } ∧ t.awaits (.teamRetire team) = true))
        ∧ (t0.retiring = true → s.teamWrites t0 = false → (Tab.find s.launches t0.launch).isSome = true → s.cohortOf team = [team] →
          l.phase ≠ .ending → l.retired + 1 < l.teams → Completes (.teamRetire team) s (fun t => gone t ∧ t.mem = s.mem ∧ t.wr = s.wr
            ∧ (t.launch t0.launch).retired = l.retired + 1 ∧ ∀ k, k ≠ team → Tab.find t.teams k = Tab.find s.teams k))))
    ∧ (∀ (k : Nat) (l : Launch), Tab.find s.launches k = some l → l.phase ≠ .complete → (∀ t ∈ s.teamsOf k, ∀ g ∈ s.gidsOf t, s.draining g = false) →
      let st : BitVec 32 := if l.status = 7 ∨ l.status = 5 then l.status else 3
      (s.teamsOf k ≠ [] → Completes (.launchEnd k) s (fun t => (t.launch k).phase = .ending ∧ (t.launch k).status = st
          ∧ (∀ x ∈ s.teamsOf k, t.awaits (.teamRetire x) = true ∧ ∀ j g, Tab.find s.gids j = some g → g.team = x →
              ∀ th ∈ (t.gid j).lanes, th.st = .exited)
          ∧ (∀ c gg tt pc, l.endBy = some (c, gg, tt, pc) → (s.reg x0 0x13008).getLsbD 63 = false →
              t.reg x0 0x13000 = BitVec.ofNat 64 l.tag ∧ field (t.reg x0 0x13008) 63 62 = 3 ∧ field (t.reg x0 0x13008) 55 48 = c.toNat
              ∧ t.reg x0 0x13010 = pc)))
      ∧ (s.teamsOf k = [] → l.donePa = none → l.ents = [] → l.doneEnt = none → Completes (.launchEnd k) s (fun t =>
          Tab.find t.launches k = none ∧ Tab.find t.results l.tag = some st)))
    ∧ (∀ (k id : Nat) (r : Req) (g : Gid) (d : LineData), Tab.find s.gids k = some g → s.reqs = [(id, r)] → r.kind = .engine → r.gid = k → r.op = k →
      r.reply = some d → d.denied = false → r.stale = false →
      (∀ th ∈ g.lanes, th.st = .waiting → ∃ pa c v sc j, th.await = some (.waitw (BitVec.ofNat 64 r.vline) pa c v sc j) ∧ sc < 3) →
      r.acq = false → r.vline < 2 ^ 64 →
      Completes (.waitwReread k) s (fun t => t.reqs = [] ∧ t.mem = s.mem ∧ t.wr = s.wr
        ∧ ∀ l, l < g.lanes.length → ∀ pa c v sc j, (g.lane l).st = .waiting → (g.lane l).await = some (.waitw (BitVec.ofNat 64 r.vline) pa c v sc j) →
            (t.gid k).lane l = if waitwHolds c (r.wordAt r.vline) v = true
              then { g.lane l with st := .filed, filedAt := s.ptime, await := none } else g.lane l))
/-! ### The host port and the scale-up links -/

/-- R412 to R418: a CXL.mem access of the host becomes a request to the line's home under the host port's tenant, and one beyond the capacity is denied;
what the host answers completes the device's read, or the atomic that X0 performs on it. -/
def Obligations.HostPort : Prop :=
  ∀ (s : State),
    let tenant : BitVec 12 := (s.reg x0 0x14008).extractLsb' 0 12
    (∀ (off tag : Nat) (d : BitVec 512),
      (s.capacity ≤ off →
        Completes (.cxlMemrd off tag) s (fun t => t = { s with regs := t.regs, hostOut := s.hostOut ++ [.memRdData tag (BitVec.allOnes 512) true] })
        ∧ Completes (.cxlMemwr off tag d) s (fun t => t = { s with regs := t.regs }))
      ∧ (off < s.capacity → off % 64 = 0 → off < 2 ^ 48 →
        let h := s.homeOf off
        Completes (.cxlMemrd off tag) s (fun t => t.hostOut = s.hostOut ∧ t.wr = s.wr ∧ t.dir = s.dir
          ∧ (∃ o, Tab.find t.io s.nextId = some o ∧ o.kind = .memRd (off / 64 % 2) ∧ o.tag = tag ∧ o.left = 1)
          ∧ ∃ m, (t.pairState x0 h).egress = (s.pairState x0 h).egress ++ [m] ∧ m.cls = 0x06 ∧ m.line = BitVec.ofNat 41 (off / 128)
              ∧ m.master = 2193 ∧ m.tenant = tenant)
        ∧ Completes (.cxlMemwr off tag d) s (fun t => t.hostOut = s.hostOut ∧ t.wr = s.wr ∧ t.dir = s.dir
          ∧ (∃ o, Tab.find t.io s.nextId = some o ∧ o.kind = .memWr ∧ o.tag = tag ∧ o.left = 1)
          ∧ ∃ m, (t.pairState x0 h).egress = (s.pairState x0 h).egress ++ [m] ∧ m.cls = 0x07 ∧ m.line = BitVec.ofNat 41 (off / 128)
              ∧ m.master = 2193 ∧ m.tenant = tenant ∧ m.ndata = 4
              ∧ ∀ k, k < 128 → m.mask.getLsbD k = decide (k / 64 = off / 64 % 2)
                ∧ (k / 64 = off / 64 % 2 → lineByte m.data k = d.extractLsb' (8 * (k % 64)) 8))))
    ∧ (∀ (id : Nat) (o : IoOp) (m : Msg), Tab.find s.io id = some o → o.m = some m → o.src ≠ x0 →
      let answers := fun (t : State) (a : Msg) => Tab.find t.io id = none
        ∧ (t.pairState x0 o.src).egress = (s.pairState x0 o.src).egress ++ [a]
      (∀ d : BitVec 1024, o.kind = .hostRead → Completes (.hostReadCompletion id d) s (fun t =>
        answers t { cls := 0x40, tag := m.tag, line := m.line, ndata := 4, data := d } ∧ t.hostOut = s.hostOut ∧ t.wr = s.wr))
      ∧ (∀ old : BitVec 64, o.kind = .hostAtomic → Completes (.hostAtomicopCompletion id old) s (fun t =>
        answers t { cls := 0x44, tag := m.tag, line := m.line, ndata := 1, data := old.zeroExtend 1024 } ∧ t.hostOut = s.hostOut))
      ∧ (∀ d : BitVec 1024, o.kind = .hostRmw → amoLegal (amoArgs m.data) = true → Tab.find s.homeQ m.line.toNat = none → Completes (.hostReadCompletion id d) s (fun t =>
        let a := amoArgs m.data
        let n := 8 * amoSize a.type
        let old := d.toNat / 2 ^ (8 * a.off) % 2 ^ n
        let new := amoNew n a.op a.type old (a.opa.toNat % 2 ^ n) (a.opb.toNat % 2 ^ n)
        answers t { cls := 0x44, tag := m.tag, line := m.line, ndata := 1, aux := auxOfFlags new.2, data := BitVec.ofNat 1024 old }
        ∧ ∃ l, t.hostOut = s.hostOut ++ [.write (s.busOf (128 * m.line.toNat)) l (bytesMask a.off (amoSize a.type))]
            ∧ l.toNat / 2 ^ (8 * a.off) % 2 ^ n = new.1 % 2 ^ n)))

/-- R107, R421 to R426: a peer's request is checked, entered and issued once, and a repetition answered from its entry; a frame is decrypted in order, a bad one counted and
asked for again; a failed link's young requests go out on another; slots are keyed, used up, retired and written. -/
def Obligations.ScaleUpLinks : Prop :=
  ∀ (s : State) (l : Nat), l < 12 →
    let x := s.link l
    let v := s.lkctl l
    let tx := txk v
    let frame := fun (t : State) (modid : Nat) (m : Msg) => ∃ f, (t.link l).out = x.out ++ [f] ∧ f.modid = BitVec.ofNat 16 modid
      ∧ f.kidx = BitVec.ofNat 1 tx ∧ f.counter = BitVec.ofNat 64 (Tab.get 0 x.counter tx) ∧ f.seq = x.nextSeq
      ∧ f.cipher = keyed (Tab.get 0 x.key tx) (Tab.get 0 x.salt tx) f.counter (bytesOfMsg m)
      ∧ f.tag = frameTag (Tab.get 0 x.key tx) (Tab.get 0 x.salt tx) f.counter f.cipher
      ∧ Tab.get 0 (t.link l).counter tx = Tab.get 0 x.counter tx + 1 ∧ (t.link l).replay = x.replay ++ [f]
    (v.getLsbD 0 = true → s.slotSends l tx = true → x.waiting = [] → ∀ (modid : Nat) (m : Msg), m.cls = 0x07 →
      let pa := 128 * m.line.toNat
      (∀ a r, s.atoms = [a] → a.modid = modid → a.tag = m.tag.toNat → a.reply = some r → Completes (.peerIngressRequest l modid m) s (fun t =>
          t = { s with links := t.links, regs := t.regs, agenda := t.agenda } ∧ frame t modid (withFlits r)))
      ∧ (s.atoms = [] → s.NoneHeld → s.capacity ≤ pa ∨ s.permits (linkPort l) (2196 + l) m.tenant pa .write = none →
          Completes (.peerIngressRequest l modid m) s (fun t => t.io = s.io ∧ t.fab = s.fab ∧ t.atoms = []
            ∧ frame t modid { cls := 0x45, tag := m.tag, line := m.line })))
    ∧ (∀ (modid : Nat) (m : Msg), m.cls = 0x07 ∨ m.cls = 0x0A → s.atoms = [] → s.NoneHeld →
      let pa := 128 * m.line.toNat
      pa < s.capacity → (s.permits (linkPort l) (2196 + l) m.tenant pa (if m.cls = 0x07 then .write else .amo)).isSome = true →
      Completes (.peerIngressRequest l modid m) s (fun t => t.wr = s.wr ∧ t.links = s.links
        ∧ t.atoms = [{ port := linkPort l, modid := modid, tag := m.tag.toNat }]
        ∧ (∃ o, Tab.find t.io s.nextId = some o ∧ o.kind = .peerIn l modid ∧ o.m = some m)
        ∧ ∃ q, (t.pairState (linkPort l) (s.homeOf pa)).egress = (s.pairState (linkPort l) (s.homeOf pa)).egress ++ [q] ∧ q.cls = m.cls
            ∧ q.line = m.line ∧ q.data = m.data ∧ q.mask = m.mask ∧ q.master = BitVec.ofNat 12 (2196 + l) ∧ q.tenant = m.tenant))
    ∧ (∀ (port modid tag : Nat) (a : AtomEntry), s.atoms = [a] → a.port = port → a.modid = modid → a.tag = tag →
      s.NoneHeld →
      (a.reply.isSome = true → a.expires ≤ s.ptime → Completes (.atomicCacheLapse port modid tag) s (fun t => t = { s with atoms := [] }))
      ∧ (a.reply = none ∨ s.ptime < a.expires → Completes (.atomicCacheLapse port modid tag) s (fun t => t = s)))
    ∧ (∀ (id l' modid : Nat) (o : IoOp) (m : Msg), s.io = [(id, o)] → o.kind = .peerHeld l' modid → o.m = some m → m.cls = 0x07 → linkPort l' = linkPort l →
      ((∀ a ∈ s.atoms, a.modid ≠ modid ∨ a.tag ≠ m.tag.toNat) → Completes (.peerIngressRequest l modid m) s (fun t =>
        t = { s with io := [(id, { o with kind := .peerHeld l modid })] }))
      ∧ (∀ tag, (s.atoms.filter (fun a => decide (a.port = linkPort l) && !(a.modid == modid && a.tag == tag))).length < 256 →
          (∀ a ∈ s.atoms, a.port = linkPort l → a.modid = modid → a.tag = tag → a.reply.isSome = true ∧ a.expires ≤ s.ptime) → s.nextId ≠ id →
          Completes (.atomicCacheLapse (linkPort l) modid tag) s (fun t =>
            { port := linkPort l, modid := modid, tag := m.tag.toNat } ∈ t.atoms ∧ Tab.find t.io id = none
            ∧ ∃ p, Tab.find t.io s.nextId = some p ∧ p.kind = .peerIn l' modid ∧ p.m = some m)))
    ∧ (∀ f : LinkFrame,
      let k := f.kidx.toNat
      let key := Tab.get 0 x.rkey k
      let salt := Tab.get 0 x.rsalt k
      let good := valOf v k = true ∧ x.rvalid.getLsbD k = true ∧ frameTag key salt f.counter f.cipher = f.tag
      let m := msgOfBytes (keyed key salt f.counter f.cipher)
      (¬ good → Completes (.linkFrameReceive l f) s (fun t => t = { s with regs := t.regs, links := t.links }
        ∧ field (t.lkctl l) 39 32 = min 255 (field v 39 32 + 1) ∧ t.link l = { x with acks := x.acks ++ [(false, x.expect)] }))
      ∧ (good → f.seq = x.expect → (askOf m.cls.toNat).isSome = true → Completes (.linkFrameReceive l f) s (fun t =>
          t = { s with links := t.links, agenda := s.agenda ++ [(s.ptime, .event (.peerIngressRequest l f.modid.toNat m))] }
          ∧ t.link l = { x with expect := x.expect + 1, acks := x.acks ++ [(true, f.seq)] }))
      ∧ (good → f.seq = x.expect → knownClass m.cls = false → Completes (.linkFrameReceive l f) s (fun t =>
          t = { s with links := t.links, regs := t.regs, mmpNotes := t.mmpNotes } ∧ t.link l = { x with expect := x.expect + 1, acks := x.acks ++ [(true, f.seq)] }
          ∧ MmpNote.protocol (linkPort l) ∈ t.mmpNotes
          ∧ field (t.reg (linkPort l) 0x50010) 31 0 = min (2 ^ 32 - 1) (field (s.reg (linkPort l) 0x50010) 31 0 + 1)))
      ∧ (good → f.seq ≠ x.expect → (x.expect - f.seq).toNat ≤ 32768 → Completes (.linkFrameReceive l f) s (fun t => t = s)))
    ∧ ((∀ e ∈ s.io, e.2.kind ≠ .peerOut l) → Completes (.linkFail l) s (fun t => t = { s with regs := t.regs, links := t.links }
        ∧ (t.lkctl l).getLsbD 0 = false ∧ (t.link l).replay = [] ∧ (t.link l).waiting = [] ∧ (t.link l).out = x.out))
    ∧ (∀ (id : Nat) (o : IoOp) (m : Msg), s.io = [(id, o)] → o.kind = .peerOut l → o.m = some m →
      (o.issued + 40000 < s.ptime → Completes (.linkFail l) s (fun t => t.io = [] ∧ (t.lkctl l).getLsbD 0 = false
          ∧ ∀ q, Tab.find s.txs (o.src * 2 ^ 16 + m.tag.toNat) = some q → q.cls = 0x07 →
              (max s.ptime (q.issued + 50000), Due.event (.loadReplyTimeout q.req)) ∈ t.agenda))
      ∧ (∀ j, s.ptime ≤ o.issued + 40000 → s.otherLink l (128 * m.line.toNat) = some j → Completes (.linkFail l) s (fun t =>
          t.io = [(id, { o with kind := .peerOut j })] ∧ (t.lkctl l).getLsbD 0 = false
          ∧ ((t.link j).waiting.length + (t.link j).out.length = (s.link j).waiting.length + (s.link j).out.length + 1))))
    ∧ (∀ k, k < 2 →
      Completes (.keyRetireNotice l k) s (fun t => t = { s with links := t.links } ∧ (t.link l).rvalid.getLsbD k = false
        ∧ Tab.find (t.link l).rkey k = none ∧ (t.link l).rvalid.getLsbD (1 - k) = x.rvalid.getLsbD (1 - k) ∧ (t.link l).key = x.key)
      ∧ Completes (.keyCounterExhausted l k) s (fun t => t = { s with links := t.links } ∧ t.slotSends l k = false
        ∧ t.slotSends l (1 - k) = s.slotSends l (1 - k)))
    ∧ (∀ w : BitVec 64,
      ((∃ k, k < 2 ∧ valOf v k = true ∧ valOf w k = false ∧ (inUse v k = true ∨ tx = k)) → Completes (.lkctlWrite l w) s (fun t => t = s))
      ∧ ((∀ k, k < 2 → valOf v k = true → valOf w k = true) → x.waiting = [] → Completes (.lkctlWrite l w) s (fun t =>
        t = { s with regs := t.regs, links := t.links } ∧ t.link l = x ∧ field (t.lkctl l) 3 2 = field w 3 2
        ∧ field (t.lkctl l) 39 32 = field w 39 32 ∧ (t.lkctl l).getLsbD 0 = v.getLsbD 0
        ∧ txk (t.lkctl l) = if valOf w (txk w) = true then txk w else tx)))
    ∧ (∀ (key : BitVec 256) (salt : BitVec 32), x.waiting = [] → Completes (.linkTrained l key salt) s (fun t =>
        t = { s with regs := t.regs, links := t.links } ∧ (t.lkctl l).getLsbD 0 = true ∧ txk (t.lkctl l) = 0 ∧ valOf (t.lkctl l) 0 = true
        ∧ field (t.lkctl l) 5 4 = 0 ∧ Tab.find (t.link l).key 0 = some key ∧ Tab.find (t.link l).salt 0 = some salt
        ∧ Tab.find (t.link l).counter 0 = some 0 ∧ (t.link l).nextSeq = 0 ∧ (t.link l).expect = 0 ∧ (t.link l).replay = []
        ∧ t.slotSends l 0 = true))
end

