-- ==== Sys2Proof/Laws/Tab.lean ====
section
/-!
SUPPORT. Tables: reading after writing, the keys that stay as they are, and the canonical form, which every operation on
device memory keeps.
-/

namespace Sys2Proof.Machine

@[simp] theorem Tab.find_ins_same {α : Type} (t : Tab α) (k : Nat) (v : α) : Tab.find (Tab.ins t k v) k = some v := by
  induction t with
  | nil => simp [Tab.ins, Tab.find]
  | cons e t ih =>
    obtain ⟨k', v'⟩ := e
    simp only [Tab.ins]
    split
    · simp [Tab.find]
    · split
      · simp [Tab.find]
      · rename_i h1 h2
        simp [Tab.find, ih]
        omega

theorem Tab.find_ins_other {α : Type} (t : Tab α) (k j : Nat) (v : α) (h : j ≠ k) :
    Tab.find (Tab.ins t k v) j = Tab.find t j := by
  induction t with
  | nil => simp [Tab.ins, Tab.find, Ne.symm h]
  | cons e t ih =>
    obtain ⟨k', v'⟩ := e
    simp only [Tab.ins]
    split
    · simp [Tab.find, Ne.symm h]
    · split
      · rename_i h1 h2
        subst h2
        simp [Tab.find, Ne.symm h]
      · simp [Tab.find, ih]

theorem Tab.find_del_other {α : Type} (t : Tab α) (k j : Nat) (h : j ≠ k) : Tab.find (Tab.del t k) j = Tab.find t j := by
  induction t with
  | nil => rfl
  | cons e t ih =>
    obtain ⟨k', v'⟩ := e
    simp only [Tab.del]
    split
    · rename_i h1
      subst h1
      simp [Tab.find, Ne.symm h, ih]
    · simp [Tab.find, ih]

@[simp] theorem Tab.get_ins_same {α : Type} (d : α) (t : Tab α) (k : Nat) (v : α) : Tab.get d (Tab.ins t k v) k = v := by
  simp [Tab.get]

theorem Tab.get_ins_other {α : Type} (d : α) (t : Tab α) (k j : Nat) (v : α) (h : j ≠ k) :
    Tab.get d (Tab.ins t k v) j = Tab.get d t j := by
  simp [Tab.get, Tab.find_ins_other t k j v h]

@[simp] theorem Tab.get_upd_same {α : Type} (d : α) (t : Tab α) (k : Nat) (f : α → α) :
    Tab.get d (Tab.upd d t k f) k = f (Tab.get d t k) := by
  simp [Tab.upd]

theorem Tab.get_upd_other {α : Type} (d e : α) (t : Tab α) (k j : Nat) (f : α → α) (h : j ≠ k) :
    Tab.get e (Tab.upd d t k f) j = Tab.get e t j := by
  simp [Tab.upd, Tab.get_ins_other _ _ _ _ _ h]

theorem Tab.find_change_same {α : Type} (t : Tab α) (k : Nat) (f : α → α) (v : α) (h : Tab.find t k = some v) :
    Tab.find (Tab.change t k f) k = some (f v) := by
  simp [Tab.change, h]

theorem Tab.get_change_same {α : Type} (d : α) (t : Tab α) (k : Nat) (f : α → α) (h : (Tab.find t k).isSome) :
    Tab.get d (Tab.change t k f) k = f (Tab.get d t k) := by
  obtain ⟨v, hv⟩ := Option.isSome_iff_exists.mp h
  simp [Tab.get, Tab.change, hv]

theorem Tab.change_congr {α : Type} (t : Tab α) (k : Nat) (f f' : α → α) (d : α) (h : f (Tab.get d t k) = f' (Tab.get d t k)) :
    Tab.change t k f = Tab.change t k f' := by
  unfold Tab.change
  cases hv : Tab.find t k with
  | none => rfl
  | some v =>
    have : Tab.get d t k = v := by simp [Tab.get, hv]
    rw [this] at h
    simp [h]

theorem Tab.find_change_other {α : Type} (t : Tab α) (k j : Nat) (f : α → α) (h : j ≠ k) :
    Tab.find (Tab.change t k f) j = Tab.find t j := by
  unfold Tab.change
  split
  · exact Tab.find_ins_other t k j _ h
  · rfl

theorem Tab.get_change_other {α : Type} (d : α) (t : Tab α) (k j : Nat) (f : α → α) (h : j ≠ k) :
    Tab.get d (Tab.change t k f) j = Tab.get d t j := by
  simp [Tab.get, Tab.find_change_other t k j f h]

theorem Tab.get_set_other {α : Type} [DecidableEq α] (d e : α) (t : Tab α) (k j : Nat) (v : α) (h : j ≠ k) :
    Tab.get e (Tab.set d t k v) j = Tab.get e t j := by
  unfold Tab.set
  split
  · simp [Tab.get, Tab.find_del_other t k j h]
  · exact Tab.get_ins_other _ _ _ _ _ h

/-! ### The canonical form -/

/-- Every key of a table is at least `k`. -/
def Tab.from_ {α : Type} (t : Tab α) (k : Nat) : Prop := ∀ e ∈ t, k ≤ e.1

theorem Tab.sorted_tail {α : Type} {e : Nat × α} {t : Tab α} (h : Tab.sorted (e :: t) = true) : Tab.sorted t = true := by
  cases t with
  | nil => rfl
  | cons e' t =>
    simp only [Tab.sorted, Bool.and_eq_true] at h
    exact h.2

theorem Tab.sorted_cons {α : Type} (k : Nat) (v : α) (t : Tab α) :
    Tab.sorted ((k, v) :: t) = true ↔ Tab.sorted t = true ∧ ∀ e ∈ t, k < e.1 := by
  induction t generalizing k v with
  | nil => simp [Tab.sorted]
  | cons e t ih =>
    obtain ⟨k', v'⟩ := e
    simp only [Tab.sorted, Bool.and_eq_true, decide_eq_true_eq]
    constructor
    · rintro ⟨h, hs⟩
      refine ⟨hs, ?_⟩
      rintro e he
      rcases List.mem_cons.mp he with rfl | he
      · exact h
      · exact lt_trans h (((ih k' v').mp hs).2 e he)
    · rintro ⟨hs, h⟩
      exact ⟨h (k', v') (List.mem_cons_self ..), hs⟩

theorem Tab.mem_ins {α : Type} {t : Tab α} {k : Nat} {v : α} {e : Nat × α} (h : e ∈ Tab.ins t k v) :
    e = (k, v) ∨ e ∈ t := by
  induction t with
  | nil => simpa [Tab.ins] using h
  | cons e' t ih =>
    obtain ⟨k', v'⟩ := e'
    simp only [Tab.ins] at h
    split at h
    · simpa using h
    · split at h
      · rcases List.mem_cons.mp h with h | h
        · exact .inl h
        · exact .inr (List.mem_cons_of_mem _ h)
      · rcases List.mem_cons.mp h with h | h
        · exact .inr (h ▸ List.mem_cons_self ..)
        · rcases ih h with h | h
          · exact .inl h
          · exact .inr (List.mem_cons_of_mem _ h)

theorem Tab.sorted_ins {α : Type} (t : Tab α) (k : Nat) (v : α) (h : Tab.sorted t = true) :
    Tab.sorted (Tab.ins t k v) = true := by
  induction t with
  | nil => rfl
  | cons e t ih =>
    obtain ⟨k', v'⟩ := e
    have ht := (Tab.sorted_cons k' v' t).mp h
    simp only [Tab.ins]
    split
    · rename_i hk
      refine (Tab.sorted_cons k v _).mpr ⟨h, ?_⟩
      rintro e he
      rcases List.mem_cons.mp he with rfl | he
      · exact hk
      · exact lt_trans hk (ht.2 e he)
    · split
      · rename_i hk
        subst hk
        exact (Tab.sorted_cons k v t).mpr ht
      · rename_i h1 h2
        refine (Tab.sorted_cons k' v' _).mpr ⟨ih ht.1, ?_⟩
        rintro e he
        rcases Tab.mem_ins he with rfl | he
        · simp only; omega
        · exact ht.2 e he

theorem Tab.mem_del {α : Type} {t : Tab α} {k : Nat} {e : Nat × α} (h : e ∈ Tab.del t k) : e ∈ t := by
  induction t with
  | nil => simp [Tab.del] at h
  | cons e' t ih =>
    obtain ⟨k', v'⟩ := e'
    simp only [Tab.del] at h
    split at h
    · exact List.mem_cons_of_mem _ (ih h)
    · rcases List.mem_cons.mp h with h | h
      · exact h ▸ List.mem_cons_self ..
      · exact List.mem_cons_of_mem _ (ih h)

theorem Tab.sorted_del {α : Type} (t : Tab α) (k : Nat) (h : Tab.sorted t = true) : Tab.sorted (Tab.del t k) = true := by
  induction t with
  | nil => rfl
  | cons e t ih =>
    obtain ⟨k', v'⟩ := e
    have ht := (Tab.sorted_cons k' v' t).mp h
    simp only [Tab.del]
    split
    · exact ih ht.1
    · exact (Tab.sorted_cons k' v' _).mpr ⟨ih ht.1, fun e he => ht.2 e (Tab.mem_del he)⟩

theorem Tab.wf_set {α : Type} [DecidableEq α] (d : α) (t : Tab α) (k : Nat) (v : α) (h : Tab.wf d t = true) :
    Tab.wf d (Tab.set d t k v) = true := by
  simp only [Tab.wf, Bool.and_eq_true, List.all_eq_true, decide_eq_true_eq] at h ⊢
  unfold Tab.set
  split
  · exact ⟨Tab.sorted_del t k h.1, fun e he => h.2 e (Tab.mem_del he)⟩
  · rename_i hv
    refine ⟨Tab.sorted_ins t k v h.1, fun e he => ?_⟩
    rcases Tab.mem_ins he with rfl | he
    · exact hv
    · exact h.2 e he

@[simp] theorem Tab.find_del_same {α : Type} (t : Tab α) (k : Nat) : Tab.find (Tab.del t k) k = none := by
  induction t with
  | nil => rfl
  | cons e t ih =>
    obtain ⟨k', v'⟩ := e
    simp only [Tab.del]
    split
    · exact ih
    · rename_i hk
      simp [Tab.find, hk, ih]

@[simp] theorem Tab.get_set_same {α : Type} [DecidableEq α] (d : α) (t : Tab α) (k : Nat) (v : α) :
    Tab.get d (Tab.set d t k v) k = v := by
  unfold Tab.set
  split
  · rename_i hv
    simp [Tab.get, hv]
  · simp

/-! ### Device memory -/

/-- Every write keeps the canonical form. -/
theorem Memory.applied_wf (m wr : List Host.Cell) (h : Memory.wf m = true) : Memory.wf (Memory.applied m wr) = true := by
  induction wr with
  | nil => exact h
  | cons c wr ih => exact Tab.wf_set 0 _ _ _ ih

/-- The end of a step keeps the canonical form, whatever the step did. -/
theorem finish_wf (s t : State) (h : Memory.wf s.mem = true) : Memory.wf (finish s t).mem = true := by
  simp only [finish]
  split
  · exact Memory.applied_wf _ _ h
  · rfl

@[simp] theorem finish_wr (s t : State) : (finish s t).wr = [] := rfl

/-- What a byte reads as after the writes of a step: the newest write to it, or what it was. -/
theorem Memory.get_applied (m wr : List Host.Cell) (pa : Nat) :
    Tab.get 0 (Memory.applied m wr) pa = match Tab.find wr pa with
      | some b => b
      | none => Tab.get 0 m pa := by
  induction wr with
  | nil => rfl
  | cons c wr ih =>
    obtain ⟨k, b⟩ := c
    show Tab.get 0 (Tab.set 0 (Memory.applied m wr) k b) pa = _
    by_cases hk : pa = k
    · subst hk
      rw [Tab.get_set_same]
      simp [Tab.find]
    · rw [Tab.get_set_other _ _ _ _ _ _ hk, ih]
      simp [Tab.find, Ne.symm hk]

end Sys2Proof.Machine
end

