-- ==== Sys2Proof/Laws/State.lean ====
section
/-!
SUPPORT. What each update of the state changes and what it leaves: one lemma for each field and update, so that no proof
unfolds a record update.
-/

namespace Sys2Proof.Machine

/-! ### `State.updGid` -/

@[simp] theorem State.updGid_ptime (s : State) (k : Nat) (f : Gid → Gid) : (s.updGid k f).ptime = s.ptime := rfl
@[simp] theorem State.updGid_powered (s : State) (k : Nat) (f : Gid → Gid) : (s.updGid k f).powered = s.powered := rfl
@[simp] theorem State.updGid_agenda (s : State) (k : Nat) (f : Gid → Gid) : (s.updGid k f).agenda = s.agenda := rfl
@[simp] theorem State.updGid_picks (s : State) (k : Nat) (f : Gid → Gid) : (s.updGid k f).picks = s.picks := rfl
@[simp] theorem State.updGid_ticks (s : State) (k : Nat) (f : Gid → Gid) : (s.updGid k f).ticks = s.ticks := rfl
@[simp] theorem State.updGid_free (s : State) (k : Nat) (f : Gid → Gid) : (s.updGid k f).free = s.free := rfl
@[simp] theorem State.updGid_nextId (s : State) (k : Nat) (f : Gid → Gid) : (s.updGid k f).nextId = s.nextId := rfl
@[simp] theorem State.updGid_cur (s : State) (k : Nat) (f : Gid → Gid) : (s.updGid k f).cur = s.cur := rfl
@[simp] theorem State.updGid_rx (s : State) (k : Nat) (f : Gid → Gid) : (s.updGid k f).rx = s.rx := rfl
@[simp] theorem State.updGid_mbCopy (s : State) (k : Nat) (f : Gid → Gid) : (s.updGid k f).mbCopy = s.mbCopy := rfl
@[simp] theorem State.updGid_mem (s : State) (k : Nat) (f : Gid → Gid) : (s.updGid k f).mem = s.mem := rfl
@[simp] theorem State.updGid_wr (s : State) (k : Nat) (f : Gid → Gid) : (s.updGid k f).wr = s.wr := rfl
@[simp] theorem State.updGid_poison (s : State) (k : Nat) (f : Gid → Gid) : (s.updGid k f).poison = s.poison := rfl
@[simp] theorem State.updGid_tables (s : State) (k : Nat) (f : Gid → Gid) : (s.updGid k f).tables = s.tables := rfl
@[simp] theorem State.updGid_ihsel (s : State) (k : Nat) (f : Gid → Gid) : (s.updGid k f).ihsel = s.ihsel := rfl
@[simp] theorem State.updGid_regs (s : State) (k : Nat) (f : Gid → Gid) : (s.updGid k f).regs = s.regs := rfl
@[simp] theorem State.updGid_acc (s : State) (k : Nat) (f : Gid → Gid) : (s.updGid k f).acc = s.acc := rfl
@[simp] theorem State.updGid_gids (s : State) (k : Nat) (f : Gid → Gid) : (s.updGid k f).gids = Tab.change s.gids k f := rfl
@[simp] theorem State.updGid_teams (s : State) (k : Nat) (f : Gid → Gid) : (s.updGid k f).teams = s.teams := rfl
@[simp] theorem State.updGid_launches (s : State) (k : Nat) (f : Gid → Gid) : (s.updGid k f).launches = s.launches := rfl
@[simp] theorem State.updGid_lcs (s : State) (k : Nat) (f : Gid → Gid) : (s.updGid k f).lcs = s.lcs := rfl
@[simp] theorem State.updGid_cores (s : State) (k : Nat) (f : Gid → Gid) : (s.updGid k f).cores = s.cores := rfl
@[simp] theorem State.updGid_pairs (s : State) (k : Nat) (f : Gid → Gid) : (s.updGid k f).pairs = s.pairs := rfl
@[simp] theorem State.updGid_ops (s : State) (k : Nat) (f : Gid → Gid) : (s.updGid k f).ops = s.ops := rfl
@[simp] theorem State.updGid_reqs (s : State) (k : Nat) (f : Gid → Gid) : (s.updGid k f).reqs = s.reqs := rfl
@[simp] theorem State.updGid_cmds (s : State) (k : Nat) (f : Gid → Gid) : (s.updGid k f).cmds = s.cmds := rfl
@[simp] theorem State.updGid_tlbs (s : State) (k : Nat) (f : Gid → Gid) : (s.updGid k f).tlbs = s.tlbs := rfl
@[simp] theorem State.updGid_walks (s : State) (k : Nat) (f : Gid → Gid) : (s.updGid k f).walks = s.walks := rfl
@[simp] theorem State.updGid_l2 (s : State) (k : Nat) (f : Gid → Gid) : (s.updGid k f).l2 = s.l2 := rfl
@[simp] theorem State.updGid_txs (s : State) (k : Nat) (f : Gid → Gid) : (s.updGid k f).txs = s.txs := rfl
@[simp] theorem State.updGid_promotions (s : State) (k : Nat) (f : Gid → Gid) : (s.updGid k f).promotions = s.promotions := rfl
@[simp] theorem State.updGid_dir (s : State) (k : Nat) (f : Gid → Gid) : (s.updGid k f).dir = s.dir := rfl
@[simp] theorem State.updGid_homeTx (s : State) (k : Nat) (f : Gid → Gid) : (s.updGid k f).homeTx = s.homeTx := rfl
@[simp] theorem State.updGid_homeQ (s : State) (k : Nat) (f : Gid → Gid) : (s.updGid k f).homeQ = s.homeQ := rfl
@[simp] theorem State.updGid_pwbs (s : State) (k : Nat) (f : Gid → Gid) : (s.updGid k f).pwbs = s.pwbs := rfl
@[simp] theorem State.updGid_pwbWait (s : State) (k : Nat) (f : Gid → Gid) : (s.updGid k f).pwbWait = s.pwbWait := rfl
@[simp] theorem State.updGid_fab (s : State) (k : Nat) (f : Gid → Gid) : (s.updGid k f).fab = s.fab := rfl
@[simp] theorem State.updGid_reqcap (s : State) (k : Nat) (f : Gid → Gid) : (s.updGid k f).reqcap = s.reqcap := rfl
@[simp] theorem State.updGid_mmpNotes (s : State) (k : Nat) (f : Gid → Gid) : (s.updGid k f).mmpNotes = s.mmpNotes := rfl
@[simp] theorem State.updGid_unmaps (s : State) (k : Nat) (f : Gid → Gid) : (s.updGid k f).unmaps = s.unmaps := rfl
@[simp] theorem State.updGid_frames (s : State) (k : Nat) (f : Gid → Gid) : (s.updGid k f).frames = s.frames := rfl
@[simp] theorem State.updGid_tails (s : State) (k : Nat) (f : Gid → Gid) : (s.updGid k f).tails = s.tails := rfl
@[simp] theorem State.updGid_results (s : State) (k : Nat) (f : Gid → Gid) : (s.updGid k f).results = s.results := rfl
@[simp] theorem State.updGid_unread (s : State) (k : Nat) (f : Gid → Gid) : (s.updGid k f).unread = s.unread := rfl
@[simp] theorem State.updGid_completed (s : State) (k : Nat) (f : Gid → Gid) : (s.updGid k f).completed = s.completed := rfl
@[simp] theorem State.updGid_counters (s : State) (k : Nat) (f : Gid → Gid) : (s.updGid k f).counters = s.counters := rfl
@[simp] theorem State.updGid_pubs (s : State) (k : Nat) (f : Gid → Gid) : (s.updGid k f).pubs = s.pubs := rfl
@[simp] theorem State.updGid_signers (s : State) (k : Nat) (f : Gid → Gid) : (s.updGid k f).signers = s.signers := rfl
@[simp] theorem State.updGid_imported (s : State) (k : Nat) (f : Gid → Gid) : (s.updGid k f).imported = s.imported := rfl
@[simp] theorem State.updGid_fuses (s : State) (k : Nat) (f : Gid → Gid) : (s.updGid k f).fuses = s.fuses := rfl
@[simp] theorem State.updGid_suspects (s : State) (k : Nat) (f : Gid → Gid) : (s.updGid k f).suspects = s.suspects := rfl
@[simp] theorem State.updGid_bumps (s : State) (k : Nat) (f : Gid → Gid) : (s.updGid k f).bumps = s.bumps := rfl
@[simp] theorem State.updGid_io (s : State) (k : Nat) (f : Gid → Gid) : (s.updGid k f).io = s.io := rfl
@[simp] theorem State.updGid_atoms (s : State) (k : Nat) (f : Gid → Gid) : (s.updGid k f).atoms = s.atoms := rfl
@[simp] theorem State.updGid_links (s : State) (k : Nat) (f : Gid → Gid) : (s.updGid k f).links = s.links := rfl
@[simp] theorem State.updGid_vers (s : State) (k : Nat) (f : Gid → Gid) : (s.updGid k f).vers = s.vers := rfl
@[simp] theorem State.updGid_hostOut (s : State) (k : Nat) (f : Gid → Gid) : (s.updGid k f).hostOut = s.hostOut := rfl
@[simp] theorem State.updGid_accepts (s : State) (k : Nat) (f : Gid → Gid) : (s.updGid k f).accepts = s.accepts := rfl

/-! ### `State.updTeam` -/

@[simp] theorem State.updTeam_ptime (s : State) (k : Nat) (f : Team → Team) : (s.updTeam k f).ptime = s.ptime := rfl
@[simp] theorem State.updTeam_powered (s : State) (k : Nat) (f : Team → Team) : (s.updTeam k f).powered = s.powered := rfl
@[simp] theorem State.updTeam_agenda (s : State) (k : Nat) (f : Team → Team) : (s.updTeam k f).agenda = s.agenda := rfl
@[simp] theorem State.updTeam_picks (s : State) (k : Nat) (f : Team → Team) : (s.updTeam k f).picks = s.picks := rfl
@[simp] theorem State.updTeam_ticks (s : State) (k : Nat) (f : Team → Team) : (s.updTeam k f).ticks = s.ticks := rfl
@[simp] theorem State.updTeam_free (s : State) (k : Nat) (f : Team → Team) : (s.updTeam k f).free = s.free := rfl
@[simp] theorem State.updTeam_nextId (s : State) (k : Nat) (f : Team → Team) : (s.updTeam k f).nextId = s.nextId := rfl
@[simp] theorem State.updTeam_cur (s : State) (k : Nat) (f : Team → Team) : (s.updTeam k f).cur = s.cur := rfl
@[simp] theorem State.updTeam_rx (s : State) (k : Nat) (f : Team → Team) : (s.updTeam k f).rx = s.rx := rfl
@[simp] theorem State.updTeam_mbCopy (s : State) (k : Nat) (f : Team → Team) : (s.updTeam k f).mbCopy = s.mbCopy := rfl
@[simp] theorem State.updTeam_mem (s : State) (k : Nat) (f : Team → Team) : (s.updTeam k f).mem = s.mem := rfl
@[simp] theorem State.updTeam_wr (s : State) (k : Nat) (f : Team → Team) : (s.updTeam k f).wr = s.wr := rfl
@[simp] theorem State.updTeam_poison (s : State) (k : Nat) (f : Team → Team) : (s.updTeam k f).poison = s.poison := rfl
@[simp] theorem State.updTeam_tables (s : State) (k : Nat) (f : Team → Team) : (s.updTeam k f).tables = s.tables := rfl
@[simp] theorem State.updTeam_ihsel (s : State) (k : Nat) (f : Team → Team) : (s.updTeam k f).ihsel = s.ihsel := rfl
@[simp] theorem State.updTeam_regs (s : State) (k : Nat) (f : Team → Team) : (s.updTeam k f).regs = s.regs := rfl
@[simp] theorem State.updTeam_acc (s : State) (k : Nat) (f : Team → Team) : (s.updTeam k f).acc = s.acc := rfl
@[simp] theorem State.updTeam_gids (s : State) (k : Nat) (f : Team → Team) : (s.updTeam k f).gids = s.gids := rfl
@[simp] theorem State.updTeam_teams (s : State) (k : Nat) (f : Team → Team) : (s.updTeam k f).teams = Tab.change s.teams k f := rfl
@[simp] theorem State.updTeam_launches (s : State) (k : Nat) (f : Team → Team) : (s.updTeam k f).launches = s.launches := rfl
@[simp] theorem State.updTeam_lcs (s : State) (k : Nat) (f : Team → Team) : (s.updTeam k f).lcs = s.lcs := rfl
@[simp] theorem State.updTeam_cores (s : State) (k : Nat) (f : Team → Team) : (s.updTeam k f).cores = s.cores := rfl
@[simp] theorem State.updTeam_pairs (s : State) (k : Nat) (f : Team → Team) : (s.updTeam k f).pairs = s.pairs := rfl
@[simp] theorem State.updTeam_ops (s : State) (k : Nat) (f : Team → Team) : (s.updTeam k f).ops = s.ops := rfl
@[simp] theorem State.updTeam_reqs (s : State) (k : Nat) (f : Team → Team) : (s.updTeam k f).reqs = s.reqs := rfl
@[simp] theorem State.updTeam_cmds (s : State) (k : Nat) (f : Team → Team) : (s.updTeam k f).cmds = s.cmds := rfl
@[simp] theorem State.updTeam_tlbs (s : State) (k : Nat) (f : Team → Team) : (s.updTeam k f).tlbs = s.tlbs := rfl
@[simp] theorem State.updTeam_walks (s : State) (k : Nat) (f : Team → Team) : (s.updTeam k f).walks = s.walks := rfl
@[simp] theorem State.updTeam_l2 (s : State) (k : Nat) (f : Team → Team) : (s.updTeam k f).l2 = s.l2 := rfl
@[simp] theorem State.updTeam_txs (s : State) (k : Nat) (f : Team → Team) : (s.updTeam k f).txs = s.txs := rfl
@[simp] theorem State.updTeam_promotions (s : State) (k : Nat) (f : Team → Team) : (s.updTeam k f).promotions = s.promotions := rfl
@[simp] theorem State.updTeam_dir (s : State) (k : Nat) (f : Team → Team) : (s.updTeam k f).dir = s.dir := rfl
@[simp] theorem State.updTeam_homeTx (s : State) (k : Nat) (f : Team → Team) : (s.updTeam k f).homeTx = s.homeTx := rfl
@[simp] theorem State.updTeam_homeQ (s : State) (k : Nat) (f : Team → Team) : (s.updTeam k f).homeQ = s.homeQ := rfl
@[simp] theorem State.updTeam_pwbs (s : State) (k : Nat) (f : Team → Team) : (s.updTeam k f).pwbs = s.pwbs := rfl
@[simp] theorem State.updTeam_pwbWait (s : State) (k : Nat) (f : Team → Team) : (s.updTeam k f).pwbWait = s.pwbWait := rfl
@[simp] theorem State.updTeam_fab (s : State) (k : Nat) (f : Team → Team) : (s.updTeam k f).fab = s.fab := rfl
@[simp] theorem State.updTeam_reqcap (s : State) (k : Nat) (f : Team → Team) : (s.updTeam k f).reqcap = s.reqcap := rfl
@[simp] theorem State.updTeam_mmpNotes (s : State) (k : Nat) (f : Team → Team) : (s.updTeam k f).mmpNotes = s.mmpNotes := rfl
@[simp] theorem State.updTeam_unmaps (s : State) (k : Nat) (f : Team → Team) : (s.updTeam k f).unmaps = s.unmaps := rfl
@[simp] theorem State.updTeam_frames (s : State) (k : Nat) (f : Team → Team) : (s.updTeam k f).frames = s.frames := rfl
@[simp] theorem State.updTeam_tails (s : State) (k : Nat) (f : Team → Team) : (s.updTeam k f).tails = s.tails := rfl
@[simp] theorem State.updTeam_results (s : State) (k : Nat) (f : Team → Team) : (s.updTeam k f).results = s.results := rfl
@[simp] theorem State.updTeam_unread (s : State) (k : Nat) (f : Team → Team) : (s.updTeam k f).unread = s.unread := rfl
@[simp] theorem State.updTeam_completed (s : State) (k : Nat) (f : Team → Team) : (s.updTeam k f).completed = s.completed := rfl
@[simp] theorem State.updTeam_counters (s : State) (k : Nat) (f : Team → Team) : (s.updTeam k f).counters = s.counters := rfl
@[simp] theorem State.updTeam_pubs (s : State) (k : Nat) (f : Team → Team) : (s.updTeam k f).pubs = s.pubs := rfl
@[simp] theorem State.updTeam_signers (s : State) (k : Nat) (f : Team → Team) : (s.updTeam k f).signers = s.signers := rfl
@[simp] theorem State.updTeam_imported (s : State) (k : Nat) (f : Team → Team) : (s.updTeam k f).imported = s.imported := rfl
@[simp] theorem State.updTeam_fuses (s : State) (k : Nat) (f : Team → Team) : (s.updTeam k f).fuses = s.fuses := rfl
@[simp] theorem State.updTeam_suspects (s : State) (k : Nat) (f : Team → Team) : (s.updTeam k f).suspects = s.suspects := rfl
@[simp] theorem State.updTeam_bumps (s : State) (k : Nat) (f : Team → Team) : (s.updTeam k f).bumps = s.bumps := rfl
@[simp] theorem State.updTeam_io (s : State) (k : Nat) (f : Team → Team) : (s.updTeam k f).io = s.io := rfl
@[simp] theorem State.updTeam_atoms (s : State) (k : Nat) (f : Team → Team) : (s.updTeam k f).atoms = s.atoms := rfl
@[simp] theorem State.updTeam_links (s : State) (k : Nat) (f : Team → Team) : (s.updTeam k f).links = s.links := rfl
@[simp] theorem State.updTeam_vers (s : State) (k : Nat) (f : Team → Team) : (s.updTeam k f).vers = s.vers := rfl
@[simp] theorem State.updTeam_hostOut (s : State) (k : Nat) (f : Team → Team) : (s.updTeam k f).hostOut = s.hostOut := rfl
@[simp] theorem State.updTeam_accepts (s : State) (k : Nat) (f : Team → Team) : (s.updTeam k f).accepts = s.accepts := rfl

/-! ### `State.updLaunch` -/

@[simp] theorem State.updLaunch_ptime (s : State) (k : Nat) (f : Launch → Launch) : (s.updLaunch k f).ptime = s.ptime := rfl
@[simp] theorem State.updLaunch_powered (s : State) (k : Nat) (f : Launch → Launch) : (s.updLaunch k f).powered = s.powered := rfl
@[simp] theorem State.updLaunch_agenda (s : State) (k : Nat) (f : Launch → Launch) : (s.updLaunch k f).agenda = s.agenda := rfl
@[simp] theorem State.updLaunch_picks (s : State) (k : Nat) (f : Launch → Launch) : (s.updLaunch k f).picks = s.picks := rfl
@[simp] theorem State.updLaunch_ticks (s : State) (k : Nat) (f : Launch → Launch) : (s.updLaunch k f).ticks = s.ticks := rfl
@[simp] theorem State.updLaunch_free (s : State) (k : Nat) (f : Launch → Launch) : (s.updLaunch k f).free = s.free := rfl
@[simp] theorem State.updLaunch_nextId (s : State) (k : Nat) (f : Launch → Launch) : (s.updLaunch k f).nextId = s.nextId := rfl
@[simp] theorem State.updLaunch_cur (s : State) (k : Nat) (f : Launch → Launch) : (s.updLaunch k f).cur = s.cur := rfl
@[simp] theorem State.updLaunch_rx (s : State) (k : Nat) (f : Launch → Launch) : (s.updLaunch k f).rx = s.rx := rfl
@[simp] theorem State.updLaunch_mbCopy (s : State) (k : Nat) (f : Launch → Launch) : (s.updLaunch k f).mbCopy = s.mbCopy := rfl
@[simp] theorem State.updLaunch_mem (s : State) (k : Nat) (f : Launch → Launch) : (s.updLaunch k f).mem = s.mem := rfl
@[simp] theorem State.updLaunch_wr (s : State) (k : Nat) (f : Launch → Launch) : (s.updLaunch k f).wr = s.wr := rfl
@[simp] theorem State.updLaunch_poison (s : State) (k : Nat) (f : Launch → Launch) : (s.updLaunch k f).poison = s.poison := rfl
@[simp] theorem State.updLaunch_tables (s : State) (k : Nat) (f : Launch → Launch) : (s.updLaunch k f).tables = s.tables := rfl
@[simp] theorem State.updLaunch_ihsel (s : State) (k : Nat) (f : Launch → Launch) : (s.updLaunch k f).ihsel = s.ihsel := rfl
@[simp] theorem State.updLaunch_regs (s : State) (k : Nat) (f : Launch → Launch) : (s.updLaunch k f).regs = s.regs := rfl
@[simp] theorem State.updLaunch_acc (s : State) (k : Nat) (f : Launch → Launch) : (s.updLaunch k f).acc = s.acc := rfl
@[simp] theorem State.updLaunch_gids (s : State) (k : Nat) (f : Launch → Launch) : (s.updLaunch k f).gids = s.gids := rfl
@[simp] theorem State.updLaunch_teams (s : State) (k : Nat) (f : Launch → Launch) : (s.updLaunch k f).teams = s.teams := rfl
@[simp] theorem State.updLaunch_launches (s : State) (k : Nat) (f : Launch → Launch) : (s.updLaunch k f).launches = Tab.change s.launches k f := rfl
@[simp] theorem State.updLaunch_lcs (s : State) (k : Nat) (f : Launch → Launch) : (s.updLaunch k f).lcs = s.lcs := rfl
@[simp] theorem State.updLaunch_cores (s : State) (k : Nat) (f : Launch → Launch) : (s.updLaunch k f).cores = s.cores := rfl
@[simp] theorem State.updLaunch_pairs (s : State) (k : Nat) (f : Launch → Launch) : (s.updLaunch k f).pairs = s.pairs := rfl
@[simp] theorem State.updLaunch_ops (s : State) (k : Nat) (f : Launch → Launch) : (s.updLaunch k f).ops = s.ops := rfl
@[simp] theorem State.updLaunch_reqs (s : State) (k : Nat) (f : Launch → Launch) : (s.updLaunch k f).reqs = s.reqs := rfl
@[simp] theorem State.updLaunch_cmds (s : State) (k : Nat) (f : Launch → Launch) : (s.updLaunch k f).cmds = s.cmds := rfl
@[simp] theorem State.updLaunch_tlbs (s : State) (k : Nat) (f : Launch → Launch) : (s.updLaunch k f).tlbs = s.tlbs := rfl
@[simp] theorem State.updLaunch_walks (s : State) (k : Nat) (f : Launch → Launch) : (s.updLaunch k f).walks = s.walks := rfl
@[simp] theorem State.updLaunch_l2 (s : State) (k : Nat) (f : Launch → Launch) : (s.updLaunch k f).l2 = s.l2 := rfl
@[simp] theorem State.updLaunch_txs (s : State) (k : Nat) (f : Launch → Launch) : (s.updLaunch k f).txs = s.txs := rfl
@[simp] theorem State.updLaunch_promotions (s : State) (k : Nat) (f : Launch → Launch) : (s.updLaunch k f).promotions = s.promotions := rfl
@[simp] theorem State.updLaunch_dir (s : State) (k : Nat) (f : Launch → Launch) : (s.updLaunch k f).dir = s.dir := rfl
@[simp] theorem State.updLaunch_homeTx (s : State) (k : Nat) (f : Launch → Launch) : (s.updLaunch k f).homeTx = s.homeTx := rfl
@[simp] theorem State.updLaunch_homeQ (s : State) (k : Nat) (f : Launch → Launch) : (s.updLaunch k f).homeQ = s.homeQ := rfl
@[simp] theorem State.updLaunch_pwbs (s : State) (k : Nat) (f : Launch → Launch) : (s.updLaunch k f).pwbs = s.pwbs := rfl
@[simp] theorem State.updLaunch_pwbWait (s : State) (k : Nat) (f : Launch → Launch) : (s.updLaunch k f).pwbWait = s.pwbWait := rfl
@[simp] theorem State.updLaunch_fab (s : State) (k : Nat) (f : Launch → Launch) : (s.updLaunch k f).fab = s.fab := rfl
@[simp] theorem State.updLaunch_reqcap (s : State) (k : Nat) (f : Launch → Launch) : (s.updLaunch k f).reqcap = s.reqcap := rfl
@[simp] theorem State.updLaunch_mmpNotes (s : State) (k : Nat) (f : Launch → Launch) : (s.updLaunch k f).mmpNotes = s.mmpNotes := rfl
@[simp] theorem State.updLaunch_unmaps (s : State) (k : Nat) (f : Launch → Launch) : (s.updLaunch k f).unmaps = s.unmaps := rfl
@[simp] theorem State.updLaunch_frames (s : State) (k : Nat) (f : Launch → Launch) : (s.updLaunch k f).frames = s.frames := rfl
@[simp] theorem State.updLaunch_tails (s : State) (k : Nat) (f : Launch → Launch) : (s.updLaunch k f).tails = s.tails := rfl
@[simp] theorem State.updLaunch_results (s : State) (k : Nat) (f : Launch → Launch) : (s.updLaunch k f).results = s.results := rfl
@[simp] theorem State.updLaunch_unread (s : State) (k : Nat) (f : Launch → Launch) : (s.updLaunch k f).unread = s.unread := rfl
@[simp] theorem State.updLaunch_completed (s : State) (k : Nat) (f : Launch → Launch) : (s.updLaunch k f).completed = s.completed := rfl
@[simp] theorem State.updLaunch_counters (s : State) (k : Nat) (f : Launch → Launch) : (s.updLaunch k f).counters = s.counters := rfl
@[simp] theorem State.updLaunch_pubs (s : State) (k : Nat) (f : Launch → Launch) : (s.updLaunch k f).pubs = s.pubs := rfl
@[simp] theorem State.updLaunch_signers (s : State) (k : Nat) (f : Launch → Launch) : (s.updLaunch k f).signers = s.signers := rfl
@[simp] theorem State.updLaunch_imported (s : State) (k : Nat) (f : Launch → Launch) : (s.updLaunch k f).imported = s.imported := rfl
@[simp] theorem State.updLaunch_fuses (s : State) (k : Nat) (f : Launch → Launch) : (s.updLaunch k f).fuses = s.fuses := rfl
@[simp] theorem State.updLaunch_suspects (s : State) (k : Nat) (f : Launch → Launch) : (s.updLaunch k f).suspects = s.suspects := rfl
@[simp] theorem State.updLaunch_bumps (s : State) (k : Nat) (f : Launch → Launch) : (s.updLaunch k f).bumps = s.bumps := rfl
@[simp] theorem State.updLaunch_io (s : State) (k : Nat) (f : Launch → Launch) : (s.updLaunch k f).io = s.io := rfl
@[simp] theorem State.updLaunch_atoms (s : State) (k : Nat) (f : Launch → Launch) : (s.updLaunch k f).atoms = s.atoms := rfl
@[simp] theorem State.updLaunch_links (s : State) (k : Nat) (f : Launch → Launch) : (s.updLaunch k f).links = s.links := rfl
@[simp] theorem State.updLaunch_vers (s : State) (k : Nat) (f : Launch → Launch) : (s.updLaunch k f).vers = s.vers := rfl
@[simp] theorem State.updLaunch_hostOut (s : State) (k : Nat) (f : Launch → Launch) : (s.updLaunch k f).hostOut = s.hostOut := rfl
@[simp] theorem State.updLaunch_accepts (s : State) (k : Nat) (f : Launch → Launch) : (s.updLaunch k f).accepts = s.accepts := rfl

/-! ### `State.updLc` -/

@[simp] theorem State.updLc_ptime (s : State) (c k : Nat) (f : LaunchCore → LaunchCore) : (s.updLc c k f).ptime = s.ptime := rfl
@[simp] theorem State.updLc_powered (s : State) (c k : Nat) (f : LaunchCore → LaunchCore) : (s.updLc c k f).powered = s.powered := rfl
@[simp] theorem State.updLc_agenda (s : State) (c k : Nat) (f : LaunchCore → LaunchCore) : (s.updLc c k f).agenda = s.agenda := rfl
@[simp] theorem State.updLc_picks (s : State) (c k : Nat) (f : LaunchCore → LaunchCore) : (s.updLc c k f).picks = s.picks := rfl
@[simp] theorem State.updLc_ticks (s : State) (c k : Nat) (f : LaunchCore → LaunchCore) : (s.updLc c k f).ticks = s.ticks := rfl
@[simp] theorem State.updLc_free (s : State) (c k : Nat) (f : LaunchCore → LaunchCore) : (s.updLc c k f).free = s.free := rfl
@[simp] theorem State.updLc_nextId (s : State) (c k : Nat) (f : LaunchCore → LaunchCore) : (s.updLc c k f).nextId = s.nextId := rfl
@[simp] theorem State.updLc_cur (s : State) (c k : Nat) (f : LaunchCore → LaunchCore) : (s.updLc c k f).cur = s.cur := rfl
@[simp] theorem State.updLc_rx (s : State) (c k : Nat) (f : LaunchCore → LaunchCore) : (s.updLc c k f).rx = s.rx := rfl
@[simp] theorem State.updLc_mbCopy (s : State) (c k : Nat) (f : LaunchCore → LaunchCore) : (s.updLc c k f).mbCopy = s.mbCopy := rfl
@[simp] theorem State.updLc_mem (s : State) (c k : Nat) (f : LaunchCore → LaunchCore) : (s.updLc c k f).mem = s.mem := rfl
@[simp] theorem State.updLc_wr (s : State) (c k : Nat) (f : LaunchCore → LaunchCore) : (s.updLc c k f).wr = s.wr := rfl
@[simp] theorem State.updLc_poison (s : State) (c k : Nat) (f : LaunchCore → LaunchCore) : (s.updLc c k f).poison = s.poison := rfl
@[simp] theorem State.updLc_tables (s : State) (c k : Nat) (f : LaunchCore → LaunchCore) : (s.updLc c k f).tables = s.tables := rfl
@[simp] theorem State.updLc_ihsel (s : State) (c k : Nat) (f : LaunchCore → LaunchCore) : (s.updLc c k f).ihsel = s.ihsel := rfl
@[simp] theorem State.updLc_regs (s : State) (c k : Nat) (f : LaunchCore → LaunchCore) : (s.updLc c k f).regs = s.regs := rfl
@[simp] theorem State.updLc_acc (s : State) (c k : Nat) (f : LaunchCore → LaunchCore) : (s.updLc c k f).acc = s.acc := rfl
@[simp] theorem State.updLc_gids (s : State) (c k : Nat) (f : LaunchCore → LaunchCore) : (s.updLc c k f).gids = s.gids := rfl
@[simp] theorem State.updLc_teams (s : State) (c k : Nat) (f : LaunchCore → LaunchCore) : (s.updLc c k f).teams = s.teams := rfl
@[simp] theorem State.updLc_launches (s : State) (c k : Nat) (f : LaunchCore → LaunchCore) : (s.updLc c k f).launches = s.launches := rfl
@[simp] theorem State.updLc_lcs (s : State) (c k : Nat) (f : LaunchCore → LaunchCore) : (s.updLc c k f).lcs = Tab.upd {} s.lcs (2 * c + k) f := rfl
@[simp] theorem State.updLc_cores (s : State) (c k : Nat) (f : LaunchCore → LaunchCore) : (s.updLc c k f).cores = s.cores := rfl
@[simp] theorem State.updLc_pairs (s : State) (c k : Nat) (f : LaunchCore → LaunchCore) : (s.updLc c k f).pairs = s.pairs := rfl
@[simp] theorem State.updLc_ops (s : State) (c k : Nat) (f : LaunchCore → LaunchCore) : (s.updLc c k f).ops = s.ops := rfl
@[simp] theorem State.updLc_reqs (s : State) (c k : Nat) (f : LaunchCore → LaunchCore) : (s.updLc c k f).reqs = s.reqs := rfl
@[simp] theorem State.updLc_cmds (s : State) (c k : Nat) (f : LaunchCore → LaunchCore) : (s.updLc c k f).cmds = s.cmds := rfl
@[simp] theorem State.updLc_tlbs (s : State) (c k : Nat) (f : LaunchCore → LaunchCore) : (s.updLc c k f).tlbs = s.tlbs := rfl
@[simp] theorem State.updLc_walks (s : State) (c k : Nat) (f : LaunchCore → LaunchCore) : (s.updLc c k f).walks = s.walks := rfl
@[simp] theorem State.updLc_l2 (s : State) (c k : Nat) (f : LaunchCore → LaunchCore) : (s.updLc c k f).l2 = s.l2 := rfl
@[simp] theorem State.updLc_txs (s : State) (c k : Nat) (f : LaunchCore → LaunchCore) : (s.updLc c k f).txs = s.txs := rfl
@[simp] theorem State.updLc_promotions (s : State) (c k : Nat) (f : LaunchCore → LaunchCore) : (s.updLc c k f).promotions = s.promotions := rfl
@[simp] theorem State.updLc_dir (s : State) (c k : Nat) (f : LaunchCore → LaunchCore) : (s.updLc c k f).dir = s.dir := rfl
@[simp] theorem State.updLc_homeTx (s : State) (c k : Nat) (f : LaunchCore → LaunchCore) : (s.updLc c k f).homeTx = s.homeTx := rfl
@[simp] theorem State.updLc_homeQ (s : State) (c k : Nat) (f : LaunchCore → LaunchCore) : (s.updLc c k f).homeQ = s.homeQ := rfl
@[simp] theorem State.updLc_pwbs (s : State) (c k : Nat) (f : LaunchCore → LaunchCore) : (s.updLc c k f).pwbs = s.pwbs := rfl
@[simp] theorem State.updLc_pwbWait (s : State) (c k : Nat) (f : LaunchCore → LaunchCore) : (s.updLc c k f).pwbWait = s.pwbWait := rfl
@[simp] theorem State.updLc_fab (s : State) (c k : Nat) (f : LaunchCore → LaunchCore) : (s.updLc c k f).fab = s.fab := rfl
@[simp] theorem State.updLc_reqcap (s : State) (c k : Nat) (f : LaunchCore → LaunchCore) : (s.updLc c k f).reqcap = s.reqcap := rfl
@[simp] theorem State.updLc_mmpNotes (s : State) (c k : Nat) (f : LaunchCore → LaunchCore) : (s.updLc c k f).mmpNotes = s.mmpNotes := rfl
@[simp] theorem State.updLc_unmaps (s : State) (c k : Nat) (f : LaunchCore → LaunchCore) : (s.updLc c k f).unmaps = s.unmaps := rfl
@[simp] theorem State.updLc_frames (s : State) (c k : Nat) (f : LaunchCore → LaunchCore) : (s.updLc c k f).frames = s.frames := rfl
@[simp] theorem State.updLc_tails (s : State) (c k : Nat) (f : LaunchCore → LaunchCore) : (s.updLc c k f).tails = s.tails := rfl
@[simp] theorem State.updLc_results (s : State) (c k : Nat) (f : LaunchCore → LaunchCore) : (s.updLc c k f).results = s.results := rfl
@[simp] theorem State.updLc_unread (s : State) (c k : Nat) (f : LaunchCore → LaunchCore) : (s.updLc c k f).unread = s.unread := rfl
@[simp] theorem State.updLc_completed (s : State) (c k : Nat) (f : LaunchCore → LaunchCore) : (s.updLc c k f).completed = s.completed := rfl
@[simp] theorem State.updLc_counters (s : State) (c k : Nat) (f : LaunchCore → LaunchCore) : (s.updLc c k f).counters = s.counters := rfl
@[simp] theorem State.updLc_pubs (s : State) (c k : Nat) (f : LaunchCore → LaunchCore) : (s.updLc c k f).pubs = s.pubs := rfl
@[simp] theorem State.updLc_signers (s : State) (c k : Nat) (f : LaunchCore → LaunchCore) : (s.updLc c k f).signers = s.signers := rfl
@[simp] theorem State.updLc_imported (s : State) (c k : Nat) (f : LaunchCore → LaunchCore) : (s.updLc c k f).imported = s.imported := rfl
@[simp] theorem State.updLc_fuses (s : State) (c k : Nat) (f : LaunchCore → LaunchCore) : (s.updLc c k f).fuses = s.fuses := rfl
@[simp] theorem State.updLc_suspects (s : State) (c k : Nat) (f : LaunchCore → LaunchCore) : (s.updLc c k f).suspects = s.suspects := rfl
@[simp] theorem State.updLc_bumps (s : State) (c k : Nat) (f : LaunchCore → LaunchCore) : (s.updLc c k f).bumps = s.bumps := rfl
@[simp] theorem State.updLc_io (s : State) (c k : Nat) (f : LaunchCore → LaunchCore) : (s.updLc c k f).io = s.io := rfl
@[simp] theorem State.updLc_atoms (s : State) (c k : Nat) (f : LaunchCore → LaunchCore) : (s.updLc c k f).atoms = s.atoms := rfl
@[simp] theorem State.updLc_links (s : State) (c k : Nat) (f : LaunchCore → LaunchCore) : (s.updLc c k f).links = s.links := rfl
@[simp] theorem State.updLc_vers (s : State) (c k : Nat) (f : LaunchCore → LaunchCore) : (s.updLc c k f).vers = s.vers := rfl
@[simp] theorem State.updLc_hostOut (s : State) (c k : Nat) (f : LaunchCore → LaunchCore) : (s.updLc c k f).hostOut = s.hostOut := rfl
@[simp] theorem State.updLc_accepts (s : State) (c k : Nat) (f : LaunchCore → LaunchCore) : (s.updLc c k f).accepts = s.accepts := rfl

/-! ### `State.updCore` -/

@[simp] theorem State.updCore_ptime (s : State) (k : Nat) (f : Core → Core) : (s.updCore k f).ptime = s.ptime := rfl
@[simp] theorem State.updCore_powered (s : State) (k : Nat) (f : Core → Core) : (s.updCore k f).powered = s.powered := rfl
@[simp] theorem State.updCore_agenda (s : State) (k : Nat) (f : Core → Core) : (s.updCore k f).agenda = s.agenda := rfl
@[simp] theorem State.updCore_picks (s : State) (k : Nat) (f : Core → Core) : (s.updCore k f).picks = s.picks := rfl
@[simp] theorem State.updCore_ticks (s : State) (k : Nat) (f : Core → Core) : (s.updCore k f).ticks = s.ticks := rfl
@[simp] theorem State.updCore_free (s : State) (k : Nat) (f : Core → Core) : (s.updCore k f).free = s.free := rfl
@[simp] theorem State.updCore_nextId (s : State) (k : Nat) (f : Core → Core) : (s.updCore k f).nextId = s.nextId := rfl
@[simp] theorem State.updCore_cur (s : State) (k : Nat) (f : Core → Core) : (s.updCore k f).cur = s.cur := rfl
@[simp] theorem State.updCore_rx (s : State) (k : Nat) (f : Core → Core) : (s.updCore k f).rx = s.rx := rfl
@[simp] theorem State.updCore_mbCopy (s : State) (k : Nat) (f : Core → Core) : (s.updCore k f).mbCopy = s.mbCopy := rfl
@[simp] theorem State.updCore_mem (s : State) (k : Nat) (f : Core → Core) : (s.updCore k f).mem = s.mem := rfl
@[simp] theorem State.updCore_wr (s : State) (k : Nat) (f : Core → Core) : (s.updCore k f).wr = s.wr := rfl
@[simp] theorem State.updCore_poison (s : State) (k : Nat) (f : Core → Core) : (s.updCore k f).poison = s.poison := rfl
@[simp] theorem State.updCore_tables (s : State) (k : Nat) (f : Core → Core) : (s.updCore k f).tables = s.tables := rfl
@[simp] theorem State.updCore_ihsel (s : State) (k : Nat) (f : Core → Core) : (s.updCore k f).ihsel = s.ihsel := rfl
@[simp] theorem State.updCore_regs (s : State) (k : Nat) (f : Core → Core) : (s.updCore k f).regs = s.regs := rfl
@[simp] theorem State.updCore_acc (s : State) (k : Nat) (f : Core → Core) : (s.updCore k f).acc = s.acc := rfl
@[simp] theorem State.updCore_gids (s : State) (k : Nat) (f : Core → Core) : (s.updCore k f).gids = s.gids := rfl
@[simp] theorem State.updCore_teams (s : State) (k : Nat) (f : Core → Core) : (s.updCore k f).teams = s.teams := rfl
@[simp] theorem State.updCore_launches (s : State) (k : Nat) (f : Core → Core) : (s.updCore k f).launches = s.launches := rfl
@[simp] theorem State.updCore_lcs (s : State) (k : Nat) (f : Core → Core) : (s.updCore k f).lcs = s.lcs := rfl
@[simp] theorem State.updCore_cores (s : State) (k : Nat) (f : Core → Core) : (s.updCore k f).cores = Tab.upd {} s.cores k f := rfl
@[simp] theorem State.updCore_pairs (s : State) (k : Nat) (f : Core → Core) : (s.updCore k f).pairs = s.pairs := rfl
@[simp] theorem State.updCore_ops (s : State) (k : Nat) (f : Core → Core) : (s.updCore k f).ops = s.ops := rfl
@[simp] theorem State.updCore_reqs (s : State) (k : Nat) (f : Core → Core) : (s.updCore k f).reqs = s.reqs := rfl
@[simp] theorem State.updCore_cmds (s : State) (k : Nat) (f : Core → Core) : (s.updCore k f).cmds = s.cmds := rfl
@[simp] theorem State.updCore_tlbs (s : State) (k : Nat) (f : Core → Core) : (s.updCore k f).tlbs = s.tlbs := rfl
@[simp] theorem State.updCore_walks (s : State) (k : Nat) (f : Core → Core) : (s.updCore k f).walks = s.walks := rfl
@[simp] theorem State.updCore_l2 (s : State) (k : Nat) (f : Core → Core) : (s.updCore k f).l2 = s.l2 := rfl
@[simp] theorem State.updCore_txs (s : State) (k : Nat) (f : Core → Core) : (s.updCore k f).txs = s.txs := rfl
@[simp] theorem State.updCore_promotions (s : State) (k : Nat) (f : Core → Core) : (s.updCore k f).promotions = s.promotions := rfl
@[simp] theorem State.updCore_dir (s : State) (k : Nat) (f : Core → Core) : (s.updCore k f).dir = s.dir := rfl
@[simp] theorem State.updCore_homeTx (s : State) (k : Nat) (f : Core → Core) : (s.updCore k f).homeTx = s.homeTx := rfl
@[simp] theorem State.updCore_homeQ (s : State) (k : Nat) (f : Core → Core) : (s.updCore k f).homeQ = s.homeQ := rfl
@[simp] theorem State.updCore_pwbs (s : State) (k : Nat) (f : Core → Core) : (s.updCore k f).pwbs = s.pwbs := rfl
@[simp] theorem State.updCore_pwbWait (s : State) (k : Nat) (f : Core → Core) : (s.updCore k f).pwbWait = s.pwbWait := rfl
@[simp] theorem State.updCore_fab (s : State) (k : Nat) (f : Core → Core) : (s.updCore k f).fab = s.fab := rfl
@[simp] theorem State.updCore_reqcap (s : State) (k : Nat) (f : Core → Core) : (s.updCore k f).reqcap = s.reqcap := rfl
@[simp] theorem State.updCore_mmpNotes (s : State) (k : Nat) (f : Core → Core) : (s.updCore k f).mmpNotes = s.mmpNotes := rfl
@[simp] theorem State.updCore_unmaps (s : State) (k : Nat) (f : Core → Core) : (s.updCore k f).unmaps = s.unmaps := rfl
@[simp] theorem State.updCore_frames (s : State) (k : Nat) (f : Core → Core) : (s.updCore k f).frames = s.frames := rfl
@[simp] theorem State.updCore_tails (s : State) (k : Nat) (f : Core → Core) : (s.updCore k f).tails = s.tails := rfl
@[simp] theorem State.updCore_results (s : State) (k : Nat) (f : Core → Core) : (s.updCore k f).results = s.results := rfl
@[simp] theorem State.updCore_unread (s : State) (k : Nat) (f : Core → Core) : (s.updCore k f).unread = s.unread := rfl
@[simp] theorem State.updCore_completed (s : State) (k : Nat) (f : Core → Core) : (s.updCore k f).completed = s.completed := rfl
@[simp] theorem State.updCore_counters (s : State) (k : Nat) (f : Core → Core) : (s.updCore k f).counters = s.counters := rfl
@[simp] theorem State.updCore_pubs (s : State) (k : Nat) (f : Core → Core) : (s.updCore k f).pubs = s.pubs := rfl
@[simp] theorem State.updCore_signers (s : State) (k : Nat) (f : Core → Core) : (s.updCore k f).signers = s.signers := rfl
@[simp] theorem State.updCore_imported (s : State) (k : Nat) (f : Core → Core) : (s.updCore k f).imported = s.imported := rfl
@[simp] theorem State.updCore_fuses (s : State) (k : Nat) (f : Core → Core) : (s.updCore k f).fuses = s.fuses := rfl
@[simp] theorem State.updCore_suspects (s : State) (k : Nat) (f : Core → Core) : (s.updCore k f).suspects = s.suspects := rfl
@[simp] theorem State.updCore_bumps (s : State) (k : Nat) (f : Core → Core) : (s.updCore k f).bumps = s.bumps := rfl
@[simp] theorem State.updCore_io (s : State) (k : Nat) (f : Core → Core) : (s.updCore k f).io = s.io := rfl
@[simp] theorem State.updCore_atoms (s : State) (k : Nat) (f : Core → Core) : (s.updCore k f).atoms = s.atoms := rfl
@[simp] theorem State.updCore_links (s : State) (k : Nat) (f : Core → Core) : (s.updCore k f).links = s.links := rfl
@[simp] theorem State.updCore_vers (s : State) (k : Nat) (f : Core → Core) : (s.updCore k f).vers = s.vers := rfl
@[simp] theorem State.updCore_hostOut (s : State) (k : Nat) (f : Core → Core) : (s.updCore k f).hostOut = s.hostOut := rfl
@[simp] theorem State.updCore_accepts (s : State) (k : Nat) (f : Core → Core) : (s.updCore k f).accepts = s.accepts := rfl

/-! ### `State.updPair` -/

@[simp] theorem State.updPair_ptime (s : State) (k : Nat) (f : Pair → Pair) : (s.updPair k f).ptime = s.ptime := rfl
@[simp] theorem State.updPair_powered (s : State) (k : Nat) (f : Pair → Pair) : (s.updPair k f).powered = s.powered := rfl
@[simp] theorem State.updPair_agenda (s : State) (k : Nat) (f : Pair → Pair) : (s.updPair k f).agenda = s.agenda := rfl
@[simp] theorem State.updPair_picks (s : State) (k : Nat) (f : Pair → Pair) : (s.updPair k f).picks = s.picks := rfl
@[simp] theorem State.updPair_ticks (s : State) (k : Nat) (f : Pair → Pair) : (s.updPair k f).ticks = s.ticks := rfl
@[simp] theorem State.updPair_free (s : State) (k : Nat) (f : Pair → Pair) : (s.updPair k f).free = s.free := rfl
@[simp] theorem State.updPair_nextId (s : State) (k : Nat) (f : Pair → Pair) : (s.updPair k f).nextId = s.nextId := rfl
@[simp] theorem State.updPair_cur (s : State) (k : Nat) (f : Pair → Pair) : (s.updPair k f).cur = s.cur := rfl
@[simp] theorem State.updPair_rx (s : State) (k : Nat) (f : Pair → Pair) : (s.updPair k f).rx = s.rx := rfl
@[simp] theorem State.updPair_mbCopy (s : State) (k : Nat) (f : Pair → Pair) : (s.updPair k f).mbCopy = s.mbCopy := rfl
@[simp] theorem State.updPair_mem (s : State) (k : Nat) (f : Pair → Pair) : (s.updPair k f).mem = s.mem := rfl
@[simp] theorem State.updPair_wr (s : State) (k : Nat) (f : Pair → Pair) : (s.updPair k f).wr = s.wr := rfl
@[simp] theorem State.updPair_poison (s : State) (k : Nat) (f : Pair → Pair) : (s.updPair k f).poison = s.poison := rfl
@[simp] theorem State.updPair_tables (s : State) (k : Nat) (f : Pair → Pair) : (s.updPair k f).tables = s.tables := rfl
@[simp] theorem State.updPair_ihsel (s : State) (k : Nat) (f : Pair → Pair) : (s.updPair k f).ihsel = s.ihsel := rfl
@[simp] theorem State.updPair_regs (s : State) (k : Nat) (f : Pair → Pair) : (s.updPair k f).regs = s.regs := rfl
@[simp] theorem State.updPair_acc (s : State) (k : Nat) (f : Pair → Pair) : (s.updPair k f).acc = s.acc := rfl
@[simp] theorem State.updPair_gids (s : State) (k : Nat) (f : Pair → Pair) : (s.updPair k f).gids = s.gids := rfl
@[simp] theorem State.updPair_teams (s : State) (k : Nat) (f : Pair → Pair) : (s.updPair k f).teams = s.teams := rfl
@[simp] theorem State.updPair_launches (s : State) (k : Nat) (f : Pair → Pair) : (s.updPair k f).launches = s.launches := rfl
@[simp] theorem State.updPair_lcs (s : State) (k : Nat) (f : Pair → Pair) : (s.updPair k f).lcs = s.lcs := rfl
@[simp] theorem State.updPair_cores (s : State) (k : Nat) (f : Pair → Pair) : (s.updPair k f).cores = s.cores := rfl
@[simp] theorem State.updPair_pairs (s : State) (k : Nat) (f : Pair → Pair) : (s.updPair k f).pairs = Tab.upd {} s.pairs k f := rfl
@[simp] theorem State.updPair_ops (s : State) (k : Nat) (f : Pair → Pair) : (s.updPair k f).ops = s.ops := rfl
@[simp] theorem State.updPair_reqs (s : State) (k : Nat) (f : Pair → Pair) : (s.updPair k f).reqs = s.reqs := rfl
@[simp] theorem State.updPair_cmds (s : State) (k : Nat) (f : Pair → Pair) : (s.updPair k f).cmds = s.cmds := rfl
@[simp] theorem State.updPair_tlbs (s : State) (k : Nat) (f : Pair → Pair) : (s.updPair k f).tlbs = s.tlbs := rfl
@[simp] theorem State.updPair_walks (s : State) (k : Nat) (f : Pair → Pair) : (s.updPair k f).walks = s.walks := rfl
@[simp] theorem State.updPair_l2 (s : State) (k : Nat) (f : Pair → Pair) : (s.updPair k f).l2 = s.l2 := rfl
@[simp] theorem State.updPair_txs (s : State) (k : Nat) (f : Pair → Pair) : (s.updPair k f).txs = s.txs := rfl
@[simp] theorem State.updPair_promotions (s : State) (k : Nat) (f : Pair → Pair) : (s.updPair k f).promotions = s.promotions := rfl
@[simp] theorem State.updPair_dir (s : State) (k : Nat) (f : Pair → Pair) : (s.updPair k f).dir = s.dir := rfl
@[simp] theorem State.updPair_homeTx (s : State) (k : Nat) (f : Pair → Pair) : (s.updPair k f).homeTx = s.homeTx := rfl
@[simp] theorem State.updPair_homeQ (s : State) (k : Nat) (f : Pair → Pair) : (s.updPair k f).homeQ = s.homeQ := rfl
@[simp] theorem State.updPair_pwbs (s : State) (k : Nat) (f : Pair → Pair) : (s.updPair k f).pwbs = s.pwbs := rfl
@[simp] theorem State.updPair_pwbWait (s : State) (k : Nat) (f : Pair → Pair) : (s.updPair k f).pwbWait = s.pwbWait := rfl
@[simp] theorem State.updPair_fab (s : State) (k : Nat) (f : Pair → Pair) : (s.updPair k f).fab = s.fab := rfl
@[simp] theorem State.updPair_reqcap (s : State) (k : Nat) (f : Pair → Pair) : (s.updPair k f).reqcap = s.reqcap := rfl
@[simp] theorem State.updPair_mmpNotes (s : State) (k : Nat) (f : Pair → Pair) : (s.updPair k f).mmpNotes = s.mmpNotes := rfl
@[simp] theorem State.updPair_unmaps (s : State) (k : Nat) (f : Pair → Pair) : (s.updPair k f).unmaps = s.unmaps := rfl
@[simp] theorem State.updPair_frames (s : State) (k : Nat) (f : Pair → Pair) : (s.updPair k f).frames = s.frames := rfl
@[simp] theorem State.updPair_tails (s : State) (k : Nat) (f : Pair → Pair) : (s.updPair k f).tails = s.tails := rfl
@[simp] theorem State.updPair_results (s : State) (k : Nat) (f : Pair → Pair) : (s.updPair k f).results = s.results := rfl
@[simp] theorem State.updPair_unread (s : State) (k : Nat) (f : Pair → Pair) : (s.updPair k f).unread = s.unread := rfl
@[simp] theorem State.updPair_completed (s : State) (k : Nat) (f : Pair → Pair) : (s.updPair k f).completed = s.completed := rfl
@[simp] theorem State.updPair_counters (s : State) (k : Nat) (f : Pair → Pair) : (s.updPair k f).counters = s.counters := rfl
@[simp] theorem State.updPair_pubs (s : State) (k : Nat) (f : Pair → Pair) : (s.updPair k f).pubs = s.pubs := rfl
@[simp] theorem State.updPair_signers (s : State) (k : Nat) (f : Pair → Pair) : (s.updPair k f).signers = s.signers := rfl
@[simp] theorem State.updPair_imported (s : State) (k : Nat) (f : Pair → Pair) : (s.updPair k f).imported = s.imported := rfl
@[simp] theorem State.updPair_fuses (s : State) (k : Nat) (f : Pair → Pair) : (s.updPair k f).fuses = s.fuses := rfl
@[simp] theorem State.updPair_suspects (s : State) (k : Nat) (f : Pair → Pair) : (s.updPair k f).suspects = s.suspects := rfl
@[simp] theorem State.updPair_bumps (s : State) (k : Nat) (f : Pair → Pair) : (s.updPair k f).bumps = s.bumps := rfl
@[simp] theorem State.updPair_io (s : State) (k : Nat) (f : Pair → Pair) : (s.updPair k f).io = s.io := rfl
@[simp] theorem State.updPair_atoms (s : State) (k : Nat) (f : Pair → Pair) : (s.updPair k f).atoms = s.atoms := rfl
@[simp] theorem State.updPair_links (s : State) (k : Nat) (f : Pair → Pair) : (s.updPair k f).links = s.links := rfl
@[simp] theorem State.updPair_vers (s : State) (k : Nat) (f : Pair → Pair) : (s.updPair k f).vers = s.vers := rfl
@[simp] theorem State.updPair_hostOut (s : State) (k : Nat) (f : Pair → Pair) : (s.updPair k f).hostOut = s.hostOut := rfl
@[simp] theorem State.updPair_accepts (s : State) (k : Nat) (f : Pair → Pair) : (s.updPair k f).accepts = s.accepts := rfl

/-! ### `State.setReg` -/

@[simp] theorem State.setReg_ptime (s : State) (p o : Nat) (v : Dword) : (s.setReg p o v).ptime = s.ptime := rfl
@[simp] theorem State.setReg_powered (s : State) (p o : Nat) (v : Dword) : (s.setReg p o v).powered = s.powered := rfl
@[simp] theorem State.setReg_agenda (s : State) (p o : Nat) (v : Dword) : (s.setReg p o v).agenda = s.agenda := rfl
@[simp] theorem State.setReg_picks (s : State) (p o : Nat) (v : Dword) : (s.setReg p o v).picks = s.picks := rfl
@[simp] theorem State.setReg_ticks (s : State) (p o : Nat) (v : Dword) : (s.setReg p o v).ticks = s.ticks := rfl
@[simp] theorem State.setReg_free (s : State) (p o : Nat) (v : Dword) : (s.setReg p o v).free = s.free := rfl
@[simp] theorem State.setReg_nextId (s : State) (p o : Nat) (v : Dword) : (s.setReg p o v).nextId = s.nextId := rfl
@[simp] theorem State.setReg_cur (s : State) (p o : Nat) (v : Dword) : (s.setReg p o v).cur = s.cur := rfl
@[simp] theorem State.setReg_rx (s : State) (p o : Nat) (v : Dword) : (s.setReg p o v).rx = s.rx := rfl
@[simp] theorem State.setReg_mbCopy (s : State) (p o : Nat) (v : Dword) : (s.setReg p o v).mbCopy = s.mbCopy := rfl
@[simp] theorem State.setReg_mem (s : State) (p o : Nat) (v : Dword) : (s.setReg p o v).mem = s.mem := rfl
@[simp] theorem State.setReg_wr (s : State) (p o : Nat) (v : Dword) : (s.setReg p o v).wr = s.wr := rfl
@[simp] theorem State.setReg_poison (s : State) (p o : Nat) (v : Dword) : (s.setReg p o v).poison = s.poison := rfl
@[simp] theorem State.setReg_tables (s : State) (p o : Nat) (v : Dword) : (s.setReg p o v).tables = s.tables := rfl
@[simp] theorem State.setReg_ihsel (s : State) (p o : Nat) (v : Dword) : (s.setReg p o v).ihsel = s.ihsel := rfl
@[simp] theorem State.setReg_regs (s : State) (p o : Nat) (v : Dword) : (s.setReg p o v).regs = Tab.set (regDefault s.tables p o) s.regs (regKey p o) v := rfl
@[simp] theorem State.setReg_acc (s : State) (p o : Nat) (v : Dword) : (s.setReg p o v).acc = s.acc := rfl
@[simp] theorem State.setReg_gids (s : State) (p o : Nat) (v : Dword) : (s.setReg p o v).gids = s.gids := rfl
@[simp] theorem State.setReg_teams (s : State) (p o : Nat) (v : Dword) : (s.setReg p o v).teams = s.teams := rfl
@[simp] theorem State.setReg_launches (s : State) (p o : Nat) (v : Dword) : (s.setReg p o v).launches = s.launches := rfl
@[simp] theorem State.setReg_lcs (s : State) (p o : Nat) (v : Dword) : (s.setReg p o v).lcs = s.lcs := rfl
@[simp] theorem State.setReg_cores (s : State) (p o : Nat) (v : Dword) : (s.setReg p o v).cores = s.cores := rfl
@[simp] theorem State.setReg_pairs (s : State) (p o : Nat) (v : Dword) : (s.setReg p o v).pairs = s.pairs := rfl
@[simp] theorem State.setReg_ops (s : State) (p o : Nat) (v : Dword) : (s.setReg p o v).ops = s.ops := rfl
@[simp] theorem State.setReg_reqs (s : State) (p o : Nat) (v : Dword) : (s.setReg p o v).reqs = s.reqs := rfl
@[simp] theorem State.setReg_cmds (s : State) (p o : Nat) (v : Dword) : (s.setReg p o v).cmds = s.cmds := rfl
@[simp] theorem State.setReg_tlbs (s : State) (p o : Nat) (v : Dword) : (s.setReg p o v).tlbs = s.tlbs := rfl
@[simp] theorem State.setReg_walks (s : State) (p o : Nat) (v : Dword) : (s.setReg p o v).walks = s.walks := rfl
@[simp] theorem State.setReg_l2 (s : State) (p o : Nat) (v : Dword) : (s.setReg p o v).l2 = s.l2 := rfl
@[simp] theorem State.setReg_txs (s : State) (p o : Nat) (v : Dword) : (s.setReg p o v).txs = s.txs := rfl
@[simp] theorem State.setReg_promotions (s : State) (p o : Nat) (v : Dword) : (s.setReg p o v).promotions = s.promotions := rfl
@[simp] theorem State.setReg_dir (s : State) (p o : Nat) (v : Dword) : (s.setReg p o v).dir = s.dir := rfl
@[simp] theorem State.setReg_homeTx (s : State) (p o : Nat) (v : Dword) : (s.setReg p o v).homeTx = s.homeTx := rfl
@[simp] theorem State.setReg_homeQ (s : State) (p o : Nat) (v : Dword) : (s.setReg p o v).homeQ = s.homeQ := rfl
@[simp] theorem State.setReg_pwbs (s : State) (p o : Nat) (v : Dword) : (s.setReg p o v).pwbs = s.pwbs := rfl
@[simp] theorem State.setReg_pwbWait (s : State) (p o : Nat) (v : Dword) : (s.setReg p o v).pwbWait = s.pwbWait := rfl
@[simp] theorem State.setReg_fab (s : State) (p o : Nat) (v : Dword) : (s.setReg p o v).fab = s.fab := rfl
@[simp] theorem State.setReg_reqcap (s : State) (p o : Nat) (v : Dword) : (s.setReg p o v).reqcap = s.reqcap := rfl
@[simp] theorem State.setReg_mmpNotes (s : State) (p o : Nat) (v : Dword) : (s.setReg p o v).mmpNotes = s.mmpNotes := rfl
@[simp] theorem State.setReg_unmaps (s : State) (p o : Nat) (v : Dword) : (s.setReg p o v).unmaps = s.unmaps := rfl
@[simp] theorem State.setReg_frames (s : State) (p o : Nat) (v : Dword) : (s.setReg p o v).frames = s.frames := rfl
@[simp] theorem State.setReg_tails (s : State) (p o : Nat) (v : Dword) : (s.setReg p o v).tails = s.tails := rfl
@[simp] theorem State.setReg_results (s : State) (p o : Nat) (v : Dword) : (s.setReg p o v).results = s.results := rfl
@[simp] theorem State.setReg_unread (s : State) (p o : Nat) (v : Dword) : (s.setReg p o v).unread = s.unread := rfl
@[simp] theorem State.setReg_completed (s : State) (p o : Nat) (v : Dword) : (s.setReg p o v).completed = s.completed := rfl
@[simp] theorem State.setReg_counters (s : State) (p o : Nat) (v : Dword) : (s.setReg p o v).counters = s.counters := rfl
@[simp] theorem State.setReg_pubs (s : State) (p o : Nat) (v : Dword) : (s.setReg p o v).pubs = s.pubs := rfl
@[simp] theorem State.setReg_signers (s : State) (p o : Nat) (v : Dword) : (s.setReg p o v).signers = s.signers := rfl
@[simp] theorem State.setReg_imported (s : State) (p o : Nat) (v : Dword) : (s.setReg p o v).imported = s.imported := rfl
@[simp] theorem State.setReg_fuses (s : State) (p o : Nat) (v : Dword) : (s.setReg p o v).fuses = s.fuses := rfl
@[simp] theorem State.setReg_suspects (s : State) (p o : Nat) (v : Dword) : (s.setReg p o v).suspects = s.suspects := rfl
@[simp] theorem State.setReg_bumps (s : State) (p o : Nat) (v : Dword) : (s.setReg p o v).bumps = s.bumps := rfl
@[simp] theorem State.setReg_io (s : State) (p o : Nat) (v : Dword) : (s.setReg p o v).io = s.io := rfl
@[simp] theorem State.setReg_atoms (s : State) (p o : Nat) (v : Dword) : (s.setReg p o v).atoms = s.atoms := rfl
@[simp] theorem State.setReg_links (s : State) (p o : Nat) (v : Dword) : (s.setReg p o v).links = s.links := rfl
@[simp] theorem State.setReg_vers (s : State) (p o : Nat) (v : Dword) : (s.setReg p o v).vers = s.vers := rfl
@[simp] theorem State.setReg_hostOut (s : State) (p o : Nat) (v : Dword) : (s.setReg p o v).hostOut = s.hostOut := rfl
@[simp] theorem State.setReg_accepts (s : State) (p o : Nat) (v : Dword) : (s.setReg p o v).accepts = s.accepts := rfl

/-! ### `State.post` -/

@[simp] theorem State.post_ptime (s : State) (n : Nat) (d : Due) : (s.post n d).ptime = s.ptime := rfl
@[simp] theorem State.post_powered (s : State) (n : Nat) (d : Due) : (s.post n d).powered = s.powered := rfl
@[simp] theorem State.post_agenda (s : State) (n : Nat) (d : Due) : (s.post n d).agenda = s.agenda ++ [(n, d)] := rfl
@[simp] theorem State.post_picks (s : State) (n : Nat) (d : Due) : (s.post n d).picks = s.picks := rfl
@[simp] theorem State.post_ticks (s : State) (n : Nat) (d : Due) : (s.post n d).ticks = s.ticks := rfl
@[simp] theorem State.post_free (s : State) (n : Nat) (d : Due) : (s.post n d).free = s.free := rfl
@[simp] theorem State.post_nextId (s : State) (n : Nat) (d : Due) : (s.post n d).nextId = s.nextId := rfl
@[simp] theorem State.post_cur (s : State) (n : Nat) (d : Due) : (s.post n d).cur = s.cur := rfl
@[simp] theorem State.post_rx (s : State) (n : Nat) (d : Due) : (s.post n d).rx = s.rx := rfl
@[simp] theorem State.post_mbCopy (s : State) (n : Nat) (d : Due) : (s.post n d).mbCopy = s.mbCopy := rfl
@[simp] theorem State.post_mem (s : State) (n : Nat) (d : Due) : (s.post n d).mem = s.mem := rfl
@[simp] theorem State.post_wr (s : State) (n : Nat) (d : Due) : (s.post n d).wr = s.wr := rfl
@[simp] theorem State.post_poison (s : State) (n : Nat) (d : Due) : (s.post n d).poison = s.poison := rfl
@[simp] theorem State.post_tables (s : State) (n : Nat) (d : Due) : (s.post n d).tables = s.tables := rfl
@[simp] theorem State.post_ihsel (s : State) (n : Nat) (d : Due) : (s.post n d).ihsel = s.ihsel := rfl
@[simp] theorem State.post_regs (s : State) (n : Nat) (d : Due) : (s.post n d).regs = s.regs := rfl
@[simp] theorem State.post_acc (s : State) (n : Nat) (d : Due) : (s.post n d).acc = s.acc := rfl
@[simp] theorem State.post_gids (s : State) (n : Nat) (d : Due) : (s.post n d).gids = s.gids := rfl
@[simp] theorem State.post_teams (s : State) (n : Nat) (d : Due) : (s.post n d).teams = s.teams := rfl
@[simp] theorem State.post_launches (s : State) (n : Nat) (d : Due) : (s.post n d).launches = s.launches := rfl
@[simp] theorem State.post_lcs (s : State) (n : Nat) (d : Due) : (s.post n d).lcs = s.lcs := rfl
@[simp] theorem State.post_cores (s : State) (n : Nat) (d : Due) : (s.post n d).cores = s.cores := rfl
@[simp] theorem State.post_pairs (s : State) (n : Nat) (d : Due) : (s.post n d).pairs = s.pairs := rfl
@[simp] theorem State.post_ops (s : State) (n : Nat) (d : Due) : (s.post n d).ops = s.ops := rfl
@[simp] theorem State.post_reqs (s : State) (n : Nat) (d : Due) : (s.post n d).reqs = s.reqs := rfl
@[simp] theorem State.post_cmds (s : State) (n : Nat) (d : Due) : (s.post n d).cmds = s.cmds := rfl
@[simp] theorem State.post_tlbs (s : State) (n : Nat) (d : Due) : (s.post n d).tlbs = s.tlbs := rfl
@[simp] theorem State.post_walks (s : State) (n : Nat) (d : Due) : (s.post n d).walks = s.walks := rfl
@[simp] theorem State.post_l2 (s : State) (n : Nat) (d : Due) : (s.post n d).l2 = s.l2 := rfl
@[simp] theorem State.post_txs (s : State) (n : Nat) (d : Due) : (s.post n d).txs = s.txs := rfl
@[simp] theorem State.post_promotions (s : State) (n : Nat) (d : Due) : (s.post n d).promotions = s.promotions := rfl
@[simp] theorem State.post_dir (s : State) (n : Nat) (d : Due) : (s.post n d).dir = s.dir := rfl
@[simp] theorem State.post_homeTx (s : State) (n : Nat) (d : Due) : (s.post n d).homeTx = s.homeTx := rfl
@[simp] theorem State.post_homeQ (s : State) (n : Nat) (d : Due) : (s.post n d).homeQ = s.homeQ := rfl
@[simp] theorem State.post_pwbs (s : State) (n : Nat) (d : Due) : (s.post n d).pwbs = s.pwbs := rfl
@[simp] theorem State.post_pwbWait (s : State) (n : Nat) (d : Due) : (s.post n d).pwbWait = s.pwbWait := rfl
@[simp] theorem State.post_fab (s : State) (n : Nat) (d : Due) : (s.post n d).fab = s.fab := rfl
@[simp] theorem State.post_reqcap (s : State) (n : Nat) (d : Due) : (s.post n d).reqcap = s.reqcap := rfl
@[simp] theorem State.post_mmpNotes (s : State) (n : Nat) (d : Due) : (s.post n d).mmpNotes = s.mmpNotes := rfl
@[simp] theorem State.post_unmaps (s : State) (n : Nat) (d : Due) : (s.post n d).unmaps = s.unmaps := rfl
@[simp] theorem State.post_frames (s : State) (n : Nat) (d : Due) : (s.post n d).frames = s.frames := rfl
@[simp] theorem State.post_tails (s : State) (n : Nat) (d : Due) : (s.post n d).tails = s.tails := rfl
@[simp] theorem State.post_results (s : State) (n : Nat) (d : Due) : (s.post n d).results = s.results := rfl
@[simp] theorem State.post_unread (s : State) (n : Nat) (d : Due) : (s.post n d).unread = s.unread := rfl
@[simp] theorem State.post_completed (s : State) (n : Nat) (d : Due) : (s.post n d).completed = s.completed := rfl
@[simp] theorem State.post_counters (s : State) (n : Nat) (d : Due) : (s.post n d).counters = s.counters := rfl
@[simp] theorem State.post_pubs (s : State) (n : Nat) (d : Due) : (s.post n d).pubs = s.pubs := rfl
@[simp] theorem State.post_signers (s : State) (n : Nat) (d : Due) : (s.post n d).signers = s.signers := rfl
@[simp] theorem State.post_imported (s : State) (n : Nat) (d : Due) : (s.post n d).imported = s.imported := rfl
@[simp] theorem State.post_fuses (s : State) (n : Nat) (d : Due) : (s.post n d).fuses = s.fuses := rfl
@[simp] theorem State.post_suspects (s : State) (n : Nat) (d : Due) : (s.post n d).suspects = s.suspects := rfl
@[simp] theorem State.post_bumps (s : State) (n : Nat) (d : Due) : (s.post n d).bumps = s.bumps := rfl
@[simp] theorem State.post_io (s : State) (n : Nat) (d : Due) : (s.post n d).io = s.io := rfl
@[simp] theorem State.post_atoms (s : State) (n : Nat) (d : Due) : (s.post n d).atoms = s.atoms := rfl
@[simp] theorem State.post_links (s : State) (n : Nat) (d : Due) : (s.post n d).links = s.links := rfl
@[simp] theorem State.post_vers (s : State) (n : Nat) (d : Due) : (s.post n d).vers = s.vers := rfl
@[simp] theorem State.post_hostOut (s : State) (n : Nat) (d : Due) : (s.post n d).hostOut = s.hostOut := rfl
@[simp] theorem State.post_accepts (s : State) (n : Nat) (d : Due) : (s.post n d).accepts = s.accepts := rfl

/-! ### `State.setByte` -/

@[simp] theorem State.setByte_ptime (s : State) (pa : Nat) (b : Byte) : (s.setByte pa b).ptime = s.ptime := rfl
@[simp] theorem State.setByte_powered (s : State) (pa : Nat) (b : Byte) : (s.setByte pa b).powered = s.powered := rfl
@[simp] theorem State.setByte_agenda (s : State) (pa : Nat) (b : Byte) : (s.setByte pa b).agenda = s.agenda := rfl
@[simp] theorem State.setByte_picks (s : State) (pa : Nat) (b : Byte) : (s.setByte pa b).picks = s.picks := rfl
@[simp] theorem State.setByte_ticks (s : State) (pa : Nat) (b : Byte) : (s.setByte pa b).ticks = s.ticks := rfl
@[simp] theorem State.setByte_free (s : State) (pa : Nat) (b : Byte) : (s.setByte pa b).free = s.free := rfl
@[simp] theorem State.setByte_nextId (s : State) (pa : Nat) (b : Byte) : (s.setByte pa b).nextId = s.nextId := rfl
@[simp] theorem State.setByte_cur (s : State) (pa : Nat) (b : Byte) : (s.setByte pa b).cur = s.cur := rfl
@[simp] theorem State.setByte_rx (s : State) (pa : Nat) (b : Byte) : (s.setByte pa b).rx = s.rx := rfl
@[simp] theorem State.setByte_mbCopy (s : State) (pa : Nat) (b : Byte) : (s.setByte pa b).mbCopy = s.mbCopy := rfl
@[simp] theorem State.setByte_mem (s : State) (pa : Nat) (b : Byte) : (s.setByte pa b).mem = s.mem := rfl
@[simp] theorem State.setByte_wr (s : State) (pa : Nat) (b : Byte) : (s.setByte pa b).wr = (pa, b) :: s.wr := rfl
@[simp] theorem State.setByte_poison (s : State) (pa : Nat) (b : Byte) : (s.setByte pa b).poison = s.poison := rfl
@[simp] theorem State.setByte_tables (s : State) (pa : Nat) (b : Byte) : (s.setByte pa b).tables = s.tables := rfl
@[simp] theorem State.setByte_ihsel (s : State) (pa : Nat) (b : Byte) : (s.setByte pa b).ihsel = s.ihsel := rfl
@[simp] theorem State.setByte_regs (s : State) (pa : Nat) (b : Byte) : (s.setByte pa b).regs = s.regs := rfl
@[simp] theorem State.setByte_acc (s : State) (pa : Nat) (b : Byte) : (s.setByte pa b).acc = s.acc := rfl
@[simp] theorem State.setByte_gids (s : State) (pa : Nat) (b : Byte) : (s.setByte pa b).gids = s.gids := rfl
@[simp] theorem State.setByte_teams (s : State) (pa : Nat) (b : Byte) : (s.setByte pa b).teams = s.teams := rfl
@[simp] theorem State.setByte_launches (s : State) (pa : Nat) (b : Byte) : (s.setByte pa b).launches = s.launches := rfl
@[simp] theorem State.setByte_lcs (s : State) (pa : Nat) (b : Byte) : (s.setByte pa b).lcs = s.lcs := rfl
@[simp] theorem State.setByte_cores (s : State) (pa : Nat) (b : Byte) : (s.setByte pa b).cores = s.cores := rfl
@[simp] theorem State.setByte_pairs (s : State) (pa : Nat) (b : Byte) : (s.setByte pa b).pairs = s.pairs := rfl
@[simp] theorem State.setByte_ops (s : State) (pa : Nat) (b : Byte) : (s.setByte pa b).ops = s.ops := rfl
@[simp] theorem State.setByte_reqs (s : State) (pa : Nat) (b : Byte) : (s.setByte pa b).reqs = s.reqs := rfl
@[simp] theorem State.setByte_cmds (s : State) (pa : Nat) (b : Byte) : (s.setByte pa b).cmds = s.cmds := rfl
@[simp] theorem State.setByte_tlbs (s : State) (pa : Nat) (b : Byte) : (s.setByte pa b).tlbs = s.tlbs := rfl
@[simp] theorem State.setByte_walks (s : State) (pa : Nat) (b : Byte) : (s.setByte pa b).walks = s.walks := rfl
@[simp] theorem State.setByte_l2 (s : State) (pa : Nat) (b : Byte) : (s.setByte pa b).l2 = s.l2 := rfl
@[simp] theorem State.setByte_txs (s : State) (pa : Nat) (b : Byte) : (s.setByte pa b).txs = s.txs := rfl
@[simp] theorem State.setByte_promotions (s : State) (pa : Nat) (b : Byte) : (s.setByte pa b).promotions = s.promotions := rfl
@[simp] theorem State.setByte_dir (s : State) (pa : Nat) (b : Byte) : (s.setByte pa b).dir = s.dir := rfl
@[simp] theorem State.setByte_homeTx (s : State) (pa : Nat) (b : Byte) : (s.setByte pa b).homeTx = s.homeTx := rfl
@[simp] theorem State.setByte_homeQ (s : State) (pa : Nat) (b : Byte) : (s.setByte pa b).homeQ = s.homeQ := rfl
@[simp] theorem State.setByte_pwbs (s : State) (pa : Nat) (b : Byte) : (s.setByte pa b).pwbs = s.pwbs := rfl
@[simp] theorem State.setByte_pwbWait (s : State) (pa : Nat) (b : Byte) : (s.setByte pa b).pwbWait = s.pwbWait := rfl
@[simp] theorem State.setByte_fab (s : State) (pa : Nat) (b : Byte) : (s.setByte pa b).fab = s.fab := rfl
@[simp] theorem State.setByte_reqcap (s : State) (pa : Nat) (b : Byte) : (s.setByte pa b).reqcap = s.reqcap := rfl
@[simp] theorem State.setByte_mmpNotes (s : State) (pa : Nat) (b : Byte) : (s.setByte pa b).mmpNotes = s.mmpNotes := rfl
@[simp] theorem State.setByte_unmaps (s : State) (pa : Nat) (b : Byte) : (s.setByte pa b).unmaps = s.unmaps := rfl
@[simp] theorem State.setByte_frames (s : State) (pa : Nat) (b : Byte) : (s.setByte pa b).frames = s.frames := rfl
@[simp] theorem State.setByte_tails (s : State) (pa : Nat) (b : Byte) : (s.setByte pa b).tails = s.tails := rfl
@[simp] theorem State.setByte_results (s : State) (pa : Nat) (b : Byte) : (s.setByte pa b).results = s.results := rfl
@[simp] theorem State.setByte_unread (s : State) (pa : Nat) (b : Byte) : (s.setByte pa b).unread = s.unread := rfl
@[simp] theorem State.setByte_completed (s : State) (pa : Nat) (b : Byte) : (s.setByte pa b).completed = s.completed := rfl
@[simp] theorem State.setByte_counters (s : State) (pa : Nat) (b : Byte) : (s.setByte pa b).counters = s.counters := rfl
@[simp] theorem State.setByte_pubs (s : State) (pa : Nat) (b : Byte) : (s.setByte pa b).pubs = s.pubs := rfl
@[simp] theorem State.setByte_signers (s : State) (pa : Nat) (b : Byte) : (s.setByte pa b).signers = s.signers := rfl
@[simp] theorem State.setByte_imported (s : State) (pa : Nat) (b : Byte) : (s.setByte pa b).imported = s.imported := rfl
@[simp] theorem State.setByte_fuses (s : State) (pa : Nat) (b : Byte) : (s.setByte pa b).fuses = s.fuses := rfl
@[simp] theorem State.setByte_suspects (s : State) (pa : Nat) (b : Byte) : (s.setByte pa b).suspects = s.suspects := rfl
@[simp] theorem State.setByte_bumps (s : State) (pa : Nat) (b : Byte) : (s.setByte pa b).bumps = s.bumps := rfl
@[simp] theorem State.setByte_io (s : State) (pa : Nat) (b : Byte) : (s.setByte pa b).io = s.io := rfl
@[simp] theorem State.setByte_atoms (s : State) (pa : Nat) (b : Byte) : (s.setByte pa b).atoms = s.atoms := rfl
@[simp] theorem State.setByte_links (s : State) (pa : Nat) (b : Byte) : (s.setByte pa b).links = s.links := rfl
@[simp] theorem State.setByte_vers (s : State) (pa : Nat) (b : Byte) : (s.setByte pa b).vers = s.vers := rfl
@[simp] theorem State.setByte_hostOut (s : State) (pa : Nat) (b : Byte) : (s.setByte pa b).hostOut = s.hostOut := rfl
@[simp] theorem State.setByte_accepts (s : State) (pa : Nat) (b : Byte) : (s.setByte pa b).accepts = s.accepts := rfl

/-! ### Reading the parts -/

@[simp] theorem State.gid_updGid (s : State) (k : Nat) (f : Gid → Gid) (h : (Tab.find s.gids k).isSome) :
    (s.updGid k f).gid k = f (s.gid k) := Tab.get_change_same ({} : Gid) s.gids k f h

theorem State.gid_updGid_other (s : State) (k j : Nat) (f : Gid → Gid) (h : j ≠ k) : (s.updGid k f).gid j = s.gid j :=
  Tab.get_change_other ({} : Gid) s.gids k j f h

@[simp] theorem State.core_updCore (s : State) (k : Nat) (f : Core → Core) : (s.updCore k f).core k = f (s.core k) :=
  Tab.get_upd_same ({} : Core) s.cores k f

theorem State.core_updCore_other (s : State) (k j : Nat) (f : Core → Core) (h : j ≠ k) : (s.updCore k f).core j = s.core j :=
  Tab.get_upd_other ({} : Core) ({} : Core) s.cores k j f h

@[simp] theorem State.pair_updPair (s : State) (k : Nat) (f : Pair → Pair) : (s.updPair k f).pair k = f (s.pair k) :=
  Tab.get_upd_same ({} : Pair) s.pairs k f

theorem State.pair_updPair_other (s : State) (k j : Nat) (f : Pair → Pair) (h : j ≠ k) : (s.updPair k f).pair j = s.pair j :=
  Tab.get_upd_other ({} : Pair) ({} : Pair) s.pairs k j f h

@[simp] theorem State.lc_updLc (s : State) (c k : Nat) (f : LaunchCore → LaunchCore) : (s.updLc c k f).lc c k = f (s.lc c k) :=
  Tab.get_upd_same ({} : LaunchCore) s.lcs (2 * c + k) f

theorem State.reg_setReg_other (s : State) (p o p' o' : Nat) (v : Dword) (h : regKey p' o' ≠ regKey p o) :
    (s.setReg p o v).reg p' o' = s.reg p' o' := Tab.get_set_other _ _ _ _ _ _ h

theorem State.reg_setReg_same (s : State) (p o : Nat) (v : Dword) :
    (s.setReg p o v).reg p o = v := Tab.get_set_same _ _ _ _

@[simp] theorem State.byte_updGid (s : State) (k : Nat) (f : Gid → Gid) (pa : Nat) : (s.updGid k f).byte pa = s.byte pa := rfl

@[simp] theorem State.byte_setByte (s : State) (pa : Nat) (b : Byte) : (s.setByte pa b).byte pa = b := by
  simp [State.byte, Tab.find]

theorem State.byte_setByte_other (s : State) (pa q : Nat) (b : Byte) (h : q ≠ pa) : (s.setByte pa b).byte q = s.byte q := by
  simp [State.byte, Tab.find, Ne.symm h]

/-- What a byte of device memory reads as at the end of a step. -/
theorem finish_byte (s t : State) (pa : Nat) (ht : t.powered = true) (hm : t.mem = s.mem) :
    (finish s t).byte pa = t.byte pa := by
  simp only [State.byte, finish, ht, if_true, Tab.find, hm]
  exact Memory.get_applied _ _ _

end Sys2Proof.Machine
end

