-- ==== Sys2Proof/Laws/Operands.lean ====
section
/-!
SUPPORT. What writing a destination does (R166, R170, R226), said once: the words that stand there after, and everything
that stays as it was.
-/

namespace Sys2Proof.Machine

/-! ### Runs of registers -/

theorem find_putFrom_out {α : Type} (vs : List α) (t : Tab α) (k j : Nat) (h : ¬ (k ≤ j ∧ j < k + vs.length)) :
    Tab.find (putFrom t k vs) j = Tab.find t j := by
  induction vs generalizing t k with
  | nil => rfl
  | cons v vs ih =>
    simp only [List.length_cons] at h
    simp only [putFrom]
    rw [ih (Tab.ins t k v) (k + 1) (by omega)]
    exact Tab.find_ins_other t k j v (by omega)

theorem find_putFrom_in {α : Type} (vs : List α) (t : Tab α) (k i : Nat) (h : i < vs.length) :
    Tab.find (putFrom t k vs) (k + i) = some vs[i] := by
  induction vs generalizing t k i with
  | nil => simp at h
  | cons v vs ih =>
    simp only [putFrom]
    cases i with
    | zero =>
      rw [find_putFrom_out _ _ _ _ (by omega)]
      simp
    | succ i =>
      have := ih (Tab.ins t k v) (k + 1) i (by simpa using h)
      rw [show k + (i + 1) = k + 1 + i by omega, this]
      simp

/-! ### Lanes -/

@[simp] theorem Gid.length_mapLanes (g : Gid) (f : Nat → Thread → Thread) : (g.mapLanes f).lanes.length = g.lanes.length := by
  simp [Gid.mapLanes]

@[simp] theorem Gid.length_mapActive (g : Gid) (f : Nat → Thread → Thread) :
    (g.mapActive f).lanes.length = g.lanes.length := by
  simp [Gid.mapActive]

theorem Gid.lane_mapLanes (g : Gid) (f : Nat → Thread → Thread) (l : Nat) (h : l < g.lanes.length) :
    (g.mapLanes f).lane l = f l (g.lane l) := by
  simp [Gid.lane, Gid.mapLanes, List.getD_eq_getElem?_getD, h]

theorem Gid.lane_mapLanes_out (g : Gid) (f : Nat → Thread → Thread) (l : Nat) (h : g.lanes.length ≤ l) :
    (g.mapLanes f).lane l = g.lane l := by
  simp [Gid.lane, Gid.mapLanes, List.getD_eq_getElem?_getD, h]

theorem Gid.lane_mapActive (g : Gid) (f : Nat → Thread → Thread) (l : Nat) (h : g.isActive l = true) :
    (g.mapActive f).lane l = f l (g.lane l) := by
  simp only [Gid.isActive, Bool.and_eq_true, decide_eq_true_eq] at h
  simp [Gid.mapActive, Gid.lane_mapLanes _ _ _ h.2, h.1]

theorem Gid.lane_mapActive_idle (g : Gid) (f : Nat → Thread → Thread) (l : Nat) (h : g.isActive l = false) :
    (g.mapActive f).lane l = g.lane l := by
  by_cases hl : l < g.lanes.length
  · simp only [Gid.isActive, hl, decide_true, Bool.and_true] at h
    simp [Gid.mapActive, Gid.lane_mapLanes _ _ _ hl, h]
  · exact Gid.lane_mapLanes_out _ _ _ (by omega)

theorem Gid.mem_actives (g : Gid) (l : Nat) : l ∈ g.actives ↔ g.isActive l = true := by
  simp [Gid.actives, Gid.isActive, and_comm]

/-! ### Destinations -/

/-- Writing a destination changes only the registers it names. -/
theorem Gid.putAll_onlyRegs (g : Gid) (d : BitVec 7) (n : Nat) (vs : Nat → List Word) (ta : Nat → Bool)
    (hn : ∀ l, (vs l).length ≤ n) : Gid.OnlyRegs g (g.putAll d vs ta) d n := by
  unfold Gid.putAll Gid.putOn
  simp only [if_true]
  split
  · rename_i hd
    have hput : ∀ l, (g.mapActive fun l t => t.put d.toNat (vs l) (ta l)).lane l =
        if g.isActive l = true then (g.lane l).put d.toNat (vs l) (ta l) else g.lane l := by
      intro l
      by_cases h : g.isActive l = true
      · simp [Gid.lane_mapActive _ _ _ h, h]
      · simp [Gid.lane_mapActive_idle _ _ _ (by simpa using h), h]
    refine ⟨by simp, fun l h => by simp [hput, h], fun l => ?_, fun l k h => ?_, fun l k h => ?_, fun k _ => rfl,
      fun l k h h' => ?_, fun k _ => rfl⟩
    · rw [hput]
      split
      · unfold Thread.put
        split <;> rfl
      · rfl
    · rw [hput]
      split
      · unfold Thread.put
        split
        · exact find_putFrom_out _ _ _ _ (by have := hn l; omega)
        · rfl
      · rfl
    · rw [hput]
      split
      · unfold Thread.put
        split
        · rfl
        · exact find_putFrom_out _ _ _ _ (by have := hn l; omega)
      · rfl
    · rw [hput]
      split
      · unfold Thread.put
        split
        · exact find_putFrom_out _ _ _ _ (by have := hn l; simp only [List.length_replicate]; omega)
        · exact find_putFrom_out _ _ _ _ (by have := hn l; simp only [List.length_replicate]; omega)
      · rfl
  · split
    · rename_i hd hy
      split
      · exact ⟨rfl, fun _ _ => rfl, fun _ => rfl, fun _ _ _ => rfl, fun _ _ _ => rfl, fun _ _ => rfl, fun _ _ _ _ => rfl,
          fun _ _ => rfl⟩
      · rename_i l rest _
        refine ⟨rfl, fun _ _ => rfl, fun _ => rfl, fun _ _ _ => rfl, fun _ _ _ => rfl, fun k h => ?_, fun _ _ _ _ => rfl,
          fun k h => ?_⟩
        · exact find_putFrom_out _ _ _ _ (by have := hn l; omega)
        · exact find_putFrom_out _ _ _ _ (by have := hn l; simp only [List.length_replicate]; omega)
    · exact ⟨rfl, fun _ _ => rfl, fun _ => rfl, fun _ _ _ => rfl, fun _ _ _ => rfl, fun _ _ => rfl, fun _ _ _ _ => rfl,
        fun _ _ => rfl⟩

/-- A destination holds what was written to it. -/
theorem Gid.putAll_holds (g : Gid) (d : BitVec 7) (vs : Nat → List Word) (ta : Nat → Bool) :
    Gid.Holds (g.putAll d vs ta) g d vs := by
  intro hd l hl i v hv
  by_cases hx : d.toNat < 96
  · have hy : ¬ (96 ≤ d.toNat ∧ d.toNat < 112) := by omega
    rw [if_neg hy] at hv
    obtain ⟨hi, rfl⟩ := List.getElem?_eq_some_iff.mp hv
    unfold Gid.putAll Gid.putOn Gid.regAt
    simp only [hx, true_or, if_true, Gid.lane_mapActive _ _ _ hl, Thread.put, Thread.xreg]
    simp [Tab.get, find_putFrom_in _ _ _ _ hi]
  · by_cases hy : d.toNat < 112
    · have hy' : 96 ≤ d.toNat ∧ d.toNat < 112 := by omega
      have hw : ¬ (d.toNat < 96 ∨ 112 ≤ d.toNat ∧ d.toNat < 116) := by omega
      rw [if_pos hy'] at hv
      have hmem : l ∈ g.actives := (Gid.mem_actives g l).mpr hl
      unfold Gid.putAll Gid.putOn Gid.regAt
      rw [if_neg hw, if_pos hy]
      simp only [hx, hy, if_false, if_true]
      cases ha : g.actives with
      | nil => simp [ha] at hmem
      | cons e rest =>
        have he : g.elected = e := by simp [Gid.elected, ha]
        rw [he] at hv
        obtain ⟨hi, rfl⟩ := List.getElem?_eq_some_iff.mp hv
        simp [Tab.get, find_putFrom_in _ _ _ _ hi]
    · have hy' : ¬ (96 ≤ d.toNat ∧ d.toNat < 112) := by omega
      have hw : 112 ≤ d.toNat ∧ d.toNat < 116 := by omega
      rw [if_neg hy'] at hv
      obtain ⟨hi, rfl⟩ := List.getElem?_eq_some_iff.mp hv
      unfold Gid.putAll Gid.putOn Gid.regAt
      simp only [hw, and_self, or_true, if_true, hx, hy, if_false, Gid.lane_mapActive _ _ _ hl, Thread.put]
      simp [Tab.get, find_putFrom_in _ _ _ _ hi]

/-- And its taint. -/
theorem Gid.putAll_tainted (g : Gid) (d : BitVec 7) (vs : Nat → List Word) (ta : Nat → Bool) :
    Gid.Tainted (g.putAll d vs ta) g d vs ta := by
  intro hd l hl i hi
  by_cases hx : d.toNat < 96
  · have hy : ¬ (96 ≤ d.toNat ∧ d.toNat < 112) := by omega
    rw [if_neg hy] at hi ⊢
    unfold Gid.putAll Gid.putOn Gid.taintAt
    simp only [hx, true_or, if_true, Gid.lane_mapActive _ _ _ hl, Thread.put]
    simp [Tab.get, find_putFrom_in, hi]
  · by_cases hy : d.toNat < 112
    · have hy' : 96 ≤ d.toNat ∧ d.toNat < 112 := by omega
      have hw : ¬ (d.toNat < 96 ∨ 112 ≤ d.toNat ∧ d.toNat < 116) := by omega
      rw [if_pos hy'] at hi ⊢
      have hmem : l ∈ g.actives := (Gid.mem_actives g l).mpr hl
      unfold Gid.putAll Gid.putOn Gid.taintAt
      rw [if_neg hw, if_pos hy]
      simp only [hx, hy, if_false, if_true]
      cases ha : g.actives with
      | nil => simp [ha] at hmem
      | cons e rest =>
        have he : g.elected = e := by simp [Gid.elected, ha]
        rw [he] at hi ⊢
        simp [Tab.get, find_putFrom_in, hi]
    · have hy' : ¬ (96 ≤ d.toNat ∧ d.toNat < 112) := by omega
      have hw : 112 ≤ d.toNat ∧ d.toNat < 116 := by omega
      rw [if_neg hy'] at hi ⊢
      unfold Gid.putAll Gid.putOn Gid.taintAt
      simp only [hw, and_self, or_true, if_true, hx, hy, if_false, Gid.lane_mapActive _ _ _ hl, Thread.put]
      simp [Tab.get, find_putFrom_in, hi]

/-- Writing a destination leaves the gang, GSTICKY and everything else of the gang id as they were. -/
theorem Gid.putAll_rest (g : Gid) (d : BitVec 7) (vs : Nat → List Word) (ta : Nat → Bool) :
    g.putAll d vs ta = { g with lanes := (g.putAll d vs ta).lanes, y := (g.putAll d vs ta).y,
                                ytaint := (g.putAll d vs ta).ytaint } := by
  unfold Gid.putAll Gid.putOn
  simp only [if_true]
  split
  · rfl
  · split
    · split <;> rfl
    · rfl

/-! ### A change of the issuing gang id -/

theorem State.g_onGid (s : State) (f : Gid → Gid) (h : s.Issues) : (s.onGid f).g = f s.g :=
  State.gid_updGid s s.cur f h

theorem State.onGid_only (s : State) (f : Gid → Gid) : OnlyGang s (s.onGid f) :=
  ⟨rfl, fun k hk => Tab.find_change_other s.gids s.cur k f hk⟩

/-- Raising flags and going on leaves what a change of registers left as it was. -/
theorem Gid.advance_stick_rest (g p : Gid) (fl : Nat) (h : p = { g with lanes := p.lanes, y := p.y, ytaint := p.ytaint }) :
    (p.stick fl).advance =
      { g with lanes := (p.stick fl).advance.lanes, y := (p.stick fl).advance.y, ytaint := (p.stick fl).advance.ytaint,
               sticky := (p.stick fl).advance.sticky, gang := (p.stick fl).advance.gang } := by
  generalize p.lanes = a at h
  generalize p.y = b at h
  generalize p.ytaint = c at h
  subst h
  rfl

/-- An instruction that writes `vs` to `d` and raises `fl` has its result. -/
theorem results_stick (s : State) (d : BitVec 7) (n : Nat) (vs : Nat → List Word) (ta : Nat → Bool) (fl : Nat)
    (h : s.Issues) (hn : ∀ l, (vs l).length ≤ n) :
    Results s (s.onGid (fun g => ((g.putAll d vs ta).stick fl).advance)) d n vs ta fl := by
  have hg := State.g_onGid s (fun g => ((g.putAll d vs ta).stick fl).advance) h
  have hr := Gid.putAll_rest s.g d vs ta
  refine ⟨State.onGid_only s _, ?_, ?_, ?_, ?_, ?_, ?_⟩
  · rw [hg]
    have := Gid.putAll_onlyRegs s.g d n vs ta hn
    exact ⟨this.1, this.2, this.3, this.4, this.5, this.6, this.7, this.8⟩
  · rw [hg]
    exact Gid.putAll_holds s.g d vs ta
  · rw [hg]
    exact Gid.putAll_tainted s.g d vs ta
  · rw [hg]
    show (s.g.putAll d vs ta).sticky ||| _ = _
    rw [hr]
  · rw [hg]
    show ((s.g.putAll d vs ta).advance).gang = _
    rw [hr]
    rfl
  · rw [hg]
    exact Gid.advance_stick_rest s.g _ fl hr

/-- An instruction that writes `vs` to `d` and raises nothing has its result. -/
theorem results_put (s : State) (d : BitVec 7) (n : Nat) (vs : Nat → List Word) (ta : Nat → Bool)
    (h : s.Issues) (hn : ∀ l, (vs l).length ≤ n) :
    Results s (s.onGid (fun g => (g.putAll d vs ta).advance)) d n vs ta 0 := by
  have := results_stick s d n vs ta 0 h hn
  have e : (fun g : Gid => ((g.putAll d vs ta).stick 0).advance) = fun g => (g.putAll d vs ta).advance := by
    funext g
    simp [Gid.stick, Gid.advance]
  rwa [e] at this

/-- What the issuing gang id becomes is all that matters of the function that changes it. -/
theorem State.onGid_congr (s : State) (f f' : Gid → Gid) (h : f s.g = f' s.g) : s.onGid f = s.onGid f' := by
  unfold State.onGid State.updGid
  rw [Tab.change_congr s.gids s.cur f f' {} h]

/-- The result of an instruction that `retire` ends: its registers are `vs`, judged in the state before. -/
theorem retire_results (s : State) (f : Gid → Gid) (d : BitVec 7) (n : Nat) (vs : Nat → List Word) (ta : Nat → Bool)
    (h : s.Issues) (hn : ∀ l, (vs l).length ≤ n) (hf : f s.g = s.g.putAll d vs ta) :
    ∃ t, s.retire f = .next t ∧ Results s t d n vs ta 0 := by
  refine ⟨_, rfl, ?_⟩
  rw [State.onGid_congr s _ (fun g => (g.putAll d vs ta).advance) (by simp [hf])]
  exact results_put s d n vs ta h hn

/-- The same where flags are raised. -/
theorem retire_results_stick (s : State) (f : Gid → Gid) (d : BitVec 7) (n : Nat) (vs : Nat → List Word) (ta : Nat → Bool)
    (fl : Nat) (h : s.Issues) (hn : ∀ l, (vs l).length ≤ n) (hf : f s.g = (s.g.putAll d vs ta).stick fl) :
    ∃ t, s.retire f = .next t ∧ Results s t d n vs ta fl := by
  refine ⟨_, rfl, ?_⟩
  rw [State.onGid_congr s _ (fun g => ((g.putAll d vs ta).stick fl).advance) (by simp [hf])]
  exact results_stick s d n vs ta fl h hn

/-! ### Mask registers -/

/-- Replacing a bit of a mask register. -/
theorem getLsbD_setBit8 (m : BitVec 8) (k j : Nat) (b : Bool) (h : j < 8) :
    (setBit8 m k b).getLsbD j = if j = k then b else m.getLsbD j := by
  have hj : j = 0 ∨ j = 1 ∨ j = 2 ∨ j = 3 ∨ j = 4 ∨ j = 5 ∨ j = 6 ∨ j = 7 := by omega
  by_cases e : j = k
  · subst e
    rcases hj with rfl | rfl | rfl | rfl | rfl | rfl | rfl | rfl <;> cases b <;> simp [setBit8]
  · rw [if_neg e]
    by_cases hlt : j < k
    · cases b <;> simp [setBit8, h, hlt]
    · have : j - k ≠ 0 := by omega
      cases b <;> simp [setBit8, h, hlt, this]

/-- An instruction that writes `b` to mask register `d` and raises `fl` has its result. -/
theorem results_mask (s : State) (d : BitVec 7) (b : Nat → Bool) (fl : Nat) (h : s.Issues) :
    MaskResults s (s.onGid (fun g => ((g.putMask d b).stick fl).advance)) d b fl := by
  have hg := State.g_onGid s (fun g => ((g.putMask d b).stick fl).advance) h
  have hl : ∀ l, ((s.onGid (fun g => ((g.putMask d b).stick fl).advance)).g).lane l =
      if s.g.isActive l = true then { s.g.lane l with m := setBit8 (s.g.lane l).m d.toNat (b l) } else s.g.lane l := by
    intro l
    rw [hg]
    show (s.g.putMask d b).lane l = _
    unfold Gid.putMask
    by_cases ha : s.g.isActive l = true
    · rw [Gid.lane_mapActive _ _ _ ha, if_pos ha]
    · rw [Gid.lane_mapActive_idle _ _ _ (by simpa using ha), if_neg ha]
  refine ⟨State.onGid_only s _, ?_, ?_, ?_, ?_, ?_, ?_⟩
  · rw [hg]
    exact Gid.length_mapActive _ _
  · intro l k hk
    unfold Gid.mbit
    rw [hl]
    by_cases ha : s.g.isActive l = true
    · rw [if_pos ha, getLsbD_setBit8 _ _ _ _ hk]
      simp [ha]
    · rw [if_neg ha]
      simp [ha]
  · intro l
    rw [hl]
    split <;> rfl
  · rw [hg]
    rfl
  · rw [hg]
    rfl
  · rw [hg]
    rfl

/-- The same with no flag. -/
theorem results_mask0 (s : State) (d : BitVec 7) (b : Nat → Bool) (h : s.Issues) :
    MaskResults s (s.onGid (fun g => (g.putMask d b).advance)) d b 0 := by
  have := results_mask s d b 0 h
  have e : (fun g : Gid => ((g.putMask d b).stick 0).advance) = fun g => (g.putMask d b).advance := by
    funext g
    simp [Gid.stick, Gid.advance]
  rwa [e] at this

/-- The result of an instruction that writes a mask register, judged in the state before. -/
theorem retire_mask (s : State) (f : Gid → Gid) (d : BitVec 7) (b : Nat → Bool) (fl : Nat) (h : s.Issues)
    (hf : f s.g = (s.g.putMask d b).stick fl) : ∃ t, s.retire f = .next t ∧ MaskResults s t d b fl := by
  refine ⟨_, rfl, ?_⟩
  rw [State.onGid_congr s _ (fun g => ((g.putMask d b).stick fl).advance) (by simp [hf])]
  exact results_mask s d b fl h

/-- The same where no flag is raised. -/
theorem retire_mask0 (s : State) (f : Gid → Gid) (d : BitVec 7) (b : Nat → Bool) (h : s.Issues)
    (hf : f s.g = s.g.putMask d b) : ∃ t, s.retire f = .next t ∧ MaskResults s t d b 0 := by
  refine ⟨_, rfl, ?_⟩
  rw [State.onGid_congr s _ (fun g => (g.putMask d b).advance) (by simp [hf])]
  exact results_mask0 s d b h

end Sys2Proof.Machine
end

