-- ==== Sys2Proof/Laws/Control.lean ====
section
/-!
SUPPORT. What transfers of control, waiting and posting do, said once: where threads go, and what stays as it was.
-/

namespace Sys2Proof.Machine

/-! ### Transfers (R161, R205, R229) -/

/-- The gang goes on at a header. -/
theorem Gid.continueAt_continues (g : Gid) (now : Nat) (p : Dword) : Gid.Continues g (g.continueAt now p) now p := by
  refine ⟨fun l => ?_, rfl⟩
  show (g.mapActive _).lane l = _
  by_cases h : g.isActive l = true
  · rw [Gid.lane_mapActive _ _ _ h, if_pos h]
  · rw [Gid.lane_mapActive_idle _ _ _ (by simpa using h), if_neg h]

/-- A thread after some are filed. -/
theorem Gid.lane_fileLanes (g : Gid) (now : Nat) (f : Nat → Option Dword) (l : Nat) :
    (g.fileLanes now f).lane l =
      if l < g.lanes.length then
        (match f l with
        | some p => { g.lane l with pc := p, st := .filed, filedAt := now, await := none }
        | none => g.lane l)
      else g.lane l := by
  unfold Gid.fileLanes
  by_cases h : l < g.lanes.length
  · rw [Gid.lane_mapLanes _ _ _ h, if_pos h]; all_goals (split <;> simp_all)
  · rw [Gid.lane_mapLanes_out _ _ _ (by omega), if_neg h]

/-- The active threads are filed. -/
theorem Gid.fileActive_files (g : Gid) (now : Nat) (pc : Nat → Dword) : Gid.Files g (g.fileActive now pc) now pc := by
  refine ⟨fun l => ?_, rfl⟩
  show (g.fileLanes now _).lane l = _
  rw [Gid.lane_fileLanes]
  by_cases h : g.isActive l = true
  · have : l < g.lanes.length := by simp [Gid.isActive] at h; exact h.2
    simp [h, this]
  · simp [h]

/-- Every transfer lands where R161, R229 and R231 say. -/
theorem Gid.goTo_lands (g : Gid) (now : Nat) (back : Bool) (pc : Nat → Dword) :
    Gid.Lands g (g.goTo now back pc) now back pc := by
  unfold Gid.Lands Gid.goTo
  cases ha : g.actives with
  | nil =>
    have : ∀ l, ¬ g.isActive l = true := by intro l h; have := (Gid.mem_actives g l).mpr h; simp [ha] at this
    exact ⟨fun l h => absurd h (this l), fun ⟨l, k, h, _⟩ => absurd h (this l)⟩
  | cons e es =>
    have he : g.isActive e = true := (Gid.mem_actives g e).mp (by simp [ha])
    constructor
    · intro l hl hall
      have h1 : es.all (fun k => pc k == pc e) = true := by
        rw [List.all_eq_true]; intro k hk
        have := hall k ((Gid.mem_actives g k).mp (by simp [ha, hk]))
        simp [this, hall e he]
      simp only [h1, if_true, ← hall e he]
      by_cases hb : back = true ∧ (pc e).toNat < g.here.toNat
      · simp only [hb.1, hb.2, decide_true, Bool.and_self, if_true, and_self]; exact Gid.fileActive_files _ _ _
      · rw [if_neg hb, if_neg (by simpa using hb)]; exact Gid.continueAt_continues _ _ _
    · rintro ⟨l, k, hl, hk, hne⟩
      have h1 : ¬ es.all (fun k => pc k == pc e) = true := by
        intro h
        rw [List.all_eq_true] at h
        have q : ∀ x, g.isActive x = true → pc x = pc e := by
          intro x hx
          have := (Gid.mem_actives g x).mpr hx
          rw [ha] at this
          rcases List.mem_cons.mp this with rfl | h'
          · rfl
          · simpa using h x h'
        exact hne ((q l hl).trans (q k hk).symm)
      simp only [h1]; exact Gid.fileActive_files _ _ _

/-! ### Waiting and protected mode (R337, R389) -/

/-- The active threads wait. -/
theorem Gid.waits_of (g : Gid) (a : Nat → Await) :
    Gid.Waits g ((g.mapActive (fun l t => { t with st := .waiting, await := some (a l), pc := g.gang.next })).endGang) a := by
  refine ⟨fun l => ?_, rfl⟩
  show (g.mapActive _).lane l = _
  by_cases h : g.isActive l = true
  · rw [Gid.lane_mapActive _ _ _ h, if_pos h]
  · rw [Gid.lane_mapActive_idle _ _ _ (by simpa using h), if_neg h]

/-- Where primary and shadow agree, the instruction acts. -/
theorem State.guarded_agree (s : State) (v : Nat → List Dword) (act : State → State) (h : s.g.mismatch v = none) :
    s.guarded v act = act s := by
  unfold State.guarded
  rw [h]

/-- The issuing gang id stays resident when it changes. -/
theorem State.issues_onGid (s : State) (f : Gid → Gid) (h : s.Issues) : (s.onGid f).Issues := by
  unfold State.Issues at h ⊢
  obtain ⟨v, hv⟩ := Option.isSome_iff_exists.mp h
  simp only [State.onGid, State.updGid]
  rw [Tab.find_change_same _ _ _ v hv]
  rfl

/-! ### Posting -/

/-- An event asked for is on the agenda. -/
theorem State.awaits_soonOnce (s : State) (i : Instr) : (s.soonOnce i).awaits i = true := by
  unfold State.soonOnce
  split
  · assumption
  · simp [State.soon, State.post, State.awaits]

theorem State.soonOnce_agenda (s : State) (i : Instr) : s.soonOnce i = { s with agenda := (s.soonOnce i).agenda } := by
  unfold State.soonOnce
  split <;> rfl

theorem State.nowOnce_agenda (s : State) (i : Instr) : s.nowOnce i = { s with agenda := (s.nowOnce i).agenda } := by
  unfold State.nowOnce
  split <;> rfl

theorem State.laterOnce_agenda (s : State) (dt : Nat) (i : Instr) :
    s.laterOnce dt i = { s with agenda := (s.laterOnce dt i).agenda } := by
  unfold State.laterOnce
  split <;> rfl

theorem State.nowOnce_fab (s u : State) (i : Instr) (h : u = { s with fab := u.fab }) :
    u.nowOnce i = { s with fab := (u.nowOnce i).fab, agenda := (u.nowOnce i).agenda } := by
  generalize u.fab = f at h
  subst h
  unfold State.nowOnce
  split <;> rfl

/-- A message that is sent changes the pair of ports it travels on and the agenda, and nothing else. -/
theorem State.send_frame (s : State) (i j : Nat) (m : Msg) :
    s.send i j m = { s with fab := (s.send i j m).fab, agenda := (s.send i j m).agenda } := by
  unfold State.send
  by_cases h : i = j
  · simp only [if_pos h]
    rfl
  · simp only [if_neg h]
    exact State.nowOnce_fab s _ _ rfl

end Sys2Proof.Machine
end

