-- ==== Sys2Proof/Laws/Memory.lean ====
section
/-!
SUPPORT. What a translation, the checks of an access, a release and an acquire answer, each said once.
-/

namespace Sys2Proof.Machine

/-- What a translated address rests on (R54, R56, R62): a virtual address of 57 bits, and an entry of the launch that holds it,
with the right, whose record covers the access; the expiry it caches has not passed, or the record has been renewed since. -/
theorem State.translate_ok (s : State) (cluster launch : Nat) (va : Dword) (n : Nat) (right : BitVec 4) (pa : Nat) (e : TlbEntry)
    (h : s.translate cluster launch va n right = .ok pa e) :
    va.toNat < 2 ^ 57 ∧ e ∈ Tab.get [] s.tlbs cluster ∧ e.launch = launch ∧ e.lo ≤ va.toNat ∧ va.toNat ≤ e.hi
    ∧ e.rights &&& right = right ∧ e.recIx ∈ (s.launch launch).covering va.toNat n right
    ∧ (s.ptime < e.expiry ∨ s.ptime < ((s.launch launch).recAt e.recIx).expiry)
    ∧ pa = e.pa + (va.toNat - e.lo) := by
  unfold State.translate at h
  simp only at h
  split at h
  · cases h
  · next hv =>
    split at h
    · next e' he =>
      simp only [Xlat.ok.injEq] at h
      obtain ⟨hp, rfl⟩ := h
      unfold State.tlbHit at he
      have hf := List.find?_some he
      have hm := List.mem_of_find?_eq_some he
      unfold State.tlbHits at hm
      obtain ⟨hm, hx⟩ := List.mem_filter.mp hm
      simp only [Bool.and_eq_true, Bool.or_eq_true, beq_iff_eq, decide_eq_true_eq, List.contains_iff_mem] at hf hx
      obtain ⟨⟨⟨⟨h1, h2⟩, h3⟩, h4⟩, h5⟩ := hx
      exact ⟨by omega, hm, h1, h2, h3, h4, h5, hf, hp.symm⟩
    · split at h
      · cases h
      · split at h
        · split at h <;> cases h
        · split at h <;> cases h

/-- The checks of several lanes answer their accesses only where no lane waits, stops or awaits a renewal (R246). -/
theorem State.checkLanes_ok (s : State) (right : BitVec 4) (ps : List Probe) (addrs : List (Nat × Dword)) (as : List LaneAcc)
    (h : s.checkLanes right ps addrs = .ok as) : ps = as.map Probe.acc := by
  unfold State.checkLanes at h
  simp only at h
  split at h
  · cases h
  · next hw =>
    split at h
    · split at h <;> cases h
    · next hs =>
      split at h
      · cases h
      · next hr =>
        split at h
        · cases h
        next hl =>
        clear hl
        simp only [Except.ok.injEq] at h
        subst h
        simp only [ne_eq, not_not] at hw hr
        have hst : ps.filterMap (fun p => match p with
            | .stop l c => some { cause := c, lane := l : Stop }
            | _ => none) = [] := by
          generalize ps.filterMap (fun p => match p with
            | .stop l c => some { cause := c, lane := l : Stop }
            | _ => none) = x at hs
          cases x with
          | nil => rfl
          | cons a l => simp [worst] at hs
        clear hs
        induction ps with
        | nil => rfl
        | cons p ps ih =>
          cases p with
          | acc a =>
            simp only [List.filterMap_cons_none] at hw hr hst
            exact congrArg (Probe.acc a :: ·) (ih hw hr hst)
          | stop l c => simp at hst
          | renew r => simp at hr
          | walk va => simp at hw

/-- The "before" actions of a release are complete only where the gang has waited for them, or where none is due: no earlier
access is open and the scope is gang or team (Table 3 of R136). -/
theorem State.before_ok (s : State) (scope : Nat) (h : s.before scope = .ok ()) :
    s.g.gang.stage ≠ 0 ∨ (s.accessesOpen s.cur s.g.gang.active = false ∧ scope < 3) := by
  unfold State.before at h
  split at h
  · next hs => exact .inl hs
  · split at h
    · cases h
    · next ha =>
      split at h
      · next hs => exact .inr ⟨by simpa using ha, hs⟩
      · cases h

/-- An acquire at gang or team scope changes nothing (Table 3 of R136). -/
theorem State.after_narrow (s : State) (scope : Nat) (h : scope < 3) : s.after scope = s := by
  unfold State.after
  rw [if_pos h]

/-- Every lane that accesses memory is active (R389 in protected mode). -/
theorem Gid.doers_active (g : Gid) (l : Nat) (h : l ∈ g.doers) : g.isActive l = true := by
  unfold Gid.doers at h
  split at h
  · exact (Gid.mem_actives g l).mp (List.mem_filter.mp h).1
  · exact (Gid.mem_actives g l).mp h

end Sys2Proof.Machine
end

