-- ==== Sys2Proof/Laws/PerInstr.lean ====
section
/-!
SUPPORT. Statements made for each constructor of `Instr`.
-/

namespace Sys2Proof.Laws.Encodes

open Sys2Proof

/-- The words of an instruction are at most three (R202, R203: a prefix, the word itself, a literal), and a well-formed instruction has
one at least. -/
def Statement (i : Instr) : Prop := (encode i).length ≤ 3 ∧ (i.wellFormed = true → 1 ≤ (encode i).length)

theorem length_encodePre (p : Pre) : (encodePre p).length ≤ 1 := by
  cases p <;> simp [encodePre]

theorem length_withParts (p : Pre) (w lit : Word) :
    (withParts p w lit).length ≤ 3 ∧ 1 ≤ (withParts p w lit).length := by
  have h := length_encodePre p
  unfold withParts
  split <;> simp <;> omega

/-- An instruction with words. -/
theorem words {i : Instr} {p : Pre} {w lit : Word} (h : encode i = withParts p w lit) : Statement i := by
  rw [Statement, h]
  exact ⟨(length_withParts p w lit).1, fun _ => (length_withParts p w lit).2⟩

/-- A step of another agent has none. -/
theorem event {i : Instr} (h : encode i = []) (f : i.wellFormed = false) : Statement i := by
  rw [Statement, h]
  exact ⟨by simp, fun e => by simp [f] at e⟩

theorem powerOn (x0 : BringUp) : Statement (.powerOn x0) := event rfl rfl
theorem thermalTrip (x0 : BitVec 8) : Statement (.thermalTrip x0) := event rfl rfl
theorem clockStepDown (x0 : BitVec 16) (x1 : BitVec 8) : Statement (.clockStepDown x0 x1) := event rfl rfl
theorem clockStepUp (x0 : BitVec 16) (x1 : BitVec 8) : Statement (.clockStepUp x0 x1) := event rfl rfl
theorem thermWrite (x0 : BitVec 64) : Statement (.thermWrite x0) := event rfl rfl
theorem registerWrite (x0 : Nat) (x1 : Nat) (x2 : BitVec 64) : Statement (.registerWrite x0 x1 x2) := event rfl rfl
theorem flitReceive (x0 : Nat) (x1 : Nat) (x2 : Flit) : Statement (.flitReceive x0 x1 x2) := event rfl rfl
theorem ackTimer (x0 : Nat) (x1 : Nat) : Statement (.ackTimer x0 x1) := event rfl rfl
theorem ackReceive (x0 : Nat) (x1 : Nat) (x2 : BitVec 16) : Statement (.ackReceive x0 x1 x2) := event rfl rfl
theorem nakReceive (x0 : Nat) (x1 : Nat) (x2 : BitVec 16) : Statement (.nakReceive x0 x1 x2) := event rfl rfl
theorem replayTimeout (x0 : Nat) (x1 : Nat) : Statement (.replayTimeout x0 x1) := event rfl rfl
theorem replayLimitLost (x0 : Nat) (x1 : Nat) : Statement (.replayLimitLost x0 x1) := event rfl rfl
theorem lossOfLight (x0 : Nat) (x1 : Nat) (x2 : Bool) : Statement (.lossOfLight x0 x1 x2) := event rfl rfl
theorem fallbackReroute (x0 : Nat) (x1 : Nat) : Statement (.fallbackReroute x0 x1) := event rfl rfl
theorem relayForward (x0 : Nat) (x1 : Flit) : Statement (.relayForward x0 x1) := event rfl rfl
theorem flitInject (x0 : Nat) (x1 : Nat) : Statement (.flitInject x0 x1) := event rfl rfl
theorem routeWrite (x0 : Nat) (x1 : Nat) (x2 : BitVec 64) : Statement (.routeWrite x0 x1 x2) := event rfl rfl
theorem admctlLoad (x0 : BitVec 64) : Statement (.admctlLoad x0) := event rfl rfl
theorem spsplitWrite (x0 : Nat) (x1 : BitVec 64) : Statement (.spsplitWrite x0 x1) := event rfl rfl
theorem accessTableWrite (x0 : Nat) (x1 : Nat) (x2 : Nat) (x3 : BitVec 128) : Statement (.accessTableWrite x0 x1 x2 x3) := event rfl rfl
theorem tlbWalk (x0 : Nat) (x1 : Nat) (x2 : BitVec 64) (x3 : BitVec 4) : Statement (.tlbWalk x0 x1 x2 x3) := event rfl rfl
theorem leaseGrant (x0 : Nat) : Statement (.leaseGrant x0) := event rfl rfl
theorem leaseLapse (x0 : Nat) (x1 : Nat) : Statement (.leaseLapse x0 x1) := event rfl rfl
theorem leaseRenewalServe (x0 : Nat) (x1 : Nat) : Statement (.leaseRenewalServe x0 x1) := event rfl rfl
theorem unmapLapseReached (x0 : Nat) : Statement (.unmapLapseReached x0) := event rfl rfl
theorem clusterShortenNotice (x0 : Nat) (x1 : Nat) : Statement (.clusterShortenNotice x0 x1) := event rfl rfl
theorem clusterPurge (x0 : Nat) (x1 : Nat) : Statement (.clusterPurge x0 x1) := event rfl rfl
theorem unmapPurgeAcked (x0 : Nat) : Statement (.unmapPurgeAcked x0) := event rfl rfl
theorem unmapTablesAcked (x0 : Nat) : Statement (.unmapTablesAcked x0) := event rfl rfl
theorem l1Evict (x0 : Nat) (x1 : Nat) (x2 : Nat) (x3 : Nat) : Statement (.l1Evict x0 x1 x2 x3) := event rfl rfl
theorem l1FillReturn (x0 : Nat) (x1 : LineData) : Statement (.l1FillReturn x0 x1) := event rfl rfl
theorem l2Evict (x0 : Nat) (x1 : Nat) : Statement (.l2Evict x0 x1) := event rfl rfl
theorem galleyReply (x0 : Nat) (x1 : LineData) : Statement (.galleyReply x0 x1) := event rfl rfl
theorem galleyTimeout (x0 : Nat) : Statement (.galleyTimeout x0) := event rfl rfl
theorem loadReplyTimeout (x0 : Nat) : Statement (.loadReplyTimeout x0) := event rfl rfl
theorem ldGStallRetry (x0 : Nat) : Statement (.ldGStallRetry x0) := event rfl rfl
theorem clauseStart (x0 : Nat) : Statement (.clauseStart x0) := event rfl rfl
theorem groupAgeReached (x0 : Nat) (x1 : Nat) : Statement (.groupAgeReached x0 x1) := event rfl rfl
theorem longOpComplete (x0 : Nat) : Statement (.longOpComplete x0) := event rfl rfl
theorem matrixOpComplete (x0 : Nat) : Statement (.matrixOpComplete x0) := event rfl rfl
theorem imprintThresholdFlush (x0 : Nat) : Statement (.imprintThresholdFlush x0) := event rfl rfl
theorem plateCacheEvict (x0 : Nat) (x1 : BitVec 64) : Statement (.plateCacheEvict x0 x1) := event rfl rfl
theorem engineWrite (x0 : Nat) : Statement (.engineWrite x0) := event rfl rfl
theorem xpfRange (x0 : Nat) : Statement (.xpfRange x0) := event rfl rfl
theorem engineQueueRetry (x0 : Nat) : Statement (.engineQueueRetry x0) := event rfl rfl
theorem homeOpenQueued (x0 : Nat) (x1 : Nat) : Statement (.homeOpenQueued x0 x1) := event rfl rfl
theorem dramReadComplete (x0 : Nat) (x1 : Nat) (x2 : Bool) : Statement (.dramReadComplete x0 x1 x2) := event rfl rfl
theorem imprintPortWrite (x0 : Nat) (x1 : Nat) (x2 : Msg) : Statement (.imprintPortWrite x0 x1 x2) := event rfl rfl
theorem plackWrite (x0 : BitVec 64) : Statement (.plackWrite x0) := event rfl rfl
theorem plcfgWrite (x0 : BitVec 64) : Statement (.plcfgWrite x0) := event rfl rfl
theorem entryAccept (x0 : Nat) (x1 : Nat) : Statement (.entryAccept x0 x1) := event rfl rfl
theorem kernelVerify (x0 : Nat) : Statement (.kernelVerify x0) := event rfl rfl
theorem cohortAgeReserve (x0 : Nat) : Statement (.cohortAgeReserve x0) := event rfl rfl
theorem dispctlWrite (x0 : BitVec 64) : Statement (.dispctlWrite x0) := event rfl rfl
theorem gangResume (x0 : Nat) : Statement (.gangResume x0) := event rfl rfl
theorem handlerEntry (x0 : Nat) : Statement (.handlerEntry x0) := event rfl rfl
theorem teamEnd (x0 : Nat) : Statement (.teamEnd x0) := event rfl rfl
theorem launchEnd (x0 : Nat) : Statement (.launchEnd x0) := event rfl rfl
theorem teamRelaunch (x0 : Nat) : Statement (.teamRelaunch x0) := event rfl rfl
theorem divergenceRerun (x0 : Nat) : Statement (.divergenceRerun x0) := event rfl rfl
theorem tentativeBufferFull (x0 : Nat) : Statement (.tentativeBufferFull x0) := event rfl rfl
theorem teamRetire (x0 : Nat) : Statement (.teamRetire x0) := event rfl rfl
theorem waitwReread (x0 : Nat) : Statement (.waitwReread x0) := event rfl rfl
theorem sleepExpiry (x0 : Nat) : Statement (.sleepExpiry x0) := event rfl rfl
theorem cxlMemrd (x0 : Nat) (x1 : Nat) : Statement (.cxlMemrd x0 x1) := event rfl rfl
theorem cxlMemwr (x0 : Nat) (x1 : Nat) (x2 : BitVec 512) : Statement (.cxlMemwr x0 x1 x2) := event rfl rfl
theorem hostReadCompletion (x0 : Nat) (x1 : BitVec 1024) : Statement (.hostReadCompletion x0 x1) := event rfl rfl
theorem peerIngressRequest (x0 : Nat) (x1 : Nat) (x2 : Msg) : Statement (.peerIngressRequest x0 x1 x2) := event rfl rfl
theorem atomicCacheLapse (x0 : Nat) (x1 : Nat) (x2 : Nat) : Statement (.atomicCacheLapse x0 x1 x2) := event rfl rfl
theorem linkFail (x0 : Nat) : Statement (.linkFail x0) := event rfl rfl
theorem linkFrameReceive (x0 : Nat) (x1 : LinkFrame) : Statement (.linkFrameReceive x0 x1) := event rfl rfl
theorem keyRetireNotice (x0 : Nat) (x1 : Nat) : Statement (.keyRetireNotice x0 x1) := event rfl rfl
theorem keyCounterExhausted (x0 : Nat) (x1 : Nat) : Statement (.keyCounterExhausted x0 x1) := event rfl rfl
theorem lkctlWrite (x0 : Nat) (x1 : BitVec 64) : Statement (.lkctlWrite x0 x1) := event rfl rfl
theorem br (x0 : BForm) : Statement (.br x0) := words rfl
theorem brM (x0 : BForm) : Statement (.brM x0) := words rfl
theorem call (x0 : JForm) : Statement (.call x0) := words rfl
theorem jmp (x0 : RForm) : Statement (.jmp x0) := words rfl
theorem callReg (x0 : RForm) : Statement (.callReg x0) := words rfl
theorem ret (x0 : RForm) : Statement (.ret x0) := words rfl
theorem reservedHint (x0 : BitVec 4) (x1 : RForm) : Statement (.reservedHint x0 x1) := words rfl
theorem wbase (x0 : RForm) : Statement (.wbase x0) := words rfl
theorem add (x0 : BitVec 1) (x1 : RForm) : Statement (.add x0 x1) := words rfl
theorem sub (x0 : BitVec 1) (x1 : RForm) : Statement (.sub x0 x1) := words rfl
theorem mul (x0 : BitVec 1) (x1 : RForm) : Statement (.mul x0 x1) := words rfl
theorem mulhS (x0 : BitVec 1) (x1 : RForm) : Statement (.mulhS x0 x1) := words rfl
theorem mulhN (x0 : BitVec 1) (x1 : RForm) : Statement (.mulhN x0 x1) := words rfl
theorem mad (x0 : BitVec 1) (x1 : RForm) : Statement (.mad x0 x1) := words rfl
theorem neg (x0 : BitVec 1) (x1 : RForm) : Statement (.neg x0 x1) := words rfl
theorem abs (x0 : BitVec 1) (x1 : RForm) : Statement (.abs x0 x1) := words rfl
theorem minS (x0 : BitVec 1) (x1 : RForm) : Statement (.minS x0 x1) := words rfl
theorem minN (x0 : BitVec 1) (x1 : RForm) : Statement (.minN x0 x1) := words rfl
theorem maxS (x0 : BitVec 1) (x1 : RForm) : Statement (.maxS x0 x1) := words rfl
theorem maxN (x0 : BitVec 1) (x1 : RForm) : Statement (.maxN x0 x1) := words rfl
theorem and (x0 : BitVec 1) (x1 : RForm) : Statement (.and x0 x1) := words rfl
theorem or (x0 : BitVec 1) (x1 : RForm) : Statement (.or x0 x1) := words rfl
theorem xor (x0 : BitVec 1) (x1 : RForm) : Statement (.xor x0 x1) := words rfl
theorem not (x0 : BitVec 1) (x1 : RForm) : Statement (.not x0 x1) := words rfl
theorem shl (x0 : BitVec 1) (x1 : RForm) : Statement (.shl x0 x1) := words rfl
theorem shr (x0 : BitVec 1) (x1 : RForm) : Statement (.shr x0 x1) := words rfl
theorem sar (x0 : BitVec 1) (x1 : RForm) : Statement (.sar x0 x1) := words rfl
theorem rot (x0 : BitVec 1) (x1 : RForm) : Statement (.rot x0 x1) := words rfl
theorem clz (x0 : BitVec 1) (x1 : RForm) : Statement (.clz x0 x1) := words rfl
theorem popc (x0 : BitVec 1) (x1 : RForm) : Statement (.popc x0 x1) := words rfl
theorem brev (x0 : BitVec 1) (x1 : RForm) : Statement (.brev x0 x1) := words rfl
theorem bfeN (x0 : BitVec 1) (x1 : RForm) : Statement (.bfeN x0 x1) := words rfl
theorem bfeS (x0 : BitVec 1) (x1 : RForm) : Statement (.bfeS x0 x1) := words rfl
theorem bfi (x0 : BitVec 1) (x1 : RForm) : Statement (.bfi x0 x1) := words rfl
theorem sel (x0 : BitVec 1) (x1 : RForm) : Statement (.sel x0 x1) := words rfl
theorem lea (x0 : BitVec 1) (x1 : RForm) : Statement (.lea x0 x1) := words rfl
theorem mov (x0 : BitVec 1) (x1 : RForm) : Statement (.mov x0 x1) := words rfl
theorem ext (x0 : BitVec 1) (x1 : RForm) : Statement (.ext x0 x1) := words rfl
theorem dot4 (x0 : RForm) : Statement (.dot4 x0) := words rfl
theorem movl (x0 : IForm) : Statement (.movl x0) := words rfl
theorem movl64 (x0 : IForm) : Statement (.movl64 x0) := words rfl
theorem cmp (x0 : BitVec 1) (x1 : BitVec 4) (x2 : RForm) : Statement (.cmp x0 x1 x2) := words rfl
theorem mand (x0 : RForm) : Statement (.mand x0) := words rfl
theorem mor (x0 : RForm) : Statement (.mor x0) := words rfl
theorem mnot (x0 : RForm) : Statement (.mnot x0) := words rfl
theorem mmov (x0 : RForm) : Statement (.mmov x0) := words rfl
theorem ldG (x0 : MForm) : Statement (.ldG x0) := words rfl
theorem ldGAcq (x0 : MForm) : Statement (.ldGAcq x0) := words rfl
theorem stG (x0 : MForm) : Statement (.stG x0) := words rfl
theorem stGRel (x0 : MForm) : Statement (.stGRel x0) := words rfl
theorem ldCons (x0 : MForm) : Statement (.ldCons x0) := words rfl
theorem ldNc (x0 : MForm) : Statement (.ldNc x0) := words rfl
theorem ldS (x0 : MForm) : Statement (.ldS x0) := words rfl
theorem stS (x0 : MForm) : Statement (.stS x0) := words rfl
theorem ldY (x0 : MForm) : Statement (.ldY x0) := words rfl
theorem pf (x0 : MForm) : Statement (.pf x0) := words rfl
theorem fenceAcq (x0 : RForm) : Statement (.fenceAcq x0) := words rfl
theorem fenceRel (x0 : RForm) : Statement (.fenceRel x0) := words rfl
theorem fenceAr (x0 : RForm) : Statement (.fenceAr x0) := words rfl
theorem amoAdd (x0 : BitVec 1) (x1 : RForm) : Statement (.amoAdd x0 x1) := words rfl
theorem amoMinS (x0 : BitVec 1) (x1 : RForm) : Statement (.amoMinS x0 x1) := words rfl
theorem amoMaxS (x0 : BitVec 1) (x1 : RForm) : Statement (.amoMaxS x0 x1) := words rfl
theorem amoAnd (x0 : BitVec 1) (x1 : RForm) : Statement (.amoAnd x0 x1) := words rfl
theorem amoOr (x0 : BitVec 1) (x1 : RForm) : Statement (.amoOr x0 x1) := words rfl
theorem amoXor (x0 : BitVec 1) (x1 : RForm) : Statement (.amoXor x0 x1) := words rfl
theorem amoXchg (x0 : BitVec 1) (x1 : RForm) : Statement (.amoXchg x0 x1) := words rfl
theorem amoCas (x0 : BitVec 1) (x1 : RForm) : Statement (.amoCas x0 x1) := words rfl
theorem amoFadd (x0 : BitVec 1) (x1 : RForm) : Statement (.amoFadd x0 x1) := words rfl
theorem amoMinN (x0 : BitVec 1) (x1 : RForm) : Statement (.amoMinN x0 x1) := words rfl
theorem amoMaxN (x0 : BitVec 1) (x1 : RForm) : Statement (.amoMaxN x0 x1) := words rfl
theorem amoQualified (x0 : BitVec 1) (x1 : BitVec 4) (x2 : RForm) : Statement (.amoQualified x0 x1 x2) := words rfl
theorem samoAdd (x0 : RForm) : Statement (.samoAdd x0) := words rfl
theorem samoMinS32 (x0 : RForm) : Statement (.samoMinS32 x0) := words rfl
theorem samoMaxS32 (x0 : RForm) : Statement (.samoMaxS32 x0) := words rfl
theorem samoXchg (x0 : RForm) : Statement (.samoXchg x0) := words rfl
theorem fadd (x0 : BitVec 2) (x1 : RForm) : Statement (.fadd x0 x1) := words rfl
theorem fsub (x0 : BitVec 2) (x1 : RForm) : Statement (.fsub x0 x1) := words rfl
theorem fmul (x0 : BitVec 2) (x1 : RForm) : Statement (.fmul x0 x1) := words rfl
theorem fma (x0 : BitVec 2) (x1 : RForm) : Statement (.fma x0 x1) := words rfl
theorem fmin (x0 : BitVec 2) (x1 : RForm) : Statement (.fmin x0 x1) := words rfl
theorem fmax (x0 : BitVec 2) (x1 : RForm) : Statement (.fmax x0 x1) := words rfl
theorem fclass (x0 : BitVec 2) (x1 : RForm) : Statement (.fclass x0 x1) := words rfl
theorem frnd (x0 : BitVec 2) (x1 : RForm) : Statement (.frnd x0 x1) := words rfl
theorem fscale (x0 : BitVec 2) (x1 : RForm) : Statement (.fscale x0 x1) := words rfl
theorem sqrt (x0 : BitVec 2) (x1 : RForm) : Statement (.sqrt x0 x1) := words rfl
theorem exp2 (x0 : BitVec 2) (x1 : RForm) : Statement (.exp2 x0 x1) := words rfl
theorem log2 (x0 : BitVec 2) (x1 : RForm) : Statement (.log2 x0 x1) := words rfl
theorem rcp (x0 : BitVec 2) (x1 : RForm) : Statement (.rcp x0 x1) := words rfl
theorem rsqrt (x0 : BitVec 2) (x1 : RForm) : Statement (.rsqrt x0 x1) := words rfl
theorem sin (x0 : BitVec 2) (x1 : RForm) : Statement (.sin x0 x1) := words rfl
theorem cos (x0 : BitVec 2) (x1 : RForm) : Statement (.cos x0 x1) := words rfl
theorem tanh (x0 : BitVec 2) (x1 : RForm) : Statement (.tanh x0 x1) := words rfl
theorem sigm (x0 : BitVec 2) (x1 : RForm) : Statement (.sigm x0 x1) := words rfl
theorem erf (x0 : BitVec 2) (x1 : RForm) : Statement (.erf x0 x1) := words rfl
theorem haddF16x2 (x0 : RForm) : Statement (.haddF16x2 x0) := words rfl
theorem hmulF16x2 (x0 : RForm) : Statement (.hmulF16x2 x0) := words rfl
theorem hfmaF16x2 (x0 : RForm) : Statement (.hfmaF16x2 x0) := words rfl
theorem haddBf16x2 (x0 : RForm) : Statement (.haddBf16x2 x0) := words rfl
theorem hmulBf16x2 (x0 : RForm) : Statement (.hmulBf16x2 x0) := words rfl
theorem hfmaBf16x2 (x0 : RForm) : Statement (.hfmaBf16x2 x0) := words rfl
theorem fcmp (x0 : BitVec 2) (x1 : BitVec 3) (x2 : RForm) : Statement (.fcmp x0 x1 x2) := words rfl
theorem cvt (x0 : BitVec 5) (x1 : RForm) : Statement (.cvt x0 x1) := words rfl
theorem cvti (x0 : BitVec 5) (x1 : RForm) : Statement (.cvti x0 x1) := words rfl
theorem cvtq (x0 : BitVec 5) (x1 : RForm) : Statement (.cvtq x0 x1) := words rfl
theorem dcvtq (x0 : BitVec 5) (x1 : RForm) : Statement (.dcvtq x0 x1) := words rfl
theorem cvts (x0 : BitVec 5) (x1 : RForm) : Statement (.cvts x0 x1) := words rfl
theorem bcast (x0 : RForm) : Statement (.bcast x0) := words rfl
theorem rdlane (x0 : RForm) : Statement (.rdlane x0) := words rfl
theorem wrlane (x0 : RForm) : Statement (.wrlane x0) := words rfl
theorem voteAny (x0 : RForm) : Statement (.voteAny x0) := words rfl
theorem voteAll (x0 : RForm) : Statement (.voteAll x0) := words rfl
theorem voteUni (x0 : RForm) : Statement (.voteUni x0) := words rfl
theorem ballot (x0 : RForm) : Statement (.ballot x0) := words rfl
theorem shflIdx (x0 : RForm) : Statement (.shflIdx x0) := words rfl
theorem shflUp (x0 : RForm) : Statement (.shflUp x0) := words rfl
theorem shflDown (x0 : RForm) : Statement (.shflDown x0) := words rfl
theorem shflXor (x0 : RForm) : Statement (.shflXor x0) := words rfl
theorem elect (x0 : RForm) : Statement (.elect x0) := words rfl
theorem reduce (x0 : BitVec 3) (x1 : RForm) : Statement (.reduce x0 x1) := words rfl
theorem scan (x0 : BitVec 3) (x1 : RForm) : Statement (.scan x0 x1) := words rfl
theorem tshape (x0 : RForm) : Statement (.tshape x0) := words rfl
theorem tld (x0 : RForm) : Statement (.tld x0) := words rfl
theorem tst (x0 : RForm) : Statement (.tst x0) := words rfl
theorem tzero (x0 : RForm) : Statement (.tzero x0) := words rfl
theorem tmov (x0 : RForm) : Statement (.tmov x0) := words rfl
theorem tfragRead (x0 : RForm) : Statement (.tfragRead x0) := words rfl
theorem tfragWrite (x0 : RForm) : Statement (.tfragWrite x0) := words rfl
theorem wlatch (x0 : RForm) : Statement (.wlatch x0) := words rfl
theorem mma (x0 : RForm) : Statement (.mma x0) := words rfl
theorem tmask (x0 : RForm) : Statement (.tmask x0) := words rfl
theorem accld (x0 : RForm) : Statement (.accld x0) := words rfl
theorem accst (x0 : RForm) : Statement (.accst x0) := words rfl
theorem accscale (x0 : RForm) : Statement (.accscale x0) := words rfl
theorem accrd (x0 : RForm) : Statement (.accrd x0) := words rfl
theorem accadd (x0 : RForm) : Statement (.accadd x0) := words rfl
theorem tquant (x0 : RForm) : Statement (.tquant x0) := words rfl
theorem tdeq (x0 : RForm) : Statement (.tdeq x0) := words rfl
theorem stbind (x0 : RForm) : Statement (.stbind x0) := words rfl
theorem dmma (x0 : RForm) : Statement (.dmma x0) := words rfl
theorem strefresh (x0 : RForm) : Statement (.strefresh x0) := words rfl
theorem stinval (x0 : RForm) : Statement (.stinval x0) := words rfl
theorem stflush (x0 : RForm) : Statement (.stflush x0) := words rfl
theorem stquery (x0 : RForm) : Statement (.stquery x0) := words rfl
theorem tcload (x0 : RForm) : Statement (.tcload x0) := words rfl
theorem tcread (x0 : RForm) : Statement (.tcread x0) := words rfl
theorem xcopy (x0 : RForm) : Statement (.xcopy x0) := words rfl
theorem xpf (x0 : RForm) : Statement (.xpf x0) := words rfl
theorem xcancel (x0 : RForm) : Statement (.xcancel x0) := words rfl
theorem xstat (x0 : RForm) : Statement (.xstat x0) := words rfl
theorem swinit (x0 : RForm) : Statement (.swinit x0) := words rfl
theorem swarrive (x0 : RForm) : Statement (.swarrive x0) := words rfl
theorem swwait (x0 : RForm) : Statement (.swwait x0) := words rfl
theorem launch (x0 : RForm) : Statement (.launch x0) := words rfl
theorem lwait (x0 : RForm) : Statement (.lwait x0) := words rfl
theorem waitw (x0 : RForm) : Statement (.waitw x0) := words rfl
theorem sleep (x0 : RForm) : Statement (.sleep x0) := words rfl
theorem trap (x0 : RForm) : Statement (.trap x0) := words rfl
theorem getfl (x0 : RForm) : Statement (.getfl x0) := words rfl
theorem clrfl (x0 : RForm) : Statement (.clrfl x0) := words rfl
theorem brk (x0 : RForm) : Statement (.brk x0) := words rfl
theorem rdtime (x0 : RForm) : Statement (.rdtime x0) := words rfl
theorem imprintq (x0 : RForm) : Statement (.imprintq x0) := words rfl
theorem getc (x0 : IForm) : Statement (.getc x0) := words rfl
theorem setc (x0 : IForm) : Statement (.setc x0) := words rfl
theorem sort (x0 : SForm) : Statement (.sort x0) := words rfl
theorem hostAtomicopCompletion (x0 : Nat) (x1 : BitVec 64) : Statement (.hostAtomicopCompletion x0 x1) := event rfl rfl
theorem linkTrained (x0 : Nat) (x1 : BitVec 256) (x2 : BitVec 32) : Statement (.linkTrained x0 x1 x2) := event rfl rfl
theorem powerLoss : Statement .powerLoss := event rfl rfl
theorem crcMonitorInterval : Statement .crcMonitorInterval := event rfl rfl
theorem gets : Statement .gets := event rfl rfl
theorem getx : Statement .getx := event rfl rfl
theorem upg : Statement .upg := event rfl rfl
theorem putx : Statement .putx := event rfl rfl
theorem pute : Statement .pute := event rfl rfl
theorem ncrd : Statement .ncrd := event rfl rfl
theorem ncwr : Statement .ncwr := event rfl rfl
theorem pwr : Statement .pwr := event rfl rfl
theorem zwr : Statement .zwr := event rfl rfl
theorem amo : Statement .amo := event rfl rfl
theorem acqrd : Statement .acqrd := event rfl rfl
theorem relrec : Statement .relrec := event rfl rfl
theorem pwb : Statement .pwb := event rfl rfl
theorem fwds : Statement .fwds := event rfl rfl
theorem fwdx : Statement .fwdx := event rfl rfl
theorem inv : Statement .inv := event rfl rfl
theorem recallLine : Statement .recallLine := event rfl rfl
theorem promote : Statement .promote := event rfl rfl
theorem data : Statement .data := event rfl rfl
theorem gntx : Statement .gntx := event rfl rfl
theorem cmpl : Statement .cmpl := event rfl rfl
theorem wback : Statement .wback := event rfl rfl
theorem amor : Statement .amor := event rfl rfl
theorem deny : Statement .deny := event rfl rfl
theorem iack : Statement .iack := event rfl rfl
theorem fdata : Statement .fdata := event rfl rfl
theorem promack : Statement .promack := event rfl rfl
theorem vbump : Statement .vbump := event rfl rfl
theorem vnew : Statement .vnew := event rfl rfl
theorem vack : Statement .vack := event rfl rfl
theorem vdone : Statement .vdone := event rfl rfl
theorem proofPublish : Statement .proofPublish := event rfl rfl
theorem assignTenantToAsid : Statement .assignTenantToAsid := event rfl rfl
theorem mapRange : Statement .mapRange := event rfl rfl
theorem unmapRange : Statement .unmapRange := event rfl rfl
theorem configureLaunchQueue : Statement .configureLaunchQueue := event rfl rfl
theorem setHostPortTenant : Statement .setHostPortTenant := event rfl rfl
theorem fresh : Statement .fresh := event rfl rfl
theorem restore : Statement .restore := event rfl rfl
theorem checkpoint : Statement .checkpoint := event rfl rfl
theorem retire : Statement .retire := event rfl rfl
theorem importRecord : Statement .importRecord := event rfl rfl
theorem keyLoad : Statement .keyLoad := event rfl rfl
theorem tailPollTimer : Statement .tailPollTimer := event rfl rfl
theorem dispatchChoose : Statement .dispatchChoose := event rfl rfl
theorem reform : Statement .reform := words rfl
theorem exit : Statement .exit := words rfl
theorem nop : Statement .nop := words rfl
theorem yield : Statement .yield := words rfl
theorem gdrain : Statement .gdrain := words rfl
theorem tcfence : Statement .tcfence := words rfl
theorem tbar : Statement .tbar := words rfl
theorem cbar : Statement .cbar := words rfl
theorem eret : Statement .eret := words rfl
theorem tfence : Statement .tfence := words rfl

end Sys2Proof.Laws.Encodes
end

