-- ==== Sys2Proof/Laws/Traps.lean ====
section
/-!
SUPPORT. What stopping a gang, entering a handler, returning from one, checking an access, choosing and one step can do,
each said once.
-/

namespace Sys2Proof.Machine

/-! ### Stops (R369 to R376) -/

/-- What a cause comes to (R370, R375): its own outcome, a nested trap, the handler, or the end of the team without one. -/
theorem State.resolve_cases (s : State) (k : Nat) (st : Stop) :
    (outcome st.cause ≠ .handler ∧ s.resolve k st = (st, outcome st.cause))
    ∨ (outcome st.cause = .handler ∧ (s.gid k).inHandler = true ∧ s.resolve k st = ({ st with cause := 0x12 }, .team))
    ∨ (outcome st.cause = .handler ∧ (s.gid k).inHandler = false
        ∧ (s.lc (s.gid k).core (s.gid k).kslot).tvec.getLsbD 0 = true ∧ s.resolve k st = (st, .handler))
    ∨ (outcome st.cause = .handler ∧ (s.gid k).inHandler = false
        ∧ (s.lc (s.gid k).core (s.gid k).kslot).tvec.getLsbD 0 = false ∧ s.resolve k st = (st, .team)) := by
  unfold State.resolve
  cases ho : outcome st.cause <;> simp only [ne_eq, not_true_eq_false, not_false_eq_true, reduceCtorEq, false_and, true_and, false_or, or_false]
  cases hi : (s.gid k).inHandler <;> cases ht : (s.lc (s.gid k).core (s.gid k).kslot).tvec.getLsbD 0 <;> simp

/-- A stop changes the gang id, its team, its launch and the agenda, and nothing else. -/
theorem State.stopGang_only (s : State) (k : Nat) (st : Stop) :
    s.stopGang k st = { s with gids := (s.stopGang k st).gids, teams := (s.stopGang k st).teams
                               launches := (s.stopGang k st).launches, agenda := (s.stopGang k st).agenda } := by
  unfold State.stopGang
  generalize s.resolve k st = r
  obtain ⟨st', e⟩ := r
  cases e <;> simp only <;> (try split) <;> (rw [State.soonOnce_agenda]; rfl)

/-- The gang that stops is held with its cause, and no group of its gang id is drawn. -/
theorem State.stopGang_gids (s : State) (k : Nat) (st : Stop) :
    (s.stopGang k st).gids = Tab.change s.gids k (fun g =>
      { g with frozen := true, held := g.held ++ [{ g.gang with stop := some (s.resolve k st).1 }], gang := {} }) := by
  unfold State.stopGang
  generalize s.resolve k st = r
  obtain ⟨st', e⟩ := r
  cases e <;> simp only <;> (try split) <;> (rw [State.soonOnce_agenda]; rfl)

/-- What the outcome of a cause asks for stands on the agenda. -/
theorem State.stopGang_asks (s : State) (k : Nat) (st : Stop) :
    match (s.resolve k st).2 with
    | .handler => (s.stopGang k st).awaits (.handlerEntry k) = true
    | .team => ∃ n, (s.stopGang k st).awaits (.teamEnd n) = true
    | .launch => ∃ n, (s.stopGang k st).awaits (.launchEnd n) = true
    | .poison => ∃ n, (s.stopGang k st).awaits (.teamRelaunch n) = true ∨ (s.stopGang k st).awaits (.teamEnd n) = true := by
  unfold State.stopGang
  generalize s.resolve k st = r
  obtain ⟨st', e⟩ := r
  cases e <;> simp only
  · exact State.awaits_soonOnce _ _
  · exact ⟨_, State.awaits_soonOnce _ _⟩
  · exact ⟨_, State.awaits_soonOnce _ _⟩
  · split
    · exact ⟨_, .inl (State.awaits_soonOnce _ _)⟩
    · exact ⟨_, .inr (State.awaits_soonOnce _ _)⟩

/-- A lane after handler entry (R373): one of the stopped gang saves its PC, WBASE, address and w registers and starts the
handler; any other is as it was. -/
theorem Gid.lane_enter (g : Gid) (gg : Gang) (st : Stop) (rpc : Dword) (epc : Nat → Dword) (hpc : Dword) (resume : Bool)
    (now uid l : Nat) (h : l < g.lanes.length) :
    (g.enter gg st rpc epc hpc resume now uid).lane l =
      if gg.active.getLsbD l then
        { g.lane l with epc := epc l, ewb := BitVec.ofNat 64 (g.lane l).wbase, eaddr := Tab.get 0 st.addrs l, ew := (g.lane l).w,
                        taint := [], st := .issuing, wasWaiting := (g.lane l).st == .waiting, pc := hpc }
      else g.lane l := by
  show (g.mapLanes _).lane l = _
  rw [Gid.lane_mapLanes _ _ _ h]

/-- A lane after the return (R376): a kept one goes on at RPC, another of the gang is filed at its EPC, with WBASE from EWB. -/
theorem Gid.lane_eret (g : Gid) (now l : Nat) (h : g.isActive l = true) :
    (g.eret now).lane l =
      let t := { g.lane l with wbase := (g.lane l).ewb.toNat, w := if g.gcause.getLsbD 14 then (g.lane l).ew else (g.lane l).w }
      if g.eretKeeps l then { t with pc := g.rpc, st := .issuing } else { t with pc := t.epc, st := .filed, filedAt := now } := by
  show (g.mapActive _).lane l = _
  rw [Gid.lane_mapActive _ _ _ h]

theorem Gid.lane_eret_idle (g : Gid) (now l : Nat) (h : g.isActive l = false) : (g.eret now).lane l = g.lane l := by
  show (g.mapActive _).lane l = _
  rw [Gid.lane_mapActive_idle _ _ _ h]

@[simp] theorem Gid.eret_gcause (g : Gid) (now : Nat) : (g.eret now).gcause = 0 := rfl

/-! ### Access tables (R68 to R72) -/

/-- What permits an access: a valid entry of the master with its tenant, whose blocks hold the address and whose rights in
force grant it. -/
theorem State.permits_some (s : State) (port master : Nat) (tenant : BitVec 12) (pa : Nat) (k : Ask) (e : BitVec 128)
    (h : s.permits port master tenant pa k = some e) :
    master < 2208 ∧ (∃ i < 8, e = s.accEntry port master i) ∧ e.getLsbD 0 = true ∧ e.extractLsb' 8 12 = tenant
    ∧ (e.extractLsb' 32 32).toNat ≤ pa / 2 ^ 16 ∧ pa / 2 ^ 16 ≤ (e.extractLsb' 96 32).toNat ∧ grants (s.inForce e) k = true := by
  unfold State.permits at h
  split at h
  · cases h
  · next hm =>
    have hp := List.find?_some h
    have hi := List.mem_of_find?_eq_some h
    simp only [List.mem_map, List.mem_range] at hi
    obtain ⟨i, hi, rfl⟩ := hi
    simp only [Bool.and_eq_true, beq_iff_eq, decide_eq_true_eq] at hp
    exact ⟨by omega, ⟨i, hi, rfl⟩, hp.1.1.1.1, hp.1.1.1.2, hp.1.1.2, hp.1.2, hp.2⟩

/-- A denial changes registers and nothing else. -/
theorem State.recordDenial_only (s : State) (port : Nat) (k : Ask) (master pa : Nat) :
    s.recordDenial port k master pa = { s with regs := (s.recordDenial port k master pa).regs } := by
  unfold State.recordDenial
  simp only
  split <;> rfl

/-! ### Memory -/

/-- A line that is written is in the writes of the step, and nothing else changes. -/
theorem State.setMemLine_only (s : State) (ln : Nat) (l : Line) (m : LineMask) :
    s.setMemLine ln l m = { s with wr := (s.setMemLine ln l m).wr } := by
  unfold State.setMemLine
  generalize List.range 128 = ks
  induction ks generalizing s with
  | nil => rfl
  | cons k ks ih =>
    simp only [List.foldl_cons]
    rw [ih]
    split <;> rfl

/-! ### Choices and steps -/

/-- A choice among some cases is one of them. -/
theorem State.pick_lt (s : State) (n : Nat) (h : 0 < n) : (s.pick n).1 < n := by
  unfold State.pick
  split
  · exact h
  · exact Nat.mod_lt _ h

/-- A choice uses up a pick and changes nothing else. -/
theorem State.pick_only (s : State) (n : Nat) : (s.pick n).2 = { s with picks := s.picks.tail } := by
  unfold State.pick
  split
  · next h => rw [h]; cases s; simp_all
  · next h => simp [h]

/-- Time never goes back. -/
theorem State.pass_le (s : State) : s.ptime ≤ s.pass.ptime := by
  unfold State.pass
  simp only
  split <;> split <;> simp

/-- A step that goes on: time passes, and either nothing is due, or one due item is taken and does what it does; what it
wrote stands in memory. -/
theorem step_cases (s t : State) (h : step s = .next t) :
    ((s.pass).takeItem.1 = none ∧ t = finish s (s.pass).takeItem.2)
    ∨ ∃ e u, (s.pass).takeItem.1 = some e ∧ (s.pass).takeItem.2.act exec State.takeMailbox e.2 = .next u ∧ t = finish s u := by
  unfold step at h
  split at h
  · next u hu =>
    simp only [Host.Outcome.next.injEq] at h
    unfold State.advance at hu
    simp only at hu
    split at hu
    · next v hv =>
      simp only [Host.Outcome.next.injEq] at hu
      exact .inl ⟨by rw [hv], by rw [hv]; simp only; rw [hu]; exact h.symm⟩
    · next e v hv =>
      exact .inr ⟨e, u, by rw [hv], by rw [hv]; exact hu, h.symm⟩
  · cases h
  · cases h

/-- What goes first among the items of one way is one of the due items. -/
theorem State.firstOfWay_mem (s : State) (due : List (Nat × Due)) (e : Nat × Due) (h : e ∈ due) : s.firstOfWay due e ∈ due := by
  unfold State.firstOfWay
  split
  · exact h
  · split
    · exact h
    · next d ds hd =>
      have hall : ∀ x ∈ d :: ds, x ∈ due := fun x hx => (List.mem_filter.mp (hd ▸ hx)).1
      have hfold : ∀ (f : Nat × Due → Nat × Due → Nat × Due), (∀ a b, f a b = a ∨ f a b = b) →
          ∀ (l : List (Nat × Due)) (a : Nat × Due), a ∈ due → (∀ x ∈ l, x ∈ due) → l.foldl f a ∈ due := by
        intro f hf l
        induction l with
        | nil => intro a ha _; exact ha
        | cons x xs ih =>
          intro a ha hl
          refine ih _ ?_ (fun y hy => hl y (List.mem_cons_of_mem _ hy))
          rcases hf a x with h | h <;> rw [h]
          · exact ha
          · exact hl x (List.mem_cons_self ..)
      refine hfold _ (fun a b => ?_) ds d (hall d (List.mem_cons_self ..)) (fun x hx => hall x (List.mem_cons_of_mem _ hx))
      split
      · exact .inr rfl
      · exact .inl rfl

theorem State.inTurn_mem (s : State) (due : List (Nat × Due)) (e : Nat × Due) (h : e ∈ due) : s.inTurn due e ∈ due := by
  unfold State.inTurn
  refine State.firstOfWay_mem s due _ ?_
  split
  · cases hf : due.find? _ with
    | none => exact h
    | some x => exact List.mem_of_find?_eq_some hf
  · exact h

/-- An item is taken from the agenda only when it is due. -/
theorem State.takeItem_due (s : State) (e : Nat × Due) (h : s.takeItem.1 = some e) : e.1 ≤ s.ptime := by
  have hby : ∀ (a l : List (Nat × Due)) (x : Nat × Due), x ∈ a.foldl (fun l e => insertDue e l) l → x ∈ a ∨ x ∈ l := by
    have hins : ∀ (e : Nat × Due) (l : List (Nat × Due)) (x : Nat × Due), x ∈ insertDue e l → x = e ∨ x ∈ l := by
      intro e l
      induction l with
      | nil => intro x hx; simpa [insertDue] using hx
      | cons d ds ih =>
        intro x hx
        unfold insertDue at hx
        split at hx
        · rcases List.mem_cons.mp hx with rfl | hx
          · exact .inr (List.mem_cons_self ..)
          · rcases ih x hx with h | h
            · exact .inl h
            · exact .inr (List.mem_cons_of_mem _ h)
        · rcases List.mem_cons.mp hx with h | h
          · exact .inl h
          · exact .inr h
    intro a
    induction a with
    | nil => intro l x hx; exact .inr hx
    | cons d ds ih =>
      intro l x hx
      rcases ih _ x hx with h | h
      · exact .inl (List.mem_cons_of_mem _ h)
      · rcases hins d l x h with rfl | h
        · exact .inl (List.mem_cons_self ..)
        · exact .inr h
  have hmem : ∀ x, x ∈ byTime (s.agenda.filter (fun e => decide (e.1 ≤ s.ptime))) → x.1 ≤ s.ptime := by
    intro x hx
    rcases hby _ _ x hx with h | h
    · simpa using (List.mem_filter.mp h).2
    · cases h
  unfold State.takeItem at h
  simp only at h
  split at h
  · cases h
  · split at h
    · cases h
    · next e' he =>
      simp only [Option.some.injEq] at h
      subst h
      exact hmem _ (State.inTurn_mem _ _ _ (List.mem_of_getElem? he))

end Sys2Proof.Machine
end

