-- ==== Sys2Proof/Tests/Slice0.lean ====
section
/-!
SUPPORT. Tests of the model: words of the spec that decode, terms that are not well-formed, one step of an instruction beside the
spec's examples, and a witness for the hypotheses of each statement.
-/

namespace Sys2Proof.Tests

set_option Elab.async false

open Sys2Proof Sys2Proof.Machine

/-! ### Decoding: words written out in spec/ (08, 09, 10, 11, 12, 17, 18, 19) -/

/-- The words decode to the instruction, with nothing left, and it is well-formed; and they are its encoding. -/
def decodes (ws : List Word) (i : Instr) : Bool :=
  (match decode ws with
    | .ok (j, []) => decide (j = i)
    | _ => false) && i.wellFormed && decide (encode i = ws)

theorem test_decode_add_n64 : decodes [0x14206100#32] (.add 1 ⟨.none, 4, 6, 8, 0⟩) = true := by decide
theorem test_decode_movl : decodes [0x18174FFB#32] (.movl ⟨.none, 2, 116, 0xFFB, 0⟩) = true := by decide
theorem test_decode_cmp : decodes [0x1C082092#32] (.cmp 1 2 ⟨.none, 1, 2, 4, 0⟩) = true := by decide
theorem test_decode_br_m : decodes [0x069FFFFA#32] (.brM ⟨.none, 2, 0, 0x1FFFFA⟩) = true := by decide
theorem test_decode_ld_g_acq : decodes [0xF9E81800#32, 0x40502A02#32] (.ldGAcq ⟨.o ⟨116, 0, 1, 4⟩, 10, 2, 5, 2, 0⟩) = true := by decide
theorem test_decode_amo_add : decodes [0x642820E0#32] (.amoAdd 0 ⟨.none, 5, 2, 7, 0⟩) = true := by decide
theorem test_decode_fence_rel : decodes [0xF9E80400#32, 0x63A74E82#32] (.fenceRel ⟨.o ⟨116, 0, 0, 2⟩, 116, 116, 116, 0⟩) = true := by decide
theorem test_decode_fadd : decodes [0x84201040#32] (.fadd 1 ⟨.none, 4, 1, 2, 0⟩) = true := by decide
theorem test_decode_fma_rtz : decodes [0xF9068000#32, 0x84201043#32] (.fma 1 ⟨.o ⟨3, 1, 0, 0⟩, 4, 1, 2, 0⟩) = true := by decide
theorem test_decode_sqrt : decodes [0x8050CE89#32] (.sqrt 0 ⟨.none, 10, 12, 116, 0⟩) = true := by decide
theorem test_decode_hfma : decodes [0xF9120000#32, 0x90307105#32] (.hfmaBf16x2 ⟨.o ⟨9, 0, 0, 0⟩, 6, 7, 8, 0⟩) = true := by decide
theorem test_decode_fcmp : decodes [0x9418104A#32] (.fcmp 1 2 ⟨.none, 3, 1, 2, 0⟩) = true := by decide
theorem test_decode_cvts : decodes [0xA4286E86#32] (.cvts 6 ⟨.none, 5, 6, 116, 0⟩) = true := by decide
theorem test_decode_shfl_xor : decodes [0xC018104A#32] (.shflXor ⟨.none, 3, 1, 2, 0⟩) = true := by decide
theorem test_decode_reduce : decodes [0xC3001E90#32] (.reduce 0 ⟨.none, 96, 1, 116, 0⟩) = true := by decide
theorem test_decode_ballot : decodes [0xC0402E86#32] (.ballot ⟨.none, 8, 2, 116, 0⟩) = true := by decide
theorem test_decode_tshape : decodes [0xFA800100#32, 0xD3A01040#32] (.tshape ⟨.t ⟨4, 0, 0, 0, 0, 0, 0, 0, 0, 8⟩, 116, 1, 2, 0⟩) = true := by decide
theorem test_decode_tld : decodes [0xFA400000#32, 0xD3A040C1#32] (.tld ⟨.t ⟨2, 0, 0, 0, 0, 0, 0, 0, 0, 0⟩, 116, 4, 6, 0⟩) = true := by decide
theorem test_decode_wlatch_p : decodes [0xFA000000#32, 0xD00F4E86#32] (.wlatch ⟨.t ⟨0, 0, 0, 0, 0, 0, 0, 0, 0, 0⟩, 1, 116, 116, 0⟩) = true := by decide
theorem test_decode_dmma : decodes [0xFA048060#32, 0xD7A74E81#32] (.dmma ⟨.t ⟨0, 1, 0, 2, 0, 0, 0, 0, 0, 3⟩, 116, 116, 116, 0⟩) = true := by decide
theorem test_decode_stquery : decodes [0xFA004000#32, 0xD4474E85#32] (.stquery ⟨.t ⟨0, 0, 0, 1, 0, 0, 0, 0, 0, 0⟩, 8, 116, 116, 0⟩) = true := by decide
theorem test_decode_mma_tr : decodes [0xFA012640#32, 0xD3A74D07#32] (.mma ⟨.t ⟨0, 0, 1, 0, 1, 0, 0, 1, 1, 2⟩, 116, 116, 104, 0⟩) = true := by decide
theorem test_decode_tquant : decodes [0xFA610000#32, 0xD3A74E8E#32] (.tquant ⟨.t ⟨3, 0, 1, 0, 0, 0, 0, 0, 0, 0⟩, 116, 116, 116, 0⟩) = true := by decide
theorem test_decode_tcload : decodes [0xE3A02060#32] (.tcload ⟨.none, 116, 2, 3, 0⟩) = true := by decide
theorem test_decode_tcfence : decodes [0xE3A74E81#32] (.tcfence) = true := by decide
theorem test_decode_xcopy_y : decodes [0xF9E80800#32, 0xE3A60123#32] (.xcopy ⟨.o ⟨116, 0, 0, 4⟩, 116, 96, 9, 0⟩) = true := by decide
theorem test_decode_swinit : decodes [0xE03840C7#32] (.swinit ⟨.none, 7, 4, 6, 0⟩) = true := by decide
theorem test_decode_tbar : decodes [0xE7A74E80#32] (.tbar) = true := by decide
theorem test_decode_waitw : decodes [0xF9E80800#32, 0xE4102064#32] (.waitw ⟨.o ⟨116, 0, 0, 4⟩, 2, 2, 3, 0⟩) = true := by decide
theorem test_decode_tfence : decodes [0xEBA74E84#32] (.tfence) = true := by decide
theorem test_decode_rdtime : decodes [0xE8574E86#32] (.rdtime ⟨.none, 10, 116, 116, 0⟩) = true := by decide
theorem test_decode_getc : decodes [0xEF87404A#32] (.getc ⟨.none, 112, 116, 0x04A, 0⟩) = true := by decide
theorem test_decode_setc : decodes [0xF3A02002#32] (.setc ⟨.none, 116, 2, 0x002, 0⟩) = true := by decide
theorem test_decode_movl64 : decodes [0xF8000000#32, 0x18174B02#32] (.movl64 ⟨.w 0, 2, 116, 0xB02, 0⟩) = true := by decide
theorem test_decode_mul_literal : decodes [0x10275FE2#32, 0x00001040#32] (.mul 0 ⟨.none, 4, 117, 127, 0x1040⟩) = true := by decide
theorem test_decode_lea : decodes [0xF9000000#32, 0x1436009B#32] (.lea 1 ⟨.o ⟨0, 0, 0, 0⟩, 6, 96, 4, 0⟩) = true := by decide
theorem test_decode_ld_g : decodes [0x40506800#32] (.ldG ⟨.none, 10, 6, 4, 0, 0⟩) = true := by decide
theorem test_decode_sort : decodes [0xFC0B50A0#32] (.sort ⟨.none, 2, 106, 10, 0⟩) = true := by decide


theorem test_decode_header : decodeHeader 0x00010004#32 = some ⟨4, 0, 0, 3, false⟩ := by decide
theorem test_decode_header_no_flags : decodeHeader 0x00003FC8#32 = some ⟨0, 15, 15, 5, false⟩ := by decide
/-- Fn 19 of majors 0x20 to 0x23 is not defined (Table 1 of R268). -/
theorem test_decode_reserved_fn : (decode [0x8050CE93#32]).toOption = none := by decide
/-- Two prefixes (R202). -/
theorem test_decode_two_prefixes : (decode [0xF9060000#32, 0xF9060000#32, 0x84201043#32]).toOption = none := by decide
/-- An instruction without its second word. -/
theorem test_decode_truncated : (decode [0xF9060000#32]).toOption = none := by decide

/-! ### Ill-formed terms, one for each check -/

/-- `exp2.f64` (R219, R270). -/
theorem test_ill_f64_special : (Instr.exp2 0 ⟨.none, 10, 12, 116, 0⟩).wellFormed = false := by decide
/-- A 64-bit operand in an odd register (R225). -/
theorem test_ill_odd_pair : (Instr.add 1 ⟨.none, 5, 6, 8, 0⟩).wellFormed = false := by decide
/-- A field of 126 (R170). -/
theorem test_ill_field_126 : (Instr.add 0 ⟨.none, 5, 126, 8, 0⟩).wellFormed = false := by decide
/-- A special as destination (R226). -/
theorem test_ill_special_destination : (Instr.add 0 ⟨.none, 117, 6, 8, 0⟩).wellFormed = false := by decide
/-- An unused field that does not hold 116 (R201). -/
theorem test_ill_unused_field : (Instr.neg 0 ⟨.none, 5, 6, 8, 0⟩).wellFormed = false := by decide
/-- A required prefix is missing (R202). -/
theorem test_ill_no_prefix : (Instr.fma 1 ⟨.none, 4, 1, 2, 0⟩).wellFormed = false := by decide
/-- A prefix that the form does not take. -/
theorem test_ill_prefix : (Instr.add 0 ⟨.o ⟨3, 0, 0, 0⟩, 4, 1, 2, 0⟩).wellFormed = false := by decide
/-- QUAL in a prefix for RM and C alone (R202). -/
theorem test_ill_qual : (Instr.fma 1 ⟨.o ⟨3, 1, 1, 0⟩, 4, 1, 2, 0⟩).wellFormed = false := by decide
/-- A fence without a scope (R264). -/
theorem test_ill_scope : (Instr.fenceRel ⟨.o ⟨116, 0, 0, 0⟩, 116, 116, 116, 0⟩).wellFormed = false := by decide
/-- A condition above 9 (R241). -/
theorem test_ill_condition : (Instr.cmp 0 10 ⟨.none, 1, 2, 4, 0⟩).wellFormed = false := by decide
/-- A mask register above 7 (R241). -/
theorem test_ill_mask_register : (Instr.cmp 0 0 ⟨.none, 8, 2, 4, 0⟩).wellFormed = false := by decide
/-- An access size of 7 (Table 1 of R200). -/
theorem test_ill_size : (Instr.ldG ⟨.none, 10, 6, 7, 0, 0⟩).wellFormed = false := by decide
/-- A source code that `ext` does not take (R239). -/
theorem test_ill_ext_code : (Instr.ext 0 ⟨.none, 4, 5, 19, 0⟩).wellFormed = false := by decide
/-- A T field that the form does not use (R292). -/
theorem test_ill_t_field : (Instr.tld ⟨.t ⟨2, 1, 0, 0, 0, 0, 0, 0, 0, 0⟩, 116, 4, 6, 0⟩).wellFormed = false := by decide
/-- `wrlane` into a y register (R283). -/
theorem test_ill_wrlane : (Instr.wrlane ⟨.none, 96, 1, 2, 0⟩).wellFormed = false := by decide
/-- A literal kept where no field holds 127 (R203). -/
theorem test_ill_literal : (Instr.add 0 ⟨.none, 4, 1, 2, 5⟩).wellFormed = false := by decide
/-- A named step of another agent has no words. -/
theorem test_ill_event : Instr.powerLoss.wellFormed = false := by decide

/-! ### One step on a small state -/

/-- A gang whose lanes are those of `active`, with an instruction at 0x1004 of a clause at 0x1000. -/
def gang0 (active : BitVec 64) : Gang :=
  { uid := 5, active := active, hdr := 0x1000, next := 0x1010, running := true, buf := [⟨0x1004, [0]⟩] }

/-- Its gang id of 16 threads on core 0, every thread with the same registers. -/
def gid0 (active : BitVec 64) (x : Tab Word) (y : Tab Word) : Gid :=
  { team := 2, launch := 3, lanes := List.replicate 16 { st := .issuing, x := x }, y := y, gang := gang0 active }

/-- A lease of 1 MiB from address 0, granted for a second. -/
def lease0 : LeaseRec := { vbase := 0, len := 2 ^ 20, rights := 15, st := .granted, expiry := 10 ^ 9 }

/-- Its page in the TLB of cluster 0. -/
def page0 : TlbEntry :=
  { launch := 3, asid := 7, lo := 0, hi := 2 ^ 20 - 1, pa := 2 ^ 30, rights := 15, wt := false, nc := false, ireg := 0
    recIx := 0, expiry := 10 ^ 9 }

/-- A state in which that gang issues. -/
def st0 (active : BitVec 64) (x y : Tab Word) : State :=
  { State.reset with
    powered := true, agenda := [], nextId := 100, cur := 1
    gids := [(1, gid0 active x y)]
    teams := [(2, { launch := 3, winSize := 4096 })]
    launches := [(3, { asid := 7, tenant := 1, phase := .ready, recs := [lease0] })]
    cores := [(0, { slot := some (1, 5) })]
    tlbs := [(0, [page0])] }

/-- Register `r` of lane `l` after instruction `i`. -/
def after (i : Instr) (s : State) (l r : Nat) : Option Word := match exec i s with
  | .next t => some ((t.g.lane l).xreg r)
  | _ => none

/-- x5 after an instruction of one lane whose x1, x2, x3 and x5 hold `a`, `b`, `c` and `d`. -/
def res (i : Instr) (a b c d : Word) : Option Word := after i (st0 1 [(1, a), (2, b), (3, c), (5, d)] []) 0 5

/-! The examples of R242 -/

theorem test_add_wraps : res (.add 0 ⟨.none, 5, 1, 2, 0⟩) 0xFFFFFFFF 0x1 0x0 0x0 = some 0x0 := by decide
theorem test_abs_of_lowest : res (.abs 0 ⟨.none, 5, 1, 116, 0⟩) 0x80000000 0x0 0x0 0x0 = some 0x80000000 := by decide
theorem test_mulh_signed : res (.mulhS 0 ⟨.none, 5, 1, 2, 0⟩) 0x80000000 0x80000000 0x0 0x0 = some 0x40000000 := by decide
theorem test_mulh_unsigned : res (.mulhN 0 ⟨.none, 5, 1, 2, 0⟩) 0xFFFFFFFF 0xFFFFFFFF 0x0 0x0 = some 0xFFFFFFFE := by decide
theorem test_shl_by_33 : res (.shl 0 ⟨.none, 5, 1, 2, 0⟩) 0x1 0x21 0x0 0x0 = some 0x2 := by decide
theorem test_sar_by_31 : res (.sar 0 ⟨.none, 5, 1, 2, 0⟩) 0x80000000 0x1F 0x0 0x0 = some 0xFFFFFFFF := by decide
theorem test_clz_of_0 : res (.clz 0 ⟨.none, 5, 1, 116, 0⟩) 0x0 0x0 0x0 0x0 = some 0x20 := by decide
theorem test_brev : res (.brev 0 ⟨.none, 5, 1, 116, 0⟩) 0x1 0x0 0x0 0x0 = some 0x80000000 := by decide
theorem test_bfe_signed : res (.bfeS 0 ⟨.o ⟨3, 0, 0, 0⟩, 5, 1, 2, 0⟩) 0xF00 0x8 0x4 0x0 = some 0xFFFFFFFF := by decide
theorem test_bfe_natural : res (.bfeN 0 ⟨.o ⟨3, 0, 0, 0⟩, 5, 1, 2, 0⟩) 0xF00 0x8 0x4 0x0 = some 0xF := by decide
theorem test_bfe_empty : res (.bfeN 0 ⟨.o ⟨3, 0, 0, 0⟩, 5, 1, 2, 0⟩) 0xF00 0x28 0x4 0x0 = some 0x0 := by decide
theorem test_bfi : res (.bfi 0 ⟨.o ⟨3, 0, 0, 0⟩, 5, 1, 2, 0⟩) 0x0 0x4 0x8 0xFFFFFFFF = some 0xFFFFF00F := by decide
theorem test_min_natural : res (.minN 0 ⟨.none, 5, 1, 2, 0⟩) 0xFFFFFFFF 0x1 0x0 0x0 = some 0x1 := by decide
theorem test_min_signed : res (.minS 0 ⟨.none, 5, 1, 2, 0⟩) 0xFFFFFFFF 0x1 0x0 0x0 = some 0xFFFFFFFF := by decide
theorem test_dot4 : res (.dot4 ⟨.o ⟨3, 0, 0, 0⟩, 5, 1, 2, 0⟩) 0xFF020304 0x1010101 0x64 0x0 = some 0x6C := by decide
/-- `lea.n64` of 2^32 and −1 with s = 3. -/
theorem test_lea_high : after (.lea 1 ⟨.o ⟨3, 0, 0, 0⟩, 6, 2, 4, 0⟩) (st0 1 [(3, 1), (4, 0xFFFFFFFF)] []) 0 6 = some 0xFFFFFFF8 := by
  decide

/-! The example of R285: lanes 0, 1, 2, 4 and 5 of a gang of 16 are active -/

/-- Their x1 holds 10, 20, 30, 40 and 50, and 99 in inactive lane 3; x2 holds 1. -/
def lanes285 : State :=
  { st0 0x37 [] [] with
    gids := [(1, { gid0 0x37 [] [] with
      lanes := (List.range 16).map (fun l => { st := .issuing, x := [(1, BitVec.ofNat 32 ([10, 20, 30, 99, 40, 50].getD l 0)), (2, 1)] }) })] }

theorem test_scan : (List.range 6).map (fun l => after (.scan 0 ⟨.none, 2, 1, 116, 0⟩) lanes285 l 2)
    = [some 10, some 30, some 60, some 1, some 100, some 150] := by decide
theorem test_shfl_up : (List.range 6).map (fun l => after (.shflUp ⟨.none, 3, 1, 2, 0⟩) lanes285 l 3)
    = [some 10, some 10, some 20, some 0, some 40, some 40] := by decide
theorem test_rdlane_inactive : after (.rdlane ⟨.none, 4, 1, 127, 3⟩) lanes285 5 4 = some 0 := by decide
/-- m1 set in lanes 1 and 4 and in inactive lane 3. -/
theorem test_ballot :
    (match exec (.ballot ⟨.none, 6, 1, 116, 0⟩) { lanes285 with gids := lanes285.gids.map (fun e => (e.1, { e.2 with
        lanes := e.2.lanes.mapIdx (fun l t => { t with m := if l = 1 ∨ l = 3 ∨ l = 4 then 2 else 0 }) })) } with
      | .next t => [(t.g.lane 0).xreg 6, (t.g.lane 5).xreg 7, (t.g.lane 3).xreg 6]
      | _ => []) = [0x12, 0, 0] := by decide

/-! Floating point (10 R268 to R275 and its examples) -/

theorem test_fadd_rounds : f32.add 0 0x3F800000 0x33800000 = ⟨0x3F800000, flNX⟩ := by decide
theorem test_fmul_inf_zero : f32.mul 0 0x7F800000 0 = ⟨f32.nanBits, flNV⟩ := by decide
theorem test_fclass_of_minus_zero : f32.classOf 0x80000000 = 8 := by decide
theorem test_fcmp_zeros_equal : f32.cmp 0 0x80000000 0 = (true, 0) := by decide
theorem test_cvti_of_nan : cvtInt 0 1 18 0x7FC00000 = ⟨0, flNV ||| flSAT⟩ := by decide

/-! Scratchpad and synchronisation words (03 R93) -/

/-- The example of R93: two arrivals of 2,048 bytes, then one of 5,000, at a word of TARGET 4,096 and GEN 7. -/
def word93 : Pair := ({} : Pair).scrWrite 0 (bytesOfNat 4 4096 ++ bytesOfNat 4 0 ++ bytesOfNat 4 7)
theorem test_arrive_first : ((word93.arrive 0 2048).scrRead 4 4, (word93.arrive 0 2048).gen 0) = (2048, 7) := by decide
theorem test_arrive_both : (((word93.arrive 0 2048).arrive 0 2048).scrRead 4 4, ((word93.arrive 0 2048).arrive 0 2048).gen 0) = (0, 8) := by
  decide
theorem test_arrive_again : ((((word93.arrive 0 2048).arrive 0 2048).arrive 0 5000).scrRead 4 4,
    (((word93.arrive 0 2048).arrive 0 2048).arrive 0 5000).gen 0) = (904, 9) := by decide
/-- `st.s` of a halfword, then its bytes. -/
theorem test_st_s : (match exec (.stS ⟨.none, 5, 1, 2, 0, 0⟩) (st0 1 [(1, 6), (5, 0xAABBCCDD)] []) with
    | .next t => [t.scratch 5, t.scratch 6, t.scratch 7, t.scratch 8]
    | _ => []) = [0, 0xDD, 0xCC, 0] := by decide
/-- `samo.add`: lanes 0 to 3 in ascending order on one word. -/
theorem test_samo_order : (match exec (.samoAdd ⟨.none, 5, 1, 2, 0⟩) (st0 15 [(1, 8), (2, 3)] []) with
    | .next t => [(t.g.lane 0).xreg 5, (t.g.lane 1).xreg 5, (t.g.lane 3).xreg 5, t.winWord 8]
    | _ => []) = [0, 3, 9, 12] := by decide

/-! Exceptions (14 R369): the word GCAUSE of its example -/

/-- A matrix-operand cause of lane 3 at offset 1. -/
theorem test_gcause : gcauseOf { cause := 0x07, lane := 3, ofsv := true } 1 false = 0x000000030000C107#64 := by decide
/-- `trap` with no handler ends the team (R370). -/
theorem test_trap_ends_team : (match exec (.trap ⟨.none, 116, 1, 116, 0⟩) (st0 1 [(1, 9)] []) with
    | .next t => t.awaits (.teamEnd 2)
    | _ => false) = true := by decide

/-! Homes (01 R38, 04 R116) -/

theorem test_amo_add_wraps : amoNew 32 0 0 0xFFFFFFFF 2 0 = (1, 0) := by decide
theorem test_amo_min_signed : amoNew 32 1 1 1 0xFFFFFFFF 0 = (0xFFFFFFFF, 0) := by decide
/-! ### A witness for the hypotheses of each statement -/

/-- One lane issues. -/
def s1 : State := st0 1 [] []

/-- Where one lane alone is active, it is lane 0. -/
theorem lane_of_one {g : Gid} (h : g.gang.active = 1) {l : Nat} (a : g.isActive l = true) : l = 0 := by
  simp only [Gid.isActive, h, Bool.and_eq_true] at a
  simpa using a.1

/-- The answer of a check is `a`. -/
def answers {α : Type} [DecidableEq α] (e : Except State α) (a : α) : Bool := match e with
  | .ok b => decide (b = a)
  | .error _ => false

theorem of_answers {α : Type} [DecidableEq α] {e : Except State α} {a : α} (h : answers e a = true) : e = .ok a := by
  unfold answers at h
  split at h
  · rw [of_decide_eq_true h]
  · cases h

/-- IntegerResults, MasksAndCompares, FloatResults, PackedResults and FloatClasses ask that a gang issues. -/
theorem witness_issues : s1.Issues := rfl
/-- IntegerResults: `ext` with code 18 and with another; `movl.64` has a W prefix. -/
theorem witness_IntegerResults : (18 : BitVec 7).toNat = 18 ∧ (20 : BitVec 7).toNat ≠ 18 ∧ (Pre.w 5 = .w 5) := by decide
/-- IntegerFunctions and BitFields: both widths, the first and last bit; a value above 0. -/
theorem witness_BitFields : (32 = 32 ∨ 32 = 64) ∧ 31 < 32 ∧ (64 = 32 ∨ 64 = 64) ∧ 63 < 64 ∧ 0 < (1#64).toNat := by decide
/-- FloatRounding: the largest finite f32; a NaN; infinities of two signs; a zero. -/
theorem witness_FloatRounding : 1 < 4 ∧ 0x7F7FFFFF < 2 ^ (fmtOf 1).bits ∧ ((fmtOf 1).decode 0x7F7FFFFF).isNan = false
    ∧ ((fmtOf 1).decode 0x7F800001).isNan = true ∧ (fmtOf 1).decode 0x7F800000 = .inf false
    ∧ (fmtOf 1).decode 0xFF800000 = .inf true ∧ (fmtOf 1).decode 0x80000000 = .fin true 0 (-149) := by decide
/-- FloatConditions: a NaN, numbers, and zeros of both signs; the last condition. -/
theorem witness_FloatConditions : ((fmtOf 0).decode 0x7FF0000000000001).isNan = true ∧ ((fmtOf 0).decode 0).isNan = false ∧ 7 < 8
    ∧ (fmtOf 0).decode 0 = .fin false 0 (-1074) ∧ (fmtOf 0).decode 0x8000000000000000 = .fin true 0 (-1074) := by decide
/-- LongOperations: the flag of the operation stands one below its limit. -/
theorem witness_LongOperations :
    let s := { s1 with gids := [(1, { gid0 1 [] [] with flags := [(0, 62)], gang := { gang0 1 with fa := 0 } })] }
    s.Issues ∧ s.g.flagRoom (s.g.flagFor 5) = true ∧ ∀ l : Nat, ((fun _ : Nat => [(1 : Word), 2]) l).length ≤ 2 := by
  exact ⟨rfl, by decide, fun _ => Nat.le_refl 2⟩
/-- CrossLanes: the last lane register; one active lane is the highest. -/
theorem witness_CrossLanes : (95 : BitVec 7).toNat < 96 ∧ s1.g.prot = false ∧ s1.g.isActive 0 = true
    ∧ ∀ j, s1.g.isActive j = true → j ≤ 0 :=
  ⟨by decide, rfl, by decide, fun _ h => Nat.le_of_eq (lane_of_one (g := s1.g) rfl h)⟩
/-- ControlTransfers, Sleeping and others: nothing disagrees outside protected mode. -/
theorem witness_ControlTransfers (v : Nat → List Dword) : s1.g.mismatch v = none := rfl
/-- ControlTransfers in protected mode: lanes 0 and 1 hold one value of x6, so a register target agrees. -/
theorem witness_ControlTransfers_protected :
    let s := { s1 with gids := [(1, { gid0 3 [(6, 0x40)] [] with prot := true })] }
    s.Issues ∧ s.g.mismatch (fun l => [s.g.dword l 6 0]) = none := ⟨rfl, by decide⟩
/-- ClauseEnds: x1 holds 0, a window that every thread has. -/
theorem witness_ClauseEnds : ∀ l, s1.g.isActive l = true → (s1.g.word l 1 0).toNat % 32 = 0 ∧ (s1.g.word l 1 0).toNat < s1.g.regs := by
  intro l h; cases lane_of_one (g := s1.g) rfl h; decide
/-- ControlRegisters: nothing is outstanding and no enabled flag is set; a per-lane register and another. -/
theorem witness_ControlRegisters : s1.flagsOpen s1.cur = false ∧ (s1.g.sticky.extractLsb' 0 6 &&& s1.g.sticky.extractLsb' 8 6) = 0
    ∧ (0x43 ≤ (0x43 : BitVec 12).toNat ∧ (0x49 : BitVec 12).toNat ≤ 0x49) ∧ ¬ (0x43 ≤ (0x4A : BitVec 12).toNat ∧ (0x4A : BitVec 12).toNat ≤ 0x49) := by
  decide
/-- A handler is enabled for the launch on core 0. -/
def sTvec : State := { s1 with lcs := [(0, { tvec := 0x3001 })] }
/-- TrapsAndIllegal: a handler enabled and none running, with an enabled flag set; a WBASE of 16; an `eret` outside a handler. -/
theorem witness_TrapsAndIllegal : sTvec.g.inHandler = false ∧ (sTvec.lc sTvec.g.core sTvec.g.kslot).tvec.getLsbD 0 = true
    ∧ (let s := { sTvec with gids := [(1, { gid0 1 [] [] with sticky := 0x0101 })] }
       s.flagsOpen s.cur = false ∧ (s.g.sticky.extractLsb' 0 6 &&& s.g.sticky.extractLsb' 8 6) ≠ 0)
    ∧ (let s := st0 1 [(1, 16)] []
       s.g.isActive 0 = true ∧ ¬ ((s.g.word 0 1 0).toNat % 32 = 0 ∧ (s.g.word 0 1 0).toNat < s.g.regs))
    ∧ s1.g.inHandler = false ∧ (s1.team s1.g.team).ending = none
    ∧ (let st : Stop := { cause := 0x11 }
       let s := { s1 with teams := [(2, { launch := 3, winSize := 4096, ending := some st })] }
       (Tab.find s.teams s.g.team).isSome = true ∧ (s.team s.g.team).ending = some st) := by decide
/-- A gang held with an alignment cause at offset 31 of its clause. -/
def held0 : Gang := { gang0 1 with off := 31, stop := some { cause := 0x07, lane := 63, ofsv := true, pc := 0x1000, addrs := [(0, 0x11)] } }
def sHeld : State := { sTvec with gids := [(1, { gid0 1 [] [] with gang := {}, held := [held0], frozen := true })] }
/-- HandlerRoundTrip, entry: offset and lane at their highest. -/
theorem witness_HandlerEntry : (Tab.find sHeld.gids 1).isSome = true ∧ (sHeld.gid 1).inHandler = false
    ∧ sHeld.stopping (sHeld.gid 1).team = false ∧ (sHeld.gid 1).gang = {} ∧ (sHeld.gid 1).others = [] ∧ sHeld.draining 1 = false
    ∧ (sHeld.gid 1).held = [held0] ∧ held0.stop = some { cause := 0x07, lane := 63, ofsv := true, pc := 0x1000, addrs := [(0, 0x11)] }
    ∧ held0.off < 32 ∧ 63 < 64 ∧ (∀ r ∈ (sHeld.launch (sHeld.gid 1).launch).recs, r.st ≠ .renewing) := by decide
/-- A handler runs for an alignment cause, of a thread that was stopped at 0x1000. -/
def sHandler : State := { sTvec with gids := [(1, { gid0 1 [] [] with
  gcause := 0xC107, rpc := 0x1000, eact := 1, lanes := List.replicate 16 { st := .issuing, epc := 0x1000 } })] }
/-- HandlerRoundTrip, `eret`: with a thread kept, and with another gang held. -/
theorem witness_HandlerReturns : sHandler.Issues ∧ sHandler.g.inHandler = true ∧ field sHandler.g.gcause 7 0 ≠ 1
    ∧ (sHandler.g.isActive 0 = true ∧ (sHandler.g.eact.getLsbD 0 && decide ((sHandler.g.lane 0).epc = sHandler.g.rpc)) = true)
    ∧ [held0] ≠ [] := ⟨rfl, by decide⟩
/-- ThreadsExitOrWait, `exit`: nothing is outstanding, of the only gang id, whose one thread exits; and an atomic of the thread is. -/
theorem witness_exit :
    (∀ e ∈ s1.reqs, e.2.kind = .write → e.2.gid ≠ s1.cur) ∧ s1.ops = [] ∧ (∀ l ∈ (s1.pair 0).l1, l.wt = true → l.dirty = 0)
    ∧ (let g : Gid := { gid0 1 [] [] with lanes := [{ st := .issuing }] }
       let s := { s1 with gids := [(1, g)] }
       s.gids = [(s.cur, s.g)] ∧ s.g.isActive 0 = true ∧ s.g.lanes.length = 1)
    ∧ (let s := { s1 with ops := [(5, { gid := 1, kind := .amo, lanes := 1 })] }
       ∃ e ∈ s.ops, e.2.gid = s.cur ∧ (e.2.kind = .load ∨ e.2.kind = .amo ∨ e.2.kind = .compute ∨ e.2.kind = .imprint)
         ∧ e.2.lanes &&& s.g.gang.active ≠ 0) := by decide
/-- A queue of tenant 1 with one post, completed with status 0; and the same, not yet completed. -/
def sPosted (r : Tab (BitVec 32)) : State := { s1 with regs := [(regKey x0 0x10000, 0x1000000000001#64)], tails := [(0, 1)], results := r }
/-- ThreadsExitOrWait, `lwait`: the status is there, or not. -/
theorem witness_lwait : answers s1.commitFirst () = true ∧ (sPosted [(0, 0)]).lwaitNow 0 ((sPosted []).launch 3).tenant = some (0, true)
    ∧ (sPosted []).lwaitNow 0 ((sPosted []).launch 3).tenant = none := by decide
/-- The word at 0x40 has been read for the gang, as `v`. -/
def sRead (v : Line) : State := { s1 with reqs := [(90, { kind := .engine, core := 0, gid := 1, op := 5, vline := 0x40, reply := some { bytes := v <<< 512 } })] }
/-- ThreadsExitOrWait, `waitw` for 7 at 0x40: the word has come, or not. -/
theorem witness_waitw : (∃ x, answers ((sRead 7).checked [0] (fun _ => 0x40) 4 rightR false false false) [x] = true)
    ∧ (∃ q, (sRead 7).ownReqs 1 5 = [(90, q)] ∧ (q.reply.getD { bytes := 0 }).denied = false ∧ waitwHolds 0 (q.wordAt 0x40) 7 = true)
    ∧ (∃ q, (sRead 8).ownReqs 1 5 = [(90, q)] ∧ (q.reply.getD { bytes := 0 }).denied = false ∧ waitwHolds 0 (q.wordAt 0x40) 7 = false) :=
  ⟨⟨{ lane := 0, ea := 0x40, pa := 2 ^ 30 + 0x40 }, by decide⟩, ⟨_, rfl, by decide +kernel⟩, ⟨_, rfl, by decide +kernel⟩⟩
/-- Sleeping: no time, and the longest; a gang id with a sleeping thread. -/
theorem witness_Sleeping : ((st0 1 [(1, 0)] []).g.word 0 1 0).toNat = 0 ∧ ((st0 1 [(1, 0xFFFFFFFF)] []).g.word 0 1 0).toNat ≠ 0
    ∧ (Tab.find s1.gids 1).isSome = true := by decide
/-- Barriers: lane 1 of the gang id has not arrived; and every other thread has exited. -/
def sLast : State := { s1 with gids := [(1, { gid0 1 [] [] with lanes := { st := .issuing } :: List.replicate 15 {} })] }
theorem witness_Barriers : answers (s1.before 2) () = true
    ∧ answers ({ s1 with gids := [(1, { gid0 1 [] [] with gang := { gang0 1 with stage := 1 } })] }.before 4) () = true ∧ s1.matrixOpen s1.cur = false ∧ s1.g.isActive 0 = true
    ∧ (1 ∈ s1.gidsOf s1.g.team ∧ 1 < (s1.gid 1).lanes.length ∧ ((s1.gid 1).lane 1).st ≠ .exited
      ∧ ((s1.gid 1).lane 1).await ≠ some (.tbar 0) ∧ ¬ (1 = s1.cur ∧ s1.g.isActive 1 = true))
    ∧ (Tab.find sLast.teams sLast.g.team).isSome = true := by decide
/-! Statements about memory -/

/-- Scratchpad offsets, 4 bytes from the end of the window of 4,096 (`SZ` = w32). -/
def sScr : State := st0 1 [(1, 4080), (2, 7), (5, 3)] []
/-- The form `[x1], x5`, 32 bits, outside a prefix. -/
def scrForm : MForm := ⟨.none, 5, 1, 4, 0, 0⟩
/-- ScratchAccess, ScratchAtomics, SyncWordsAndArrivals: an access that ends at the end of the window; no thread waits. -/
theorem witness_ScratchAccess : sScr.Issues ∧ sScr.g.prot = false ∧ sScr.NoneWaits
    ∧ sScr.InWindow (fun l => l = sScr.g.elected ∨ sScr.g.isActive l = true) (fun l => ((sScr.g.word l 1 0).toNat : Int)) 16
    ∧ sScr.InWindow (fun l => sScr.g.isActive l = true) (fun l => sScr.g.scrOff l scrForm) 4 := by
  refine ⟨rfl, rfl, ?_, ?_, ?_⟩
  · unfold State.NoneWaits; decide
  · intro l h
    obtain rfl : l = 0 := h.elim (fun h => h.trans (by decide)) (lane_of_one (g := sScr.g) rfl)
    decide
  · intro l h; cases lane_of_one (g := sScr.g) rfl h; decide
/-- SyncWordsAndArrivals: what precedes is done; the generation is one past the value, or one before it; TARGET is not 0. -/
theorem witness_SyncWords : answers (sScr.before 2) () = true ∧ sScr.g.actives = [sScr.g.elected]
    ∧ (sScr.winWord 4088 - 0).toNat < 2 ^ 31 ∧ 2 ^ 31 ≤ (sScr.winWord 4088 - 1).toNat ∧ word93.scrRead 0 4 ≠ 0
    ∧ (sScr.team sScr.g.team).rst = false := by decide
/-- The line of 0x0 of the launch stands in the pair's L1, every word valid. -/
def line0 : L1Line := { asid := 7, kslot := 0, vline := 0, pline := 2 ^ 23, words := 0xAABBCCDD, valid := 0xFFFFFFFF }
def sHit : State := { s1 with pairs := [(0, { l1 := [line0] })], cores := [(0, { slot := some (1, 5) })] }
/-- Lane 0's access to 0x7C, the last word of the line. -/
def hit0 : LaneAcc := { lane := 0, ea := 0x7C, pa := 2 ^ 30 + 0x7C, hit := true }
/-- The form `[0 + 31·4]`. -/
def memForm (d : BitVec 7) : MForm := ⟨.none, d, 116, 4, 31, 0⟩
/-- GalleyLoads: words in L1, a galley entry free; no address is tainted; an x and a y destination. -/
theorem witness_GalleyLoads : sHit.Issues ∧ (∀ l, sHit.g.isActive l = true → sHit.g.taintOf l 116 2 = false)
    ∧ answers (sHit.checked sHit.g.actives (sHit.g.loadEa (memForm 5)) (szBytes 4) rightR true true false) [hit0] = true
    ∧ sHit.g.actives ≠ [] ∧ sHit.stillHits hit0 = true ∧ sHit.galleyFree [hit0] = true ∧ hit0.hit = true
    ∧ sHit.g.mismatch (sHit.g.supplies (fun l => [sHit.g.ea l (memForm 96)])) = none ∧ sHit.g.isActive sHit.g.elected = true
    ∧ answers (sHit.checked [sHit.g.elected] (fun l => sHit.g.ea l (memForm 96)) (szBytes 4) rightR true true false) [hit0] = true := by
  refine ⟨rfl, ?_, by decide⟩
  intro l h; cases lane_of_one (g := sHit.g) rfl h; decide
/-- LoadsPark: no lane is active; and an acquire load at die scope, its write-backs awaited, which does not ask L1. -/
theorem witness_LoadsPark : (st0 0 [] []).g.actives = []
    ∧ (let s := { sHit with gids := [(1, { gid0 1 [] [] with gang := { gang0 1 with stage := 1 } })] }
       answers (s.checked s.g.actives (s.g.loadEa (memForm 5)) (szBytes 4) rightR false true false) [{ hit0 with hit := false }] = true
       ∧ s.g.gang.stage ≠ 0 ∧ s.galleyFree [{ hit0 with hit := false }] = true) := by decide
/-- An NC page in the TLB. -/
def sNc : State := { s1 with tlbs := [(0, [{ page0 with nc := true }])] }
/-- LoadsBypass: a word on an NC page; and one on a cached page whose line the L2 owns. -/
theorem witness_LoadsBypass :
    answers (sNc.checked sNc.g.actives (sNc.g.loadEa (memForm 5)) (szBytes 4) rightR false true false)
      [{ lane := 0, ea := 0x7C, pa := 2 ^ 30 + 0x7C, nc := true }] = true
    ∧ sNc.g.lanes.length ≤ 64 ∧ sNc.g.core < 1024 ∧ sNc.txs.length < 2 ^ 16
    ∧ (let s := { s1 with l2 := [(2 ^ 23, { st := .o })] }
       answers (s.checked s.g.actives (s.g.loadEa (memForm 5)) (szBytes 4) rightR false true false)
         [{ lane := 0, ea := 0x7C, pa := 2 ^ 30 + 0x7C }] = true
       ∧ (s.l2Line 0 (2 ^ 23)).st = .o ∧ (s.l2Line 0 (2 ^ 23)).pin = none ∧ (s.l2Line 0 (2 ^ 23)).waiters = []
       ∧ (s.l2Line 0 (2 ^ 23)).poison = false ∧ (2 ^ 30 + 0x7C) / 128 = 2 ^ 23) := by decide
/-- Prefetches: a line that the L2 does not hold, and has room for; one that it does; and one of an NC page. -/
theorem witness_Prefetches :
    s1.g.isActive 0 = true
    ∧ s1.translate (clusterOf s1.g.core) s1.g.launch (s1.g.loadEa (memForm 5) 0) 1 rightR = .ok (2 ^ 30 + 0x7C) page0
    ∧ page0.nc = false ∧ (2 ^ 30 + 0x7C) / 128 = 2 ^ 23 ∧ s1.lineOpen (2 ^ 23) = false
    ∧ s1.g.gang.pend = [] ∧ s1.g.others = [] ∧ s1.g.held = []
    ∧ (s1.l2Line 0 (2 ^ 23)).st = .i ∧ (s1.l2Line 0 (2 ^ 23)).waiters = [] ∧ (s1.l2Line 0 (2 ^ 23)).pin = none
    ∧ s1.roomL2 0 (2 ^ 23) = some s1 ∧ s1.l2 = [] ∧ s1.txs.length < 2 ^ 16 ∧ s1.g.core < 1024
    ∧ ({ s1 with l2 := [(2 ^ 23, { st := .s })] }.l2Line 0 (2 ^ 23)).st = .s
    ∧ sNc.translate (clusterOf sNc.g.core) sNc.g.launch (sNc.g.loadEa (memForm 5) 0) 1 rightR
      = .ok (2 ^ 30 + 0x7C) { page0 with nc := true } := by
  decide +kernel
/-- Fences: no galley entry, the accesses before are complete, at a narrow scope and, its write-backs awaited, at a wide one. -/
theorem witness_Fences : s1.ops.any (fun e => e.2.gid == s1.cur && e.2.kind == .galley) = false ∧ answers (s1.before 2) () = true
    ∧ answers ({ s1 with gids := [(1, { gid0 1 [] [] with gang := { gang0 1 with stage := 1 } })] }.before 3) () = true
    ∧ s1.accessesOpen s1.cur s1.g.gang.active = false ∧ (s1.team s1.g.team).rst = false := by decide
/-- GlobalStores: a word in L1 that the store may write at once. -/
theorem witness_GlobalStores : sHit.g.prot = false ∧ sHit.g.gang.done = 0 ∧ (sHit.team sHit.g.team).rst = false
    ∧ answers (sHit.checked sHit.g.actives (fun l => sHit.g.ea l (memForm 5)) (szBytes 4) rightW true false true) [hit0] = true
    ∧ hit0.hit = true ∧ hit0.nc = false ∧ nowOf (memForm 5) [hit0] = [hit0] ∧ answers (sHit.before 2) () = true
    ∧ (let s := { sHit with gids := [(1, { gid0 1 [] [] with gang := { gang0 1 with stage := 1 } })] }
       s.g.gang.stage ≠ 0 ∧ s.g.gang.done = 0 ∧ (∀ e ∈ s.teams, e.2.rst = false)
       ∧ answers (s.checked s.g.actives (fun l => s.g.ea l (memForm 5)) (szBytes 4) rightW true false true) [hit0] = true) := by decide
/-- Lanes 0 and 1 of a protected gang differ in x1, and in m0. -/
def sDiffer : State :=
  { s1 with gids := [(1, { gid0 3 [] [] with prot := true, lanes := [{ st := .issuing, x := [(1, 8)] }, { st := .issuing, m := 1 }] })] }
/-- Divergence: an address and an outcome on which the lanes disagree. -/
theorem witness_Divergence : sDiffer.Issues
    ∧ sDiffer.g.mismatch (fun l => [sDiffer.g.ea l scrForm, BitVec.ofNat 64 (sDiffer.g.storeData l scrForm)]) = some 0
    ∧ sDiffer.g.mismatch (fun l => [BitVec.ofNat 64 (sDiffer.g.takes ⟨.none, 0, 0, 1⟩ l).toNat]) = some 0
    ∧ sDiffer.g.mismatch (sDiffer.g.supplies (fun l => [(sDiffer.g.word l 1 0).zeroExtend 64])) = some 0
    ∧ sDiffer.g.mismatch (sDiffer.g.supplies (fun l => [(sDiffer.g.word l 2 0).zeroExtend 64, (sDiffer.g.word l 1 0).zeroExtend 64])) = some 0 :=
  ⟨rfl, by decide⟩
/-- AtomicsStart: the L1 step is complete and the flag is below its limit, for a 32-bit and a 64-bit atomic. -/
theorem witness_AtomicsStart :
    let s := { s1 with gids := [(1, { gid0 1 [] [] with gang := { gang0 1 with stage := 2, fa := 11 }, flags := [(11, 62)] })] }
    s.Issues ∧ s.g.prot = false ∧ s.g.gang.stage = 2 ∧ s.g.flagRoom s.g.gang.fa.toNat = true ∧ s.g.flagRoom (s.g.flagFor 5) = true
    ∧ s1.g.gang.stage < 2 ∧ s1.g.flagRoom (s1.g.flagFor 5) = true ∧ s.g.lanes.length ≤ 64 ∧ s.g.core < 1024 ∧ s.txs.length < 2 ^ 16
    ∧ answers (s1.before 2) () = true
    ∧ answers (s.checked s.g.actives (fun l => s.g.dword l 116 0) 4 rightA false true true) [{ lane := 0, ea := 0, pa := 2 ^ 30 }] = true
    ∧ answers (s.checked s.g.actives (fun l => s.g.dword l 116 0) 8 rightA false true true) [{ lane := 0, ea := 0, pa := 2 ^ 30 }] = true
    ∧ s.g.isActive 0 = true := ⟨rfl, by decide⟩
/-- A word of the typecase with no hole: `add` (R265). -/
def sSort : State := { s1 with pairs := [(0, { bank := [(5, 0x14206100#128 ||| (1#128 <<< 80))] })] }
/-- PostsAndSorts: an entry that expands; the queue takes the post, or not. -/
theorem witness_PostsAndSorts : sSort.Issues ∧ (∃ ws, expandEntry (sSort.sortEntry sSort.g ⟨.none, 5, 0, 0, 0⟩) ⟨.none, 5, 0, 0, 0⟩ = .ok ws)
    ∧ (let s := { sRead 7 with gids := [(1, { gid0 1 [(2, 63)] [] with gang := { gang0 1 with stage := 3 } })] }
       s.g.mismatch (s.g.supplies (fun l => [s.g.dword l 116 0, (s.g.word l 2 0).zeroExtend 64])) = none
       ∧ (s.g.word s.g.elected 2 0).toNat ≤ 63 ∧ s.g.gang.stage = 3
       ∧ repliesCause ((s.ownReqs s.cur s.g.gang.uid).filterMap (fun r => r.2.reply)) = none
       ∧ s.refusesPost 63 (s.launch s.g.launch).tenant = true)
    ∧ (let s := { sPosted [] with regs := [(regKey x0 0x10000, 0x1000000000103#64)] }
       s.refusesPost 0 (s.launch 3).tenant = false)
    ∧ (s1.core 0).pcnt = 0 ∧ s1.reqs = [] ∧ s1.g.flagRoom (s1.g.flagFor 5) = true
    ∧ (let s := { s1 with gids := [(1, { gid0 1 [(1, 0x80)] [] with gang := { gang0 1 with stage := 1 } })] }
       s.g.gang.stage = 1 ∧ (s.g.dword s.g.elected 1 0).toNat = 0x80 ∧ lineStarts (0x80 : Nat) 128 = [(0x80, 128)]
       ∧ s.probeAt 0 0x80 128 rightR false false false = .acc { lane := 0, ea := 0x80, pa := 2 ^ 30 + 0x80 }
       ∧ s.lineOpen ((2 ^ 30 + 0x80) / 128) = false) := by
  refine ⟨rfl, ⟨[0x14206100#32], ?_⟩, ?_, by decide, by decide, rfl, by decide, by decide, by decide, by decide, by decide, by decide⟩
  · rfl
  · decide

/-! Statements about the step -/

/-- The state of ResetKeepsMemoryForm and of StepKeepsMemoryForm. -/
theorem witness_Inv : State.reset.Inv := ⟨rfl, rfl⟩
/-- MemoryReadsBack: the last byte of a line, which the mask holds. -/
theorem witness_MemoryReadsBack : 127 < 128 ∧ (1#128 <<< 127).getLsbD 127 = true
    ∧ (∀ k, k < 128 → (1#128 <<< 127).getLsbD k = true → (126 : Nat) ≠ 128 * 0 + k) := by decide
/-- DecodeEncode: an instruction with a prefix and a literal; headers of 1 and of 24 words. -/
theorem witness_DecodeEncode : (Instr.swwait ⟨.o ⟨116, 0, 0, 2⟩, 116, 116, 127, 1⟩).wellFormed = true
    ∧ 1 ≤ (⟨0, 11, 15, 1, false⟩ : Header).len ∧ (⟨0, 11, 15, 24, false⟩ : Header).len ≤ 24
    ∧ ¬ (12 ≤ (11 : BitVec 4).toNat ∧ (11 : BitVec 4).toNat ≤ 14) ∧ ¬ (12 ≤ (15 : BitVec 4).toNat ∧ (15 : BitVec 4).toNat ≤ 14) := by decide
/-- The item of the agenda that issues gang 5 of gang id 1. -/
def sIssue : State := { s1 with agenda := [(0, .issue 1 5)], gids := [(1, { gid0 1 [] [] with gang := { gang0 1 with buf := [⟨0x1004, [0x14206100]⟩] } })] }
/-- StepRunsInstruction: `add` at the head of the clause. -/
theorem witness_StepRunsInstruction :
    (sIssue.pass.takeItem).1 = some (0, .issue 1 5)
    ∧ (let u := (sIssue.pass.takeItem).2
       let f := u.front 1 5
       u.powered = true ∧ ((u.gid 1).gangOf 5).isSome = true ∧ f.stopping f.g.team = false ∧ f.g.gang.running = true
       ∧ f.pendOpen f.g.gang.pend = false ∧ f.g.gang.buf = [⟨0x1004, [0x14206100]⟩]
       ∧ f.hazard (.add 1 ⟨.none, 4, 6, 8, 0⟩) = false ∧ f.g.inHandler = false ∧ worst f.g.pendingReports = none) := by decide
/-- StepKeepsMemoryForm: the step that issues `add`, from a state that meets the invariant. -/
theorem witness_StepKeepsMemoryForm : sIssue.Inv ∧ (match step sIssue with
    | .next t => t.g.gang.buf
    | _ => [⟨0, []⟩]) = [] := ⟨⟨rfl, rfl⟩, by decide⟩

/-! Statements about the matrix unit, plates and engines -/

/-- Tile 0 of core 0 has 8 rows of 16 elements of format 9, tile 1 the same; a plate of 8 × 16 × 8 is bound to sb0. -/
def plate0 : Plate :=
  { va := 0x1000, asid := 7, pa := 2 ^ 30 + 0x1000, arrays := true
    desc := [0, 0, 1, 0, 0, 0, 0, 0, 0, 0, 0, 0, 8, 0, 9, 1, 8, 0, 16, 0, 8, 0, 0, 0] ++ List.replicate 40 0 }
def sMat : State :=
  { s1 with
    cores := [(0, { slot := some (1, 5), mat := {
      tshape := [(0, shapeReg 8 16 9), (1, shapeReg 8 16 9)], latch := latchReg 0 9 false, lshape := BitVec.ofNat 64 (16 + 8 * 2 ^ 8)
      sb := [(0, { bound := true, va := 0x1000, asid := 7 })] } })]
    pairs := [(0, { plates := [plate0] })] }
/-- The form of tile 0, with scratchpad as its memory. -/
def tileForm (d a b : BitVec 7) : RForm := ⟨.t ⟨0, 0, 3, 0, 0, 1, 0, 0, 0, 9⟩, d, a, b, 0⟩
/-- TilesAndFragments, WeightLatch, MultiplyAndAccumulate, ScratchRows: registers agree, shapes are valid, rows end at the window's end,
and the core may count. -/
theorem witness_Matrix : sMat.Issues ∧ (tileForm 116 116 116).ta < 8 ∧ (tileForm 116 116 116).tb < 8 ∧ (tileForm 116 116 116).acc < 4
    ∧ (tileForm 116 116 116).spb = true ∧ sMat.g.flagRoom sMat.g.gang.fb.toNat = true ∧ sMat.g.flagRoom (sMat.g.flagFor 5) = true
    ∧ sMat.g.mismatch (sMat.g.supplies (fun l => [sMat.g.dword l 116 0, (sMat.g.word l 116 0).zeroExtend 64])) = none
    ∧ shapeOk (shRows (sMat.mat.shape 0)) (shCols (sMat.mat.shape 0)) (shFmt (sMat.mat.shape 0)) = true
    ∧ (∀ r, r < 8 → 3840 + r * 32 + rowLen 9 16 ≤ (sMat.team sMat.g.team).winSize)
    ∧ shRows (sMat.mat.shape 0) = 8 ∧ laN sMat.mat.lshape = 8 ∧ laMet sMat.mat.latch = false ∧ laPair sMat.mat.latch = false := by
  refine ⟨rfl, ?_⟩; decide
/-- ScratchRows: no thread of the team waits; rows 32 bytes apart do not overlap. -/
theorem witness_ScratchRows : sMat.NoneWaits ∧ rowLen 9 16 ≤ 32 ∧ 3840 % 16 = 0 := by unfold State.NoneWaits; decide
/-- Bindings: sb0 is bound to a plate that is cached, sb1 to none; the descriptor of another is readable. -/
theorem witness_Bindings : (sMat.binding 0 0).bound = true ∧ (sMat.binding 0 1).bound = false
    ∧ ((sMat.pair 0).plate 0x1000 sMat.asid).isSome = true ∧ (sMat.pair 0).plate 0x2000 sMat.asid = none ∧ 0x2000 % 64 = 0
    ∧ answers sMat.commitFirst () = true ∧ 0 < sMat.nextId ∧ (∀ r ∈ sMat.reqs, r.2.op < sMat.nextId)
    ∧ answers (sMat.checkLanes (rightR ||| rightW) [sMat.probeAt 0 0x2000 64 (rightR ||| rightW) false false false] [(0, 0x2000)])
        [{ lane := 0, ea := 0x2000, pa := 2 ^ 30 + 0x2000 }] = true
    ∧ plate0.malformed = false ∧ plate0.layer ≠ 3
    ∧ answers (sMat.checkLanes (rightR ||| rightW) [sMat.probeAt 0 0x1000 64 (rightR ||| rightW) false false false] [(0, 0x1000)])
        [{ lane := 0, ea := 0x1000, pa := 2 ^ 30 + 0x1000 }] = true := by decide
/-- StereoPaths: a usable plate of the operation's shape, which the delta path takes; and one of another tenant. -/
theorem witness_StereoPaths : (sMat.pair 0).plate 0x1000 7 = some plate0 ∧ laN sMat.mat.lshape ≤ 128 ∧ plate0.rows ≤ 128
    ∧ (let st := sMat.stereoOf 0 0 (tileForm 116 116 116) (sMat.mat.shape 0)
       plate0.rows = st.m ∧ plate0.kd = st.k ∧ plate0.nt = st.nt)
    ∧ sMat.plateVictims 0 0x1000 7 (4 * plate0.rows * (plate0.kd + plate0.nt)) = []
    ∧ plate0.valid = true ∧ plate0.ten = (sMat.launch 3).tenant.toNat ∧ plate0.kd = laK sMat.mat.lshape ∧ plate0.nt = sMat.mat.columns
    ∧ ({ plate0 with desc := [0, 0, 2] ++ plate0.desc.drop 3 } : Plate).ten ≠ (sMat.launch 3).tenant.toNat := by decide
/-- CachedRows: tile 0 has one row of 16 elements, whose bytes, as those of an accumulator row and of two rows of a pair's weights, stand in L1. -/
def sRows : State :=
  { sHit with gids := [(1, gid0 1 [(1, 0), (2, 0)] [])], cores := [(0, { slot := some (1, 5), mat := { tshape := [(0, shapeReg 1 16 9)] } })] }
def rowForm (d : BitVec 7) : RForm := ⟨.t ⟨0, 0, 3, 0, 0, 0, 0, 0, 0, 9⟩, d, 1, 2, 0⟩
theorem witness_CachedRows : sRows.Issues ∧ (rowForm 1).spb = false ∧ (rowForm 1).ta < 8 ∧ (rowForm 1).acc < 4
    ∧ sRows.g.flagRoom sRows.g.gang.fb.toNat = true
    ∧ sRows.g.mismatch (sRows.g.supplies (fun l => [sRows.g.dword l 1 0, (sRows.g.word l 2 0).zeroExtend 64])) = none
    ∧ sRows.g.taintedWide 1 sRows.g.elected = false ∧ sRows.g.taintOf sRows.g.elected 2 1 = false
    ∧ (let sh := sRows.mat.shape 0
       shapeOk (shRows sh) (shCols sh) (shFmt sh) = true ∧ shRows sh = 1 ∧ rowLen (shFmt sh) (shCols sh) = 18 ∧ 4 * shCols sh = 64)
    ∧ (∀ len ∈ [18, 36, 64], ∃ a : LaneAcc,
        answers (sRows.checkRows (rowForm 1) (sRows.g.rowsOf (rowForm 1) 1 len) false) [a] = true)
    ∧ (∀ i, i < 64 → ((sRows.pair 0).l1Byte sRows.asid 0 i).isSome = true) := by
  refine ⟨rfl, by decide, by decide, by decide, by decide, by decide, by decide, by decide, by decide, ?_, by decide⟩
  intro len h
  exact ⟨{ lane := 0, ea := 0, pa := 2 ^ 30, hit := true }, by revert len; decide⟩
/-- 2,056 bytes from offset 1,024 to offset 0 of the window, as one run. -/
def copyDesc : List Dword := [1024, 0, 0x0001000100000808#64, 0x00010001#64, 0, 0, 0, 3#64 <<< 48]
def sCopy : State :=
  { s1 with
    gids := [(1, { gid0 1 [(2, 0)] (copyDesc.flatMap splitD |>.mapIdx (fun i w => (i, w))) with gang := { gang0 1 with stage := 1 } })]
    cmds := [(40, { gid := 1, core := 0, desc := copyDesc, team := 2, stage := 1, started := true })] }
/-- EngineCommands: a descriptor in y, one that asks for nothing malformed; the engine has room; a command to cancel. -/
theorem witness_EngineCommands : sCopy.Issues ∧ sCopy.g.descY = copyDesc ∧ malformed copyDesc false = false ∧ ctl copyDesc 2 = false
    ∧ (let d := [1024, 0, 0x0001000100000808#64, 0x00010001#64, 0, 0, 0, 0]; malformed d true = false)
    ∧ sCopy.g.mismatch (sCopy.g.supplies (fun l => [(sCopy.g.word l 96 0 ++ sCopy.g.word l 2 0).zeroExtend 64])) = none
    ∧ sCopy.g.flagRoom sCopy.g.gang.fb.toNat = true ∧ sCopy.cmdCount sCopy.g.core < 512 ∧ (sCopy.core sCopy.g.core).engineStalls = []
    ∧ (∀ c ∈ sCopy.cmds, c.2.core = 0 → c.1 < sCopy.nextId → c.2.started = true) ∧ sCopy.l2 = [] ∧ sCopy.NoneWaits
    ∧ (let d := [1024, 0, 0x0001000100000808#64, 0x00010001#64, 0, 0, 0, 3#64 <<< 48]
       runs d = 1 ∧ runBase d 0 28 0 = 1024 ∧ runBase d 8 44 0 = 0 ∧ 1024 + (runBytes d false).1 ≤ 4096)
    ∧ (let d := [1024, 0, 0x0001000100000040#64, 0x00010001#64, 0, 0, 0, 3#64 <<< 48]
       malformed d false = false ∧ runs d = 1 ∧ (runBytes d false).1 = 64 ∧ ctl d 0 = true ∧ ctl d 1 = true ∧ ctl d 3 = false)
    ∧ (let d := [1024, 0, 0x0000000000000040#64, 0#64, 0, 0, 0, 0]
       malformed d true = false ∧ runs d = 0)
    ∧ sCopy.g.gang.stage ≠ 0 ∧ (∃ c ∈ sCopy.cmds, c.2.gid = sCopy.cur) ∧ s1.g.gang.stage = 0 ∧ (∀ c ∈ s1.cmds, c.2.gid ≠ s1.cur) := by
  refine ⟨rfl, ?_⟩; unfold State.NoneWaits; decide
/-- TypecaseForms: an image of the last entry of the bank, at 0x10, which stands in L1; no `tcload` is open. -/
theorem witness_TypecaseForms :
    let s := { st0 1 [(1, 0x10), (2, 0), (3, 0x1FF)] [] with pairs := [(0, { l1 := [line0] })], acc := [(20 * 2 ^ 15, 0xFFFFFFFF000000000000000000000103#128)] }
    s.g.mismatch (s.g.supplies (fun k => [s.g.dword k 1 0, (s.g.word k 3 0).zeroExtend 64])) = none ∧ s.g.flagRoom s.g.gang.fb.toNat = true
    ∧ (s.g.word 0 3 0).toNat % 256 + (s.g.word 0 3 0).toNat / 256 % 512 ≤ 256 ∧ 1 ≤ (s.g.word 0 3 0).toNat / 256 % 512
    ∧ lineStarts (0x10 : Int) 16 = [(0x10, 16)]
    ∧ answers (s.checkLanes rightR ([(0x10, 16)].map (s.probeImage 0x10)) [(0, 0x10)])
        [{ lane := 0, ea := 0x10, pa := 2 ^ 30 + 0x10, hit := true }] = true
    ∧ (s.launch 3).forme.att = false ∧ (∀ r ∈ s.reqs, r.2.op < s.nextId) ∧ s.ops = []
    ∧ (∀ i, i < 16 → ((s.pair 0).l1Byte s.asid 0 (0x10 + i)).isSome = true)
    ∧ s.tcloadOpen (fun k _ => k == s.cur) = false ∧ s.tcloadOpen (fun _ o => o.core == s.g.core && o.kslot == s.g.kslot) = false := by decide
/-- EngineAndMatrixProgress: the write of 2,048 of 2,056 bytes; the only range of a prefetch; a gang that waits for the engine. -/
theorem witness_EngineProgress :
    let c := { gid := 1, core := 0, desc := copyDesc, team := 2, stage := 1, started := true : Cmd }
    let d := [1024, 0, 0x0001000100000010#64, 0x00010001#64, 0, 0, 0, 0]
    Tab.find sCopy.cmds 40 = some c ∧ ctl c.desc 0 = true ∧ ctl c.desc 1 = true ∧ ctl c.desc 2 = false ∧ ctl c.desc 3 = false
    ∧ c.run < runs c.desc ∧ c.plan.n = 2048 ∧ 0 ≤ c.plan.src ∧ 0 ≤ c.plan.dst ∧ c.off + c.plan.n < (runBytes c.desc false).1
    ∧ (∀ e ∈ sCopy.gids, e.2.team = c.team → ∀ th ∈ e.2.lanes, th.st ≠ .waiting)
    ∧ ctl d 2 = false ∧ runs d = 0 + 1
    ∧ (runBytes d true).2 ≤ 0 + min ((runBytes d true).2 - 0) (2048 - ((runBase d 0 28 0 + 0) % 2048).toNat)
    ∧ (Tab.find sCopy.gids 1).isSome = true
    ∧ ({ s1 with cores := [(0, { engineStalls := [(1, 5)] })] }.core 0).engineStalls = [(1, 5)] := by decide
/-- EngineAndMatrixProgress: an operation of one register; a metered one one below the threshold; one at it; a plate. -/
theorem witness_MatrixCompletes :
    let o := { gid := 1, kind := .matrix, flag := 3, macs := 0, writes := [.x 0 7 5] : Op }
    let c := { preg := 9, pten := 1, pcnt := 2 ^ 20 - 2 : Machine.Core }
    let s := { s1 with ops := [(50, o)], cores := [(0, c), (1, { pcnt := 2 ^ 20 })] }
    Tab.find s.ops 50 = some o ∧ o.todo = none ∧ (Tab.find s.gids o.gid).isSome = true ∧ (s.core 0).pcnt + 1 < 2 ^ 20
    ∧ (s.core 0).pten = (s.launch s.g.launch).tenant ∧ 2 ^ 20 ≤ (s.core 1).pcnt ∧ (s.core 2).pcnt < 2 ^ 20
    ∧ (sMat.pair 0).plates = [plate0] ∧ plate0.adirty = false := by decide
/-- EngineAndMatrixProgress, `tld` from memory: its two lines have arrived. -/
theorem witness_RowsArrive :
    let o := { gid := 1, kind := .matrix, todo := some (.tld (tileForm 116 116 116)), args := [0x100, 32, 8, 18],
               loads := [{ lane := 0, ea := 0x100, pline := 2, req := 60 }, { lane := 0, ea := 0x180, pline := 3, req := 61 }] : Op }
    let q := { kind := .bypass, core := 0, op := 50, reply := some { bytes := 0 } : Req }
    let s := { sMat with ops := [(50, o)], reqs := [(60, q), (61, q)] }
    Tab.find s.ops 50 = some o ∧ o.todo = some (.tld (tileForm 116 116 116)) ∧ (Tab.find s.gids o.gid).isSome = true ∧ o.metered = false
    ∧ (tileForm 116 116 116).ta < 8 ∧ 8 ≤ 128 ∧ 18 ≤ 256 ∧ o.args = [0x100, 32, 8, 18]
    ∧ (∀ ll ∈ o.loads, (s.req ll.req).reply = some { bytes := 0 }) := by decide +kernel

/-! Statements about the fabric and homes -/

def sOn : State := { State.reset with powered := true, agenda := [], nextId := 100 }
/-- A message of one flit from chiplet 3 to home 20, alone at its source and admitted. -/
def read78 : Msg := { cls := 0x01, tag := 6, line := 78 }
def sSend : State :=
  { sOn with
    fab := [(64 * 3 + 20, { egress := [read78], nextSeq := 0xFFFF })], reqcap := [(64 * 3 + 20, 1)]
    regs := [(regKey x1 (routeOff 3 20), 0)] }
/-- FlitDelivery, injection: one transaction short of the share; the last sequence number. -/
theorem witness_FlitInject : isPair 3 20 = true ∧ (sSend.pairState 3 20).egress = [read78] ∧ (sSend.pairState 3 20).bodies = []
    ∧ (sSend.pairState 3 20).own = [] ∧ (sSend.pairState 3 20).through = [] ∧ sSend.admits 3 20 read78 = true
    ∧ routeHold (sSend.route 3 20) = false ∧ routeMode (sSend.route 3 20) < 2 ∧ (sSend.pairState 3 20).wireUntil ≤ sSend.ptime
    ∧ (sSend.pairState 3 20).replay.length + (read78.ndata.toNat + 1) ≤ 512
    ∧ read78.ndata.toNat + 1 ≤ (sSend.ownLanes 3 20).length ∧ (sSend.pairState 3 20).replay = [] := by decide +kernel
/-- The header flit of a read, with its CRC; and an ACK flit. -/
def flit0 (kind : BitVec 2) (seq : BitVec 16) (b : BitVec 256) : Flit :=
  let f : Flit := { kind := kind, src := 3, dst := 20, seq := seq, body := b, crc := 0 }
  { f with crc := flitCrc f }
/-- FlitDelivery, a leg with one lane left, on hold, from which its own flit and one relayed take turns. -/
theorem witness_FlitTurns :
    let s := { sOn with fab := [(64 * 3 + 5, { own := [flit0 0 0 1], through := [(0, flit0 0 7 2)], dropped := (List.range 16).drop 1 })]
                        regs := [(regKey x1 (routeOff 3 5), 0x10000)] }
    routeHold (s.route 3 5) = true ∧ (s.pairState 3 5).own = [flit0 0 0 1] ∧ (s.pairState 3 5).through = [(0, flit0 0 7 2)] ∧ 0 ≤ s.ptime
    ∧ (s.pairState 3 5).wireUntil ≤ s.ptime ∧ s.ownLanes 3 5 = [0] := by decide +kernel
/-- FlitDelivery, reception: a bad CRC; a good flit, expected, early by one, and 32,768 late; control flits. -/
theorem witness_FlitReceive : (let f := flit0 0 0 1; { f with crc := f.crc + 1 }.crc ≠ flitCrc { f with crc := f.crc + 1 })
    ∧ badFlit 20 (flit0 0 0 1) = false ∧ (flit0 0 0 1).kind ≠ 2 ∧ (flit0 0 0 1).seq = (sOn.pairState 3 20).expect
    ∧ (sOn.pairState 3 20).parts = [] ∧ (ofHeader (flit0 0 0 1).body).ndata = 0
    ∧ knownClass (ofHeader (flit0 0 0 1).body).cls = true ∧ answerClass (ofHeader (flit0 0 0 1).body).cls = false
    ∧ ((0 : BitVec 16) - 0x8000).toNat ≤ 32768 ∧ 32768 < ((0 : BitVec 16) - 1).toNat
    ∧ badFlit 20 (flit0 2 0 1) = false ∧ (flit0 2 0 1).body.extractLsb' 0 8 = 1 ∧ (flit0 2 0 2).body.extractLsb' 0 8 = 2 := by
  decide +kernel
/-- FlitDelivery, acknowledgement and replay: a flit not acknowledged, 1,001 ns old. -/
theorem witness_FlitReplay :
    let x : Sent := { f := flit0 0 0 1, at_ := 0, replays := 15 }
    let s := { sOn with ptime := 1001, fab := [(64 * 3 + 20, { unacked := 1, replay := [x] })] }
    (s.pairState 3 20).unacked ≠ 0 ∧ (s.pairState 3 20).replay = [x] ∧ x.at_ + 1000 < s.ptime ∧ x.replays = 15 := by decide +kernel
/-- RoutesAndShares: sixteen replays; 64 and 65 errors; a new route that is refused while the pair is not held, and one accepted. -/
theorem witness_Routes :
    let s := { sOn with fab := [(64 * 3 + 20, { replay := [{ f := flit0 0 0 1, at_ := 0, replays := 16 }] })]
                        regs := [(regKey x1 (routeOff 3 20), 0x10000)] }
    (s.pairState 3 20).replay ≠ [] ∧ 64 < field 65#64 31 0 ∧ field (64#64 <<< 32) 63 32 ≤ 64
    ∧ routeFields 1 ≠ routeFields (s.route 3 20) ∧ s.routeAccepts 3 20 0x10001 = true ∧ sSend.routeAccepts 3 20 1 = false
    ∧ (1#64).getLsbD 18 = false ∧ isPair 3 20 = true ∧ isPair 3 3 = false
    ∧ routeFields 0x100000001 ≠ routeFields (s.route 3 20) ∧ s.routeAccepts 3 20 0x200010101 = true
    ∧ field 0x200010101#64 33 32 ≠ field (s.route 3 20) 33 32 := by decide
/-- RoutesAndShares, fallback: a held idle pair with one colour lost, the other, or both and no candidate. -/
theorem witness_Fallback :
    let s (v : Dword) : State := { sOn with regs := [(regKey x1 (routeOff 3 20), v)] }
    routeHold ((s 0x100010000).route 3 20) = true ∧ (s 0x100010000).busy 3 20 = false ∧ ((s 0x100010000).route 3 20).getLsbD 33 = false
    ∧ ((s 0x10000).route 3 20).getLsbD 32 = false ∧ ((s 0x10000).route 3 20).getLsbD 33 = false
    ∧ ((s 0x200010000).route 3 20).getLsbD 33 = true ∧ ((s 0x300010000).route 3 20).getLsbD 32 = true
    ∧ candidates ((s 0x300010000).reg x1 (fbOff 3 20)) = [] := by decide
/-- RoutesAndShares, the share table: MODSTAT without READY; sums that fit and one that does not. -/
theorem witness_Shares :
    (sOn.reg x1 0x74000).getLsbD 0 = false ∧ sOn.stagedSum 20 ≤ field (sOn.reg x1 (0x3E000 + 8 * 20)) 15 0
    ∧ ¬ ({ sOn with regs := [(regKey x1 (capOff 3 20), 0xFFFF), (regKey x1 (capOff 4 20), 0xFFFF)] }.stagedSum 20
      ≤ field ({ sOn with regs := [(regKey x1 (capOff 3 20), 0xFFFF), (regKey x1 (capOff 4 20), 0xFFFF)] }.reg x1 (0x3E000 + 8 * 20)) 15 0) := by decide
/-- An entry of KIND `k` that grants tenant 1 every right everywhere. -/
def entry0 (k : Nat) : BitVec 128 := 0xFFFFFFFF000000000000000000000100#128 ||| 0x3F#128 ||| (BitVec.ofNat 128 k <<< 6)
/-- A request from chiplet 3 for line 2^23 arrives at its home, chiplet 20. -/
def sHome (c : BitVec 8) (k : Nat) (d : Dir) : State :=
  { sOn with
    acc := [(20 * 2 ^ 15, entry0 k)], dir := [(2 ^ 23, d)]
    rx := ⟨3, 20, { cls := c, tag := 9, line := 2 ^ 23, tenant := 1, mask := 1, scope := 1 }⟩ }
/-- HomeRequests: a read of a cached page, a write of a write-through page and a record open at once. -/
theorem witness_HomeRequests : (sHome 0x01 0 {}).Opens 0x01 (entry0 0) ∧ (sHome 0x02 1 {}).Opens 0x02 (entry0 1)
    ∧ (sHome 0x07 1 {}).Opens 0x07 (entry0 1) ∧ (sHome 0x0C 0 {}).Opens 0x0C (entry0 0) ∧ kindOf (entry0 1) = 1 ∧ kindOf (entry0 0) ≠ 1 := by
  refine ⟨⟨by decide, by decide, rfl, ?_, by decide, fun _ => .inl (by decide), by decide⟩,
    ⟨by decide, by decide, rfl, ?_, by decide, fun _ => .inl (by decide), by decide⟩,
    ⟨by decide, by decide, rfl, ?_, by decide, fun _ => .inl (by decide), by decide⟩,
    ⟨by decide, by decide, rfl, ?_, by decide, fun _ => .inl (by decide), by decide⟩, by decide, by decide⟩
    <;> (intro k h; cases h; decide)
/-- HomeRequests, promotion: a team-scope record of pair 5 that an acquire load of another pair would read. -/
theorem witness_HomePromotes :
    let s := { sHome 0x0B 0 { lrscope := 1, lrpair := 5 } with rx := ⟨3, 20, { cls := 0x0B, tag := 9, line := 2 ^ 23, tenant := 1, scope := 3, acq := true, master := 12 }⟩ }
    s.permits 20 0 1 (128 * 2 ^ 23) .read = some (entry0 0) ∧ s.lineBusy (2 ^ 23) = false ∧ (Tab.find s.dir (2 ^ 23)).isSome = true
    ∧ s.mustPromote (2 ^ 23) s.rx.m = true ∧ s.rx.src ≠ s.rx.dst := by decide
/-- HomeRequests, the directory: a sharer that upgrades beside another; an owner; sharers beside an owner. -/
theorem witness_HomeDirectory :
    (let d : Dir := { st := .ds, sharers := sharerBit 3 ||| sharerBit 32 }
     d.sharers &&& sharerBit 3 ≠ 0 ∧ (sharerPorts d.sharers).filter (· != 3) ≠ [] ∧ sharerPorts d.sharers ≠ [])
    ∧ (let d : Dir := { st := .ds, sharers := sharerBit 3 }
       d.sharers &&& sharerBit 3 ≠ 0 ∧ (sharerPorts d.sharers).filter (· != 3) = [])
    ∧ sharerPorts (0 : BitVec 17) = [] ∧ (sHome 0x07 1 {}).rx.m.mask ≠ 0 ∧ amoLegal (amoArgs 0) = true := by decide +kernel
/-- HomeRequests, denial and queueing: no entry permits; a transaction of the line is open. -/
theorem witness_HomeDenies : askOf 0x01 = some .read
    ∧ ({ sHome 0x01 0 {} with acc := [] }.permits 20 0 1 (128 * 2 ^ 23) .read) = none
    ∧ (Tab.find { sHome 0x01 0 {} with homeTx := [(2 ^ 23, { src := 5, m := read78, st := .hd })] }.homeTx (2 ^ 23)).isSome = true := by decide
/-- A transaction of chiplet 3 on line 2^23, and a message of another about it. -/
def openTx : HomeTx := { src := 3, m := { cls := 0x0B, tag := 9, line := 2 ^ 23 }, st := .hp }
def sAnswer : State :=
  { sHome 0x48 0 { lrscope := 1, lrpair := 5 } with homeTx := [(2 ^ 23, openTx)], rx := ⟨5, 20, { cls := 0x48, tag := 9, line := 2 ^ 23, mask := 1 }⟩ }
/-- HomeCompletions: an open transaction with nothing awaited yet; its answer arrives; and once it is over, a promotion write-back. -/
theorem witness_HomeCompletions : Tab.find sAnswer.homeTx (2 ^ 23) = some openTx ∧ openTx.src ≠ 20 ∧ openTx.acks = 0
    ∧ openTx.needData = false ∧ openTx.needDram = false ∧ sAnswer.rx.dst = 20 ∧ sAnswer.rx.m.line.toNat = 2 ^ 23 ∧ sAnswer.rx.m.tag = openTx.m.tag
    ∧ (sAnswer.dirOf (2 ^ 23)).lrscope = 1 ∧ (sAnswer.dirOf (2 ^ 23)).st = .di ∧ (sAnswer.dirOf (2 ^ 23)).sharers = 0 ∧ openTx.evict = false ∧ (33 : Nat) ≠ 20
    ∧ (∀ r ∈ sAnswer.pwbs, r.m.line.toNat ≠ 2 ^ 23) ∧ (sAnswer.permits 20 0 0 (128 * 2 ^ 23) .write) = none
    ∧ (sAnswer.permits 20 0 1 (128 * 2 ^ 23) .write) = some (entry0 0) := by decide +kernel
/-- HomeCompletions, the end of a bump: a promotion write-back of chiplet 3 waits for it; and a request that waits behind an ended transaction. -/
theorem witness_HomeBumps :
    (let r : Rx := ⟨3, 20, { cls := 0x0D, tag := 4, line := 2 ^ 23 }⟩
     Tab.find [(20 * 2 ^ 16 + 9, r)] (20 * 2 ^ 16 + (9 : BitVec 16).toNat) = some r ∧ r.src ≠ 20 ∧ sAnswer.pwbWait = [])
    ∧ (let s := sHome 0x09 0 {}
       State.Opens { s with homeQ := Tab.del [(2 ^ 23, [s.rx])] (2 ^ 23) } 0x09 (entry0 0) ∧ Tab.get [] [(2 ^ 23, [s.rx])] (2 ^ 23) = [s.rx]) := by
  refine ⟨⟨rfl, by decide, rfl⟩, ⟨by decide, by decide, rfl, ?_, by decide, fun _ => .inl (by decide), by decide⟩, rfl⟩
  intro k h; cases h; decide
/-- A response to TAG 9 of chiplet 3, for request 60 of gang id 1. -/
def sResponse (c : BitVec 8) : State :=
  { s1 with
    rx := ⟨20, 3, { cls := 0x42, tag := 9, line := 2 ^ 23 }⟩, txs := [(3 * 2 ^ 16 + 9, { cls := c, line := 2 ^ 23, target := 20, req := 60 })]
    reqs := [(60, { kind := .write, core := 0, gid := 1, pline := 2 ^ 23 })] }
/-- AnswersAndSnoops, responses: of a fill, a write and a promotion's write-back. -/
theorem witness_Responses : Tab.find (sResponse 1).txs (3 * 2 ^ 16 + 9) = some { cls := 1, line := 2 ^ 23, target := 20, req := 60 }
    ∧ ((sResponse 1).l2Line 3 (2 ^ 23)).waiters = [] ∧ ((sResponse 7).req 60).kind = .write ∧ (Tab.find (sResponse 7).gids 1).isSome = true
    ∧ (sResponse 0x0D).rx.dst < 16 ∧ (sResponse 1).l2 = [] ∧ (sResponse 7).promotions = []
    ∧ (let p : Promotion := { chip := 3, home := 20, m := { cls := 0x24, line := 2 ^ 23 }, waits := [60], mask := 1 }
       p.chip = (sResponse 0x0D).rx.dst ∧ ((sResponse 0x0D).req 60).kind = .write ∧ p.home ≠ 3 ∧ p.mask ≠ 0) := by decide
/-- AnswersAndSnoops, a load of one lane: its operation waits for the request. -/
theorem witness_LoadAnswer :
    let ll : LaneLoad := { lane := 0, ea := 0x7C, pline := 2 ^ 23, req := 60 }
    let o : Op := { gid := 1, kind := .load, dst := 95, outstanding := maskOf [0], loads := [ll] }
    let s := { sResponse 6 with ops := [(5, o)], reqs := [(60, { kind := .bypass, core := 0, gid := 1, op := 5, pline := 2 ^ 23 })] }
    Tab.find s.ops (s.req 60).op = some o ∧ o.gid = (s.req 60).gid ∧ o.loads = [ll] ∧ ll.lane < s.g.lanes.length ∧ s.g.lanes.length ≤ 64
    ∧ o.dst.toNat < 96 ∧ o.outstanding = maskOf [ll.lane] ∧ (Tab.find s.reqs 60).isSome = true ∧ (s.req 60).kind = .bypass ∧ o.cons = false := by
  decide
/-- AnswersAndSnoops, snoops: of a line with no holder, of an owned one and of a pinned one; a promotion of a pair with one dirty line; bumps. -/
theorem witness_Snoops :
    let s := { sResponse 1 with l2 := [(3 * 2 ^ 41 + 2 ^ 23, { st := .o, pin := some 4 })], reqs := [], rx := ⟨20, 3, { cls := 0x24, pair := 100, line := 2 ^ 23 }⟩
                                pairs := [(100, { l1 := [{ line0 with dirty := 1 }] })] }
    s.rx.dst < 16 ∧ s.rx.src ≠ s.rx.dst ∧ (s.l2Line 3 (2 ^ 23)).pin ≠ none ∧ (s.l2Line 3 4).pin = none ∧ (s.l2Line 3 4).st = .i
    ∧ s.rx.dst = chipOf s.rx.m.pair.toNat ∧ (∀ e ∈ s.teams, e.2.pair = 100 → e.2.rst = false) ∧ s.reqs = []
    ∧ (s.pair 100).l1 = [{ line0 with dirty := 1 }] ∧ s.bumps = [] := by decide +kernel

/-! Statements about caches, clauses, the MMP, X0, X1 and the links -/

/-- CacheEvents, L1 and L2: a clean line and a dirty one over an owned line of the L2; a line in S; no tentative team. -/
theorem witness_CacheLeaves :
    let s := { s1 with pairs := [(0, { l1 := [line0] }), (1, { l1 := [{ line0 with dirty := 1 }] })], l2 := [(2 ^ 23, { st := .m }), (5, { st := .s })] }
    (∀ e ∈ s.teams, e.2.rst = false) ∧ (s.pair 0).l1 = [line0] ∧ line0.dirty = 0 ∧ s.reqs = [] ∧ (s.pair 1).l1 = [{ line0 with dirty := 1 }]
    ∧ line0.by1 = 0 ∧ (s.l2Line (chipOf 1) line0.pline).st = .m ∧ (s.l2Line 0 5).st = .s ∧ (s.l2Line 0 5).pin = none ∧ (s.l2Line 0 5).waiters = [] := by
  decide +kernel
/-- CacheEvents, the galley: one lane waits for one request, a fill of a line the L1 holds; the entry is 50 µs old; another gang stalls. -/
theorem witness_Galley :
    let ll : LaneLoad := { lane := 0, ea := 0x7C, pline := 2 ^ 23, req := 60 }
    let o : Op := { gid := 1, kind := .galley, flag := 3, dst := 95, outstanding := maskOf [0], loads := [ll] }
    let q : Req := { kind := .fill, core := 0, gid := 1, op := 5, asid := 7, pline := 2 ^ 23 }
    let s := { sHit with ptime := 50000, ops := [(5, o)], reqs := [(60, q)], cores := [(0, { galleyStalls := [(1, 5, 0)] })] }
    Tab.find s.reqs 60 = some q ∧ q.stale = false ∧ (s.pair (pairOf q.core)).line q.asid q.kslot q.vline = some line0 ∧ line0.pline = q.pline
    ∧ Tab.find s.ops q.op = some o ∧ q.op ≠ 0 ∧ o.loads = [ll] ∧ ll.lane < s.g.lanes.length ∧ s.g.lanes.length ≤ 64 ∧ o.arrived = 0
    ∧ o.acq = 0 ∧ o.dst.toNat < 96 ∧ q.mask = 0 ∧ o.cons = false ∧ o.issued + 50000 ≤ s.ptime ∧ o.flag ≠ 15
    ∧ (s.core 0).galleyStalls = [(1, 5, 0)] ∧ q.fetch = false := by decide +kernel
/-- CacheEvents, a store to a peer whose request was dropped. -/
theorem witness_WriteTimedOut :
    let r : Req := { kind := .write, core := 0, gid := 1, cls := 7 }
    let s := { sHit with reqs := [(60, r)], ops := [], txs := [], promotions := [] }
    (∀ e ∈ s.teams, e.2.rst = false) ∧ Tab.find s.ops 60 = none ∧ Tab.find s.reqs 60 = some r ∧ (Tab.find s.gids r.gid).isSome = true := by decide +kernel
/-- CacheEvents, the tentative buffer: one word held for a line that the L2 owns. -/
theorem witness_Tentative :
    let u := { s1 with teams := Tab.ins s1.teams 2 { pair := 0, rst := true, held := [(5, 0, 1, 0)] }, l2 := [(5, { st := .m })] }
    (u.l2Line (chipOf 0) 5).st = .m ∧ (u.l2Line (chipOf 0) 5).pin = none ∧ (u.l2Line (chipOf 0) 5).waiters = [] ∧ u.reqs = [] ∧ (1 : BitVec 32) ≠ 0 := by
  decide
/-- A gang of threads 0 and 2 at a header at 0x1000 of LEN = 1 that waits for f0; `add` follows. -/
def gidStart : Gid :=
  { gid0 5 [] [] with
    gang := { uid := 9, active := 5, hdr := 0x1000 }
    lanes := (List.range 16).map (fun l => { st := if l = 0 ∨ l = 2 then .issuing else .exited }) }
def sStart : State :=
  { s1 with
    gids := [(1, gidStart)], cores := []
    pairs := [(0, { l1 := [{ line0 with
      vline := 32, pline := 2 ^ 23 + 32, words := BitVec.ofNat 1024 ((encodeHeader ⟨1, 1, 2, 1, false⟩).toNat + 0x14206100 * 2 ^ 32) }] })] }
/-- The word at 0x1000 + 4k of `sStart` is fetched as it stands in L1. -/
theorem witness_Fetches : sStart.Fetches gidStart 0x1000 (encodeHeader ⟨1, 1, 2, 1, false⟩) ∧ sStart.Fetches gidStart 0x1004 0x14206100 := by
  constructor
  · exact ⟨_, rfl, by decide, by decide, by decide +kernel⟩
  · exact ⟨_, rfl, by decide, by decide, by decide +kernel⟩
/-- ClauseStarts: the same gang where L1 does not hold its header. -/
theorem witness_HeaderMisses :
    let s := { sStart with pairs := [] }
    (s.pair 0).line (s.launch gidStart.launch).asid gidStart.kslot (gidStart.gang.hdr.toNat / 128) = none ∧ s.fetchReqs 1 gidStart.gang.uid = []
    ∧ s.translate 0 gidStart.launch gidStart.gang.hdr 4 rightX = .ok (2 ^ 30 + 0x1000) page0 ∧ page0.nc = false := by decide
/-- ClauseStarts: that gang waits at the head of its core's slot, and nothing of its clause is illegal. -/
theorem witness_ClauseStarts : (sStart.core 0).slot = none ∧ sStart.onCore 0 = [(1, gidStart)] ∧ Tab.find sStart.gids 1 = some gidStart
    ∧ gidStart.core = 0 ∧ gidStart.gang.uid ≠ 0 ∧ gidStart.gang.running = false ∧ gidStart.gang.stage = 0 ∧ gidStart.gang.since ≤ sStart.ptime
    ∧ gidStart.others = [] ∧ gidStart.held = [] ∧ gidStart.frozen = false ∧ (∀ th ∈ gidStart.lanes, th.st ≠ .filed)
    ∧ sStart.stopping gidStart.team = false ∧ (∀ p ∈ (sStart.core 0).mat.tspend, p.1 ≠ 1) ∧ gidStart.gang.hdr.toNat % 4 = 0
    ∧ gidStart.gang.blocked = false ∧ (s1.core 0).slot = some (1, 5) ∧ s1.g.frozen = false := by decide
theorem witness_ClauseLegal : majorOf (encodeHeader ⟨1, 1, 2, 1, false⟩) = 0 ∧ decodeHeader (encodeHeader ⟨1, 1, 2, 1, false⟩) = some ⟨1, 1, 2, 1, false⟩
    ∧ (∀ f, f < 12 → (1 : BitVec 12).getLsbD f = true → Tab.get 0 gidStart.flags f = 0) ∧ majorOf 0x14206100 ≠ 0 ∧ majorOf 0x14206100 ≠ 0x3E
    ∧ majorOf 0x14206100 ≠ 0x34 ∧ majorOf 0x14206100 ≠ 0x35 ∧ needsLit .none 0x14206100 = false ∧ formOk (.add 1 ⟨.none, 4, 6, 8, 0⟩) = true
    ∧ contextOk gidStart { addr := 0x1004, words := [0x14206100] } (.add 1 ⟨.none, 4, 6, 8, 0⟩) = true
    ∧ (∀ l ∈ gidStart.actives, inBounds (.add 1 ⟨.none, 4, 6, 8, 0⟩) gidStart.regs (gidStart.lane l).wbase = true)
    ∧ sStart.wPending 1 gidStart.gang.active = false := by decide
/-- ClauseStarts, aging: a group of threads at 0x40 in its bin for the age. -/
theorem witness_GroupAge :
    let g := { gid0 0 [] [] with gang := {}, lanes := [{ st := .filed, pc := 0x40 }] }
    let s := { s1 with ptime := 10 ^ 9, gids := [(1, g)] }
    0x40 ∈ g.groups ∧ g.agedAt (s.lc g.core g.kslot).age 0x40 ≤ s.ptime ∧ g.frozen = false := by decide

/-- Words of memory, eight bytes each, in rising order. -/
def cells (ws : List (Nat × Dword)) : List Host.Cell :=
  (ws.flatMap (fun w => (bytesOfNat 8 w.2.toNat).mapIdx (fun i b => (w.1 + i, b)))).filter (fun c => c.2 != 0)
/-- ASID 7 of tenant 9 maps 2 MiB at 0 with every right, and 2 MiB of host memory at 2 MiB; the walker of cluster 0 may read its tables. -/
def sTab : State :=
  { sOn with
    regs := [(regKey x1 0x40000, 0x40000001)]
    mem := cells [(2 ^ 30 + 112, 0x9001), (2 ^ 30 + 120, 0x40040000), (2 ^ 30 + 0x40000, nodeEntry (2 ^ 30 + 0x50000)),
      (2 ^ 30 + 0x50000, nodeEntry (2 ^ 30 + 0x60000)), (2 ^ 30 + 0x60000, nodeEntry (2 ^ 30 + 0x70000)),
      (2 ^ 30 + 0x70000, leafEntry (2 ^ 31) 15 false false 0), (2 ^ 30 + 0x70008, leafEntry 0x800000000000 3 false false 0)]
    acc := (List.range 16).map (fun p => ((p + 16) * 2 ^ 15 + 8 * 2048, 0xFFFFFFFF00000000000000000000003F#128)) }
def page7 : Page := { va := 0, size := 2 ^ 21, pa := 2 ^ 31, rights := 15, wt := false, nc := false, ireg := 0 }
def page8 : Page := { va := 2 ^ 21, size := 2 ^ 21, pa := 0x800000000000, rights := 3, wt := false, nc := true, ireg := 0 }
theorem test_walk : sTab.walk 0 7 0x10000 = .page page7 := by decide +kernel
theorem test_walk_host : sTab.walk 0 7 0x200000 = .page page8 := by decide +kernel
theorem test_walk_error : sTab.walk 0 7 0x400000 = .error := by decide +kernel
/-- A launch of ASID 7 with a record granted and one that renews; an unmap of 64 KiB under way. -/
def launch7 : Launch :=
  { asid := 7, tenant := 9, phase := .leases, recs := [{ lease0 with expiry := 100 }, { lease0 with vbase := 0x10000, len := 0x10000, st := .renewing, expiry := 0 }] }
def unmap7 : Unmap := { asid := 7, va := 0x10000, len := 0x10000, short := 0, phase := 1 }
def sUnmap : State := { sTab with launches := [(3, launch7)], unmaps := [(44, unmap7)] }
/-- The lines of ASID 7's walk for the first 2 MiB: of the ASID's entry, and of a node at each level. -/
def lines7 : Tab (Option Line) :=
  [(2 ^ 23, some (lineOfBytes (List.replicate 112 0 ++ bytesOfNat 8 0x9001 ++ bytesOfNat 8 0x40040000))),
    (2 ^ 23 + 2048, some (lineOfBytes (bytesOfNat 8 (nodeEntry (2 ^ 30 + 0x50000)).toNat))),
    (2 ^ 23 + 2560, some (lineOfBytes (bytesOfNat 8 (nodeEntry (2 ^ 30 + 0x60000)).toNat))),
    (2 ^ 23 + 3072, some (lineOfBytes (bytesOfNat 8 (nodeEntry (2 ^ 30 + 0x70000)).toNat))),
    (2 ^ 23 + 3584, some (lineOfBytes (bytesOfNat 8 (leafEntry (2 ^ 31) 15 false false 0).toNat ++ bytesOfNat 8 (leafEntry 0x800000000000 3 false false 0).toNat)))]
/-- A walk of cluster 0 whose lines have come. -/
def walk7 (va : Nat) : Walk := { cluster := 0, launch := 3, va := va, right := rightR, got := lines7 }
/-- LeasesAndUnmaps, tables and walks: the last entry of the last master; a walk that finds its page, one that finds no page, and one that finds
a page of narrower rights than the record's. -/
theorem witness_Leases : 35 < 36 ∧ 4095 < 4096 ∧ 7 < 8
    ∧ (let s : State := { sUnmap with walks := [(77, walk7 0x10000)] }
       (launch7.covering 0x10000 1 rightR).filter (fun j => decide (s.ptime < (launch7.recAt j).expiry)) = [0]
       ∧ s.tlbHit 0 3 0x10000 rightR (launch7.covering 0x10000 1 rightR) = none ∧ s.tlbHits 0 3 0x10000 rightR (launch7.covering 0x10000 1 rightR) = []
       ∧ s.walks = [(77, walk7 0x10000)] ∧ (walk7 0x10000).bad = false ∧ (walk7 0x10000).req = 0
       ∧ page7.rights &&& (launch7.recAt 0).rights = (launch7.recAt 0).rights ∧ (Tab.get [] s.tlbs 0).length < 2048
       ∧ page8.rights &&& (launch7.recAt 0).rights ≠ (launch7.recAt 0).rights) := by decide +kernel
theorem witness_Walks : sUnmap.walkBy (walk7 0x10000).read 7 0x10000 = .page page7 ∧ sUnmap.walkBy (walk7 0x400000).read 7 0x400000 = .error
    ∧ sUnmap.walkBy (walk7 0x200000).read 7 0x200000 = .page page8 := by decide +kernel
/-- LeasesAndUnmaps, grants: the pages stand, and the tables have room. -/
theorem witness_LeaseGrant : launch7.phase = .leases ∧ (sTab.pagesFor 7 launch7.recs).isSome = true
    ∧ (sTab.addAll (spread (sTab.mastersOf launch7.forme.order) (launch7.entriesFor [page7]))).isSome = true := by decide +kernel
/-- LeasesAndUnmaps, lapses and renewals: record 1 meets the unmap and has lapsed; record 0 has not; record 1 renews. -/
theorem witness_Renewal : unmap7.phase = 1 ∧ unmap7.asid = (sUnmap.launch 3).asid ∧ (launch7.recAt 1).meets unmap7.va unmap7.len = true
    ∧ (launch7.recAt 1).expiry ≤ 0 ∧ 1 < launch7.recs.length ∧ (launch7.recAt 1).st = .renewing ∧ unmap7.short = 0 ∧ sTab.unmaps = []
    ∧ launch7.leaseTab = 0 ∧ ({ launch7 with leaseTab := 0x409F0000 } : Launch).leaseTab ≠ 0 := by
  decide
/-- Eight entries of core 0 at home 16, none of which joins another; the one of block 5 to 9 falls in two when block 6 leaves it. -/
def sFull : State :=
  { sUnmap with acc := (List.range 8).map (fun i => (16 * 2 ^ 15 + i, mkEntry (10 * i + 5) (10 * i + 9) 9 0 0 true true false false false)) }
/-- LeasesAndUnmaps, the course of an unmap: no record is left; the last cluster's answer; its frames can be cut, or not yet; its leaves may be
written by the MMP. -/
theorem witness_UnmapCourse : (∀ r ∈ ({ sUnmap with launches := [] } : State).revoked unmap7, r.2.st ≠ .renewing ∧ r.2.expiry ≤ 0)
    ∧ Tab.find sUnmap.unmaps 44 = some unmap7 ∧ unmap7.waits = 0 ∧ sUnmap.reqs = [] ∧ (∀ e ∈ sUnmap.teams, e.2.rst = false)
    ∧ (∀ i, i < 4 → ∀ l ∈ (sUnmap.pair (4 * 0 + i)).l1, unmap7.covers l.asid l.vline = false)
    ∧ (sUnmap.cutFrames 7 [(5, 6)]).isSome = true ∧ sFull.cutFrames 7 [(6, 6)] = none
    ∧ ((sUnmap.launch page0.launch).recAt page0.recIx).meets 0x10000 0x10000 = true ∧ ({ unmap7 with phase := 3 } : Unmap).phase = 3
    ∧ ({ unmap7 with phase := 2, waits := 0 } : Unmap).waits = 0 := by decide +kernel
theorem witness_UnmapLeaves : sUnmap.leavesIn 7 0x10000 0x20000 ≠ [] ∧ (∀ x ∈ sUnmap.leavesIn 7 0x10000 0x20000,
    x.1 % 8 = 0 ∧ (sUnmap.permits (sUnmap.targetOf (128 * (x.1 / 128))) 2194 0 (128 * (x.1 / 128)) .write).isSome = true) := by decide +kernel
/-- A command area with a payload. -/
def area (payload : List Byte) : List Byte := bytesOfNat 4 0 ++ bytesOfNat 4 payload.length ++ payload
/-- MailboxAndRegisters, tenants: ASID 7 to tenant 4,095; a length that is wrong. -/
theorem witness_Tenants :
    let s := { sTab with mbCopy := area (bytesOfNat 2 7 ++ bytesOfNat 2 4095) }
    s.mbArea 4 4 = 4 ∧ s.mb 0 2 < 2 ^ 14 ∧ s.mb 2 2 < 2 ^ 12 ∧ field (s.peek64 (s.asidEntry 7 + 8)) 47 15 ≠ 0 ∧ s.mbArea 4 4 ≠ 32
    ∧ (s.permits (s.targetOf (128 * (s.asidEntry 7 / 128))) 2194 0 (128 * (s.asidEntry 7 / 128)) .write).isSome = true
    ∧ ({ sTab with mbCopy := area (bytesOfNat 4 7) } : State).mb 2 2 = 0 := by decide +kernel
/-- MailboxAndRegisters, MAP_RANGE: the last 2 MiB page of a peer window at 4 MiB; and an address already mapped. -/
theorem witness_MapRange :
    let s (va : Nat) : State := { sTab with mbCopy := area (bytesOfNat 2 7 ++ [7, 1, 0, 0, 2, 0] ++ bytesOfNat 8 va ++ bytesOfNat 8 (2 ^ 21)
      ++ bytesOfNat 8 (0xE00000000000 - 2 ^ 21)) }
    (s 0x400000).mbArea 4 4 = 32 ∧ (s 0x400000).mb 2 1 = 7 ∧ sizeOfPage 1 = 2 ^ 21 ∧ (s 0x400000).mb 24 8 + (s 0x400000).mb 16 8 ≤ 0xE00000000000
    ∧ (s 0x400000).mb 8 8 % 2 ^ 21 = 0 ∧ (s 0).leavesIn 7 0 (2 ^ 21) ≠ [] ∧ (s 0x400000).leavesIn 7 0x400000 0x600000 = []
    ∧ ((s 0x400000).peek64 ((s 0x400000).asidEntry 7)).getLsbD 0 = true
    ∧ (match (s 0x400000).rootOf 7 with
      | some (root, u) => (State.mapPages root 1 2 7 false false 0 9 1 0x400000 (0xE00000000000 - 2 ^ 21) u).isSome
      | none => false) = true := by decide +kernel
/-- MailboxAndRegisters, UNMAP_RANGE: 2 MiB at 0, at once and with a shortest notice of 100 µs. -/
theorem witness_UnmapRange :
    let s (short : Nat) : State := { sTab with
      mbCopy := area (bytesOfNat 2 7 ++ bytesOfNat 2 0 ++ bytesOfNat 4 short ++ bytesOfNat 8 0 ++ bytesOfNat 8 (2 ^ 21))
      launches := [(3, { launch7 with recs := [lease0] })] }
    (s 0).mbArea 4 4 = 24 ∧ (s 100).mb 4 4 = 100 ∧ (∀ p ∈ ((s 0).leavesIn 7 0 (2 ^ 21)).map pageOfLeaf, 0 ≤ p.va ∧ p.va + p.size ≤ 2 ^ 21)
    ∧ ((s 0).cutFrames 7 (((s 0).leavesIn 7 0 (2 ^ 21)).map pageOfLeaf |>.map (fun p => (p.pa / 65536, (p.pa + p.size) / 65536 - 1)))).isSome = true
    ∧ (s 100).revoked { asid := 7, va := 0, len := 2 ^ 21, short := 100 } ≠ [] := by decide +kernel
/-- MailboxAndRegisters, CONFIGURE_LAUNCH_QUEUE: queue 63, a ring of 2^9 slots that fills its page of 2 MiB less a page, and its tail word. -/
theorem witness_Queue :
    let s := { sTab with mbCopy := area ([63, 3, 7, 0, 9, 0, 0, 0] ++ bytesOfNat 8 0x200000 ++ bytesOfNat 8 0x3FFFF8) }
    s.mbArea 4 4 = 24 ∧ s.mb 0 1 < 64 ∧ s.mb 1 1 = 3 ∧ s.mb 4 1 ≤ 12 ∧ s.mb 5 3 = 0 ∧ s.mb 8 8 % 4096 = 0 ∧ s.mb 16 8 % 8 = 0
    ∧ lqEn (s.lqcfg 63) = false ∧ s.walk 0 7 (s.mb 8 8) = .page page8 ∧ s.walk 0 7 (s.mb 16 8) = .page page8
    ∧ s.mb 8 8 + 2 ^ s.mb 4 1 * 2048 ≤ page8.va + page8.size ∧ spaceOf (page8.pa + (s.mb 8 8 - page8.va)) = .host
    ∧ spaceOf (page8.pa + (s.mb 16 8 - page8.va)) = .host ∧ (s.entriesOf x0 2192).length ≤ 6 := by decide +kernel
/-- MailboxAndRegisters, registers: a row of its own, and a pair without teams whose STEPS change. -/
theorem witness_Registers : rowOfRegister x0 0x11000 1 = some (.dispctlWrite 1) ∧ 0x50000 % 8 = 0
    ∧ sTab.hostMay x0 0x11000 .write = true ∧ sTab.hostMay x0 0x50000 .write = true ∧ sTab.hostMay x0 0x50008 .write = true
    ∧ ({ sTab with regs := [(regKey x0 0x14008, 5)] } : State).hostMay x1 0x74008 .write = false
    ∧ sTab.teamsOn 511 = [] ∧ field 11#64 3 0 ≤ 11 ∧ 11 < field 12#64 3 0 ∧ (sTab.pair 511).l1 = [] ∧ sTab.steps 511 ≠ field 11#64 3 0 := by decide
/-- PowerAndClock: power is applied to the module as it is after reset, with the last fuse but one left; and to one that has power. -/
theorem witness_Power : State.reset.powered = false ∧ State.reset.tables = false ∧ State.reset.regs = [] ∧ State.reset.fuses < 8192
    ∧ sOn.powered = true ∧ ({} : BringUp).railsOk = true ∧ ({} : BringUp).fuseOk = true ∧ ({} : BringUp).coloursBad = []
    ∧ ({} : BringUp).memPass = 0xFFFF ∧ ({} : BringUp).fwOk = true ∧ ({} : BringUp).pairsBad = [] ∧ pairsRefused {} = [] := by decide
/-- PowerAndClock, bank maps: the map of R78's own rule, and one with a bank twice. -/
def evenMap : List Nat := (List.range 768).map (fun q => q % 32 + 32 * (q / 64) + 384 * (q / 32 % 2))
theorem evenMap_all : ∀ b ∈ List.range 768, b ∈ evenMap := by
  intro b hb
  rw [List.mem_range] at hb
  obtain ⟨y, x, z, hz, hx, hy, rfl⟩ : ∃ y x z, z < 32 ∧ x < 12 ∧ y < 2 ∧ b = 384 * y + 32 * x + z :=
    ⟨b / 384, b % 384 / 32, b % 32, by omega, by omega, by omega, by omega⟩
  have h : (z + 64 * x + 32 * y) / 32 = 2 * x + y := by omega
  exact List.mem_map.mpr ⟨z + 64 * x + 32 * y, List.mem_range.mpr (by omega), by rw [h]; omega⟩
theorem witness_BankMap : bankMapOk evenMap = true := by
  have h : (List.range 768).all evenMap.contains = true := by simpa using evenMap_all
  simp only [bankMapOk, h, Bool.and_true]
  decide +kernel
theorem witness_BankMapRefused : bankMapOk (List.replicate 768 0) = false := by decide +kernel
/-- PowerAndClock, THERM: at the limit, above it, and at 95 % of it. -/
theorem witness_Clock : field (sOn.reg x1 0x74008) 47 32 = 8000 ∧ 8000 < 8001 ∧ 100 * 7600 ≤ 95 * 8000 ∧ 95 * 8000 < 100 * 7601 := by decide
/-- A counter of tenant 9 for region 5. -/
def counter5 : Counter := { region := 5, tenant := 9, count := 2 ^ 36 - 2 ^ 33 - 77, ceil := 2 ^ 36, st := .opened }
def sCount : State := { sOn with counters := [counter5], mbCopy := area (bytesOfNat 2 5 ++ bytesOfNat 2 9) }
/-- ImprintRecords, commands: of an open slot, and of one that is free; no epoch is out of fuses. -/
theorem witness_Counters : sCount.mbArea 4 4 = 4 ∧ sCount.mb 0 2 < 4096 ∧ sCount.mb 2 2 < 4096 ∧ sCount.fuseOut = false
    ∧ (sCount.counterOf 5 9).isSome = true ∧ sCount.openSlot 5 9 = true ∧ sOn.counterOf 5 9 = none ∧ sOn.counters.length < 16384
    ∧ (∀ c ∈ sCount.cores, (sCount.core c.1).pcnt = 0)
    ∧ (∀ e ∈ sCount.launches, e.2.phase = .complete ∨ e.2.tenant ≠ 9 ∨ (5 : BitVec 12) ∉ sCount.meteredRegions e.2) := by decide
/-- ImprintRecords, a record in the payload: the lengths of RESTORE, IMPORT and KEY. -/
theorem witness_Payloads : ({ sOn with mbCopy := area (List.replicate 256 0) } : State).mbArea 4 4 = 256
    ∧ ({ sOn with mbCopy := area (List.replicate 552 0) } : State).mb 453 3 = 0
    ∧ ({ sOn with mbCopy := area (List.replicate 300 0) } : State).mb 201 3 = 0 := by decide +kernel
/-- ImprintRecords, flushes: a flush of 77 that meets the ceiling with the reserve, and one of 78 that passes it. -/
theorem witness_Flush :
    let m (n : Nat) : Msg := { cls := 0x07, master := 1023, data := BitVec.ofNat 1024 ((n + 5 * 2 ^ 32 + 9 * 2 ^ 48) * 2 ^ 896) }
    flushOf 1023 (m 77) = (77, 5, 9) ∧ Tab.find sCount.homeQ (flushKey 5 9) = none ∧ sCount.counterOf 5 9 = some counter5
    ∧ sCount.slotBusy 5 9 = false ∧ counter5.count + 77 + 2 ^ 33 ≤ counter5.ceil ∧ counter5.ceil < counter5.count + 78 + 2 ^ 33
    ∧ counter5.ceil < 2 ^ 64 - 1 ∧ 1023 < 1024 ∧ sOn.counterOf 5 9 = none := by decide +kernel
/-- ImprintRecords, the log: enabled in host memory with one slot of sixteen free, and PLTAIL one past PLACK. -/
theorem witness_Log :
    let s := { sOn with regs := [(regKey x1 0x70000, 0x800000000401), (regKey x1 0x70008, 15)], pubs := [{ kind := 1 }] }
    s.fuseOut = false ∧ (s.reg x1 0x70000).getLsbD 0 = true ∧ s.plTail - s.plAck < s.logSlots ∧ (∀ e ∈ s.io, e.2.kind ≠ .record)
    ∧ s.targetOf (s.logBase + 256 * (s.plTail % s.logSlots)) ≠ x1 ∧ s.targetOf (s.logBase + 256 * (s.plTail % s.logSlots) + 128) ≠ x1
    ∧ s.plAck ≤ 15 ∧ 15 ≤ s.plTail ∧ s.plTail < 16 := by decide
/-- ImprintRecords, a ring in device memory, which fits there; one in host memory, which PLCFG does not take. -/
theorem witness_Ring : sOn.acc = [] ∧ sOn.l2 = [] ∧ sOn.launches = [] ∧ (sOn.reg x1 0x70000).getLsbD 0 = false
    ∧ sOn.ringFits (field (0x2000000401 : BitVec 64) 47 12 * 4096 / 65536) ((field (0x2000000401 : BitVec 64) 47 12 * 4096 + 256 * 2 ^ 4 - 1) / 65536) = true
    ∧ sOn.ringFits (0x800000000000 / 65536) (0x800000000000 / 65536) = false := by decide
/-- A queue of tenant 9 in device memory, its entry 0 and the forme it names at virtual address 0. -/
def entry9 : List Byte :=
  [1, 5, 0, 0, 7, 0, 0, 0] ++ List.replicate 120 0 ++ bytesOfNat 8 0x10000 ++ bytesOfNat 8 0x10000 ++ [15] ++ List.replicate 15 0
def forme9 : List Byte :=
  [1, 0, 32, 1, 64, 0, 1, 0] ++ bytesOfNat 4 4096 ++ [1, 0, 0, 0, 0, 0, 2, 0, 0, 0, 0, 0] ++ bytesOfNat 8 0x10000 ++ List.replicate 32 0 ++ [40, 0, 41, 0]
def sQueue : State :=
  let read (ln : Nat) (bs : List Byte) : IoOp := { kind := .read (entryOwner 0 0) ln, m := some { cls := 0x40, data := lineOfBytes bs } }
  { sTab with
    regs := [(regKey x0 0x10000, 0x0009000040080001), (regKey x1 0x40000, 0x40000001), (regKey x1 0x74040, 0x30000000000)]
    io := [(50, read (2 ^ 23 + 0x1000) (entry9.take 128)), (51, read (2 ^ 23 + 0x1001) (entry9.drop 128)), (52, read (2 ^ 24) forme9)] }
theorem test_read_entry : sQueue.dispatcherRead (entryOwner 0 0) 9 (2 ^ 30 + 0x80000) 128 = (.ok (entry9.take 128), sQueue) := by
  exact Prod.ext (by decide +kernel) rfl
theorem test_read_records : sQueue.dispatcherRead (entryOwner 0 0) 9 (2 ^ 30 + 0x80080) 32 = (.ok (entry9.drop 128), sQueue) := by
  exact Prod.ext (by decide +kernel) rfl
theorem test_read_forme : sQueue.virtualRead (entryOwner 0 0) x0 2192 7 9 true 0 64 = (.ok (forme9.take 64), sQueue) := by
  unfold State.virtualRead
  exact Prod.ext (by decide +kernel) (by decide +kernel)
theorem test_read_order : sQueue.virtualRead (entryOwner 0 0) x0 2192 7 9 true 64 4 = (.ok (forme9.drop 64), sQueue) := by
  exact Prod.ext (by decide +kernel) (by decide +kernel)
/-- LaunchesStart, an entry that keeps every rule, the theorems above being its reads, with room for DONE's block; and the tail word of one queue. -/
theorem witness_EntryAccept : lqBase (sQueue.lqcfg 0) = 2 ^ 30 + 0x80000 ∧ lqTenant (sQueue.lqcfg 0) = 9 ∧ (∀ e ∈ sQueue.launches, e.2.tag ≠ 0)
    ∧ 0 ∉ sQueue.completed ∧ seqAhead (sQueue.lqhead 0) 0 < 2 ^ 31 ∧ entryOk entry9 = true
    ∧ formeOk ((fieldOf entry9 2 1).testBit 1) (forme9.take 64) (forme9.drop 64) = true
    ∧ (launchOf 0 0 0 0 9 entry9).deps.all (sQueue.depOk 0 0) = true ∧ sQueue.placeable (formeOf 0 (forme9.take 64) (forme9.drop 64)) = true := by
  decide
theorem witness_EntryTenant : (sQueue.read64 (sQueue.asidEntry 7)).getLsbD 0 = true ∧ sQueue.tenantOf 7 = 9
    ∧ (∀ p, p < 36 → 16 ≤ p → (sQueue.entriesOf p 2192).length < 8) ∧ fieldOf entry9 24 8 = 0 ∧ sQueue.gids = [] := by decide +kernel
/-- LaunchesStart, a DONE word at 0x10008. -/
theorem witness_EntryDone :
    let bs := entry9.take 24 ++ bytesOfNat 8 0x10008 ++ entry9.drop 32
    fieldOf bs 24 8 = 0x10008 ∧ entryOk bs = true ∧ sQueue.walk 0 7 0x10008 = .page page7 := by decide +kernel
/-- LaunchesStart, an entry in a poisoned line. -/
theorem witness_EntryPoisoned :
    let s : State := { sQueue with io := [(50, { kind := .read (entryOwner 0 0) (2 ^ 23 + 0x1000), m := some { cls := 0x40, poison := true } })] }
    s.dispatcherRead (entryOwner 0 0) 9 (2 ^ 30 + 0x80000) 128 = (.bad, s) := by
  exact Prod.ext (by decide +kernel) rfl
theorem witness_TailPoll :
    let s := { sOn with regs := [(regKey x0 0x10000, 1)] }
    (∀ j, j < 64 → lqEn (s.lqcfg j) = decide (j = 0)) ∧ lqDev (s.lqcfg 0) = false ∧ (∀ e ∈ s.io, e.2.kind ≠ .tail 0)
    ∧ spaceOf (field (s.lqtail 0) 47 3 * 8) = .device := by decide
/-- A launch ready to be placed on pair 40, which is empty. -/
def launchReady : Launch := { asid := 7, tenant := 9, phase := .ready, forme := { width := 32, threads := 64, order := [40], scratch := 0 } }
def sReady : State :=
  { sOn with launches := [(3, launchReady)], regs := [(regKey x1 0x74000, 1), (regKey x1 0x74040, 0x10000000000)] }
/-- LaunchesStart, verification and placement: nothing is metered; the pair qualifies. -/
theorem witness_Placement : sReady.mayPlace = true ∧ sReady.usable 40 = true ∧ sReady.qualifies 3 { id := 0 } 1 [] [] 40 = true
    ∧ launchReady.cursor = 0 ∧ launchReady.forme.cohsz ≤ 1 ∧ 1 ≤ launchReady.teams ∧ launchReady.again = [] ∧ launchReady.placed = 0
    ∧ sReady.meteredRegions launchReady = [] ∧ (∀ p ∈ sReady.pubs, p.launch ≠ some 3) ∧ (∀ e ∈ sReady.pairs, e.2.evictions = [])
    ∧ ({ launchReady with forme := { launchReady.forme with cohsz := 2 }, teams := 2 } : Launch).nextWork ≠ [] := by decide
/-- A gang id of core 0 under eviction. -/
def gidEvicted : Gid := { gid0 0 [] [] with gang := {}, evicted := true, lanes := [{ st := .evicted }] }
def sResume : State := { sReady with gids := [(1, gidEvicted)], pairs := [(0, { evictions := [1], k0 := some 3 })] }
/-- LaunchesStart, a core image that needs attestation when no fuse is left; an evicted gang id of pair 0, with a context free and with none; and
a gang id asked to make way for the incoming launch. -/
theorem witness_Resume :
    (sResume.pair 0).evictions = [1] ∧ Tab.find sResume.gids 1 = some gidEvicted ∧ sResume.mayPlace = true ∧ sResume.resumable 0 = true
    ∧ (sResume.core gidEvicted.core).pcnt = 0 ∧ sResume.contexts gidEvicted.core < contextMax
    ∧ contextMax ≤ ({ sResume with gids := sResume.gids ++ (List.range 32).map (fun i => (2 + i, gid0 0 [] [])) } : State).contexts gidEvicted.core
    ∧ ({ sOn with regs := [(regKey x1 0x70018, 0xFFFFFFFFFFFFFFFF)] } : State).fuseOut = true
    ∧ (let l : Launch := { launchReady with incoming := [40] }
       let s : State := { sReady with launches := [(3, l)], gids := [(1, { gid0 0 [] [] with core := 80, preempt := true })] }
       l.phase = .ready ∧ (1, ({ gid0 0 [] [] with core := 80, preempt := true } : Gid)) ∈ s.gids ∧ pairOf 80 ∈ l.incoming
       ∧ l.nextWork.length ≤ (l.forme.order.filter s.usable).length) := by decide
/-- TeamsAndWaitsEnd: a team whose threads have exited, and the same with one filed; a run to repeat elsewhere. -/
def team0 : Team := { launch := 3, id := 6, pair := 40 }
def sTeam (st : TState) : State :=
  { sReady with teams := [(2, team0)], gids := [(1, { gid0 0 [] [] with core := 80, gang := {}, lanes := [{ st := st }] })] }
theorem witness_Teams : Tab.find (sTeam .filed).teams 2 = some team0 ∧ (∀ k ∈ (sTeam .filed).gidsOf 2, (sTeam .filed).draining k = false)
    ∧ (sTeam .filed).cohortOf 2 = [2] ∧ (sTeam .filed).teamBusy 2 = false ∧ launchReady.forme.matrix = false ∧ team0.rst = false
    ∧ ((sTeam .filed).reg x0 0x13008).getLsbD 63 = false ∧ (sTeam .exited).teamDone 2 = true ∧ (sTeam .exited).teamBusy 2 = false
    ∧ ((sTeam .exited).pair 40).l1 = [] ∧ ((sTeam .exited).core 80).pcnt = 0 ∧ (sTeam .exited).teamWrites { team0 with retiring := true } = false
    ∧ launchReady.retired + 1 < 2 ∧ (sTeam .filed).teamsOf 3 = [2] ∧ sReady.teamsOf 3 = [] ∧ launchReady.donePa = none ∧ launchReady.ents = []
    ∧ ({ team0 with rerun := true } : Team).rerun = true ∧ (team0.diverged.map (·.pair)).getD team0.pair < 512
    ∧ (∃ p ∈ [40, 41], ({ sReady with regs := [(regKey x1 0x74040, 0x30000000000)] } : State).usable p = true ∧ p ≠ team0.pair) := by
  refine ⟨rfl, by decide, by decide, by decide, rfl, rfl, by decide, by decide, by decide, by decide, by decide, by decide, by decide,
    by decide, by decide, rfl, rfl, rfl, by decide, ⟨41, by decide, by decide, by decide⟩⟩
/-- TeamsAndWaitsEnd, `waitw`: the word that a waiting thread awaits has been read. -/
theorem witness_Reread :
    let r : Req := { kind := .engine, core := 0, gid := 1, op := 1, vline := 0x40, reply := some { bytes := 0 } }
    let g : Gid := { gid0 0 [] [] with gang := {}, lanes := [{ st := .waiting, await := some (.waitw 0x40 0 0 7 2 0) }] }
    let s := { s1 with gids := [(1, g)], reqs := [(90, r)] }
    Tab.find s.gids 1 = some g ∧ s.reqs = [(90, r)] ∧ r.reply = some { bytes := 0 } ∧ r.stale = false ∧ r.acq = false ∧ r.vline < 2 ^ 64
    ∧ (g.lane 0).await = some (.waitw (BitVec.ofNat 64 r.vline) 0 0 7 2 0) := by
  exact ⟨rfl, rfl, rfl, rfl, rfl, by decide, rfl⟩
/-- HostPort: the last 64 bytes below the capacity, and the first above it; a read of host memory, and an atomic on it. -/
theorem witness_HostPort : sOn.capacity - 64 < sOn.capacity ∧ (sOn.capacity - 64) % 64 = 0 ∧ sOn.capacity - 64 < 2 ^ 48
    ∧ (let o (k : IoKind) : IoOp := { kind := k, src := 3, m := some { cls := 0x0A } }
       let s := { sOn with io := [(50, o .hostRead), (51, o .hostAtomic), (52, o .hostRmw)] }
       Tab.find s.io 50 = some (o .hostRead) ∧ (Tab.find s.io 51).isSome = true ∧ (Tab.find s.io 52).isSome = true ∧ (3 : Nat) ≠ x0
       ∧ Tab.find s.homeQ 0 = none ∧ amoLegal (amoArgs 0) = true) := by
  refine ⟨by decide, by decide, by decide, rfl, rfl, rfl, by decide, rfl, by decide +kernel⟩
/-- Link 11 is up, slot 0 keyed both ways; peer 0 is reached by links 10 and 11, and link 10 is up too. -/
def sLink : State :=
  { s1 with links := [(11, { key := [(0, 1)], salt := [(0, 2)], rkey := [(0, 1)], rsalt := [(0, 2)], rvalid := 1 })]
            regs := [(regKey 34 0x20000, 0xC000001), (regKey (linkPort 11) (0x21000 + 8 * 4), 5), (regKey (linkPort 11) (0x21000 + 8 * 5), 5)] }
/-- ScaleUpLinks, clause by clause: a repeated request, a denied one, an atomic entry that lapses, frames good and bad, a failure, key slots. -/
theorem witness_ScaleUpLinks :
    (sLink.lkctl 11).getLsbD 0 = true ∧ sLink.slotSends 11 (txk (sLink.lkctl 11)) = true ∧ (sLink.link 11).waiting = []
    ∧ (let a : AtomEntry := { port := 35, modid := 3, tag := 9, reply := some { cls := 0x45 }, expires := 5 }
       let m : Msg := { cls := 0x07, tag := 9 }
       ({ sLink with atoms := [a] } : State).atoms = [a] ∧ a.modid = 3 ∧ a.tag = m.tag.toNat ∧ a.reply.isSome = true ∧ a.port = linkPort 11)
    ∧ sLink.atoms = [] ∧ sLink.permits (linkPort 11) 2207 9 0 .write = none
    ∧ (∃ n, n < 2 ^ 34 ∧ sLink.capacity ≤ 128 * n)
    ∧ (valOf (sLink.lkctl 11) 0 = true ∧ (sLink.link 11).rvalid.getLsbD 0 = true ∧ valOf (sLink.lkctl 11) 1 = false)
    ∧ (∀ e ∈ sLink.io, e.2.kind ≠ .peerOut 11)
    ∧ sLink.otherLink 11 0 = some 10
    ∧ (inUse (sLink.lkctl 11) 0 = true ∨ txk (sLink.lkctl 11) = 0) ∧ valOf (0 : BitVec 64) 0 = false
    ∧ (∀ k, k < 2 → valOf (sLink.lkctl 11) k = true → valOf (0xC : BitVec 64) k = true) ∧ sLink.NoneHeld := by
  refine ⟨by decide, by decide, by decide, ⟨rfl, rfl, rfl, rfl, rfl⟩, rfl, by decide, ⟨2 ^ 34 - 1, by decide, by decide⟩, by decide, by decide, by decide,
    by decide, by decide, by decide, fun e h => by cases h⟩
/-- ScaleUpLinks, a write that waits at X3 on link 10 while 256 entries stand, one of which lapses; its repetition comes on link 11. -/
theorem witness_ScaleUpHeld :
    let a (k : Nat) : AtomEntry := { port := 35, modid := 3, tag := k, reply := some { cls := 0x42 }, expires := 500 }
    let o : IoOp := { kind := .peerHeld 10 3, m := some { cls := 0x07, tag := 900 } }
    let s : State := { sLink with ptime := 500, atoms := (List.range 256).map a, io := [(0, o)] }
    s.io = [(0, o)] ∧ linkPort 10 = linkPort 11 ∧ (∀ x ∈ s.atoms, x.modid ≠ 3 ∨ x.tag ≠ 900)
    ∧ (s.atoms.filter (fun x => decide (x.port = linkPort 11) && !(x.modid == 3 && x.tag == 7))).length < 256
    ∧ (∀ x ∈ s.atoms, x.port = linkPort 11 → x.modid = 3 → x.tag = 7 → x.reply.isSome = true ∧ x.expires ≤ s.ptime) ∧ s.nextId ≠ 0 := by
  refine ⟨rfl, by decide, by decide +kernel, by decide +kernel, by decide +kernel, by decide⟩
/-- ScaleUpLinks, a link fails under a store that is 40,001 ns old. -/
theorem witness_ScaleUpDropped :
    let o : IoOp := { kind := .peerOut 11, src := 3, m := some { cls := 0x07, tag := 9 }, issued := 0 }
    let q : Tx := { cls := 0x07, line := 0, target := 35, req := 60 }
    let s : State := { sLink with ptime := 40001, io := [(4, o)], txs := [(3 * 2 ^ 16 + 9, q)] }
    s.io = [(4, o)] ∧ o.kind = .peerOut 11 ∧ o.issued + 40000 < s.ptime ∧ Tab.find s.txs (o.src * 2 ^ 16 + 9) = some q := by decide +kernel
/-- A frame of link 11 that carries a message of a class in slot 0's key and salt, with its tag; the other header bytes stay as they are. -/
def frameOf (cls : Nat) : LinkFrame :=
  let c := keyed 1 2 0 (bytesOfNat 1 cls)
  { kidx := 0, seq := 0, counter := 0, cipher := c, tag := frameTag 1 2 0 c, modid := 3 }
/-- ScaleUpLinks, frames: with the tag that the receiver computes, of a request and of a class that Table 4 does not list; and with another tag. -/
theorem witness_ScaleUpFrame : (frameOf 7).seq = (sLink.link 11).expect
    ∧ Tab.get 0 (sLink.link 11).rkey 0 = 1 ∧ Tab.get 0 (sLink.link 11).rsalt 0 = 2 ∧ frameTag 1 2 0 (frameOf 7).cipher = (frameOf 7).tag
    ∧ frameTag 1 2 0 (frameOf 0x7F).cipher = (frameOf 0x7F).tag := ⟨by decide, by decide, by decide, rfl, rfl⟩
theorem witness_ScaleUpClass : (askOf (msgOfBytes (keyed 1 2 0 (frameOf 7).cipher)).cls.toNat).isSome = true := by decide +kernel
theorem witness_ScaleUpUnknown : knownClass (msgOfBytes (keyed 1 2 0 (frameOf 0x7F).cipher)).cls = false := by decide +kernel
theorem witness_ScaleUpBad : frameTag 1 2 0 [] ≠ 0 := by decide +kernel
/-- ScaleUpLinks, a peer that the access table of link 11 lets write. -/
theorem witness_ScaleUpPermitted :
    (({ sLink with acc := [(35 * 2 ^ 15 + 8 * 2207, 0xFFFFFFFF00000000000000000000093F#128)] } : State).permits (linkPort 11) 2207 9 0 .write).isSome = true := by
  decide +kernel

end Sys2Proof.Tests
end

section
/-!
The bit fields of R238. A field is the library's `extractLsb'` at position p, of the length that `fieldLen` leaves of it;
`bfe.n` extends that field with zeros, `bfe.s` with its highest bit, and `bfi` writes through the mask of its positions.
Each bit of the three results is then read off, at every width.
-/

namespace Sys2Proof.Machine

/-- The field's own end, as R238 writes it: bits p to min(p + l, n) − 1. -/
theorem lt_fieldLen_iff (n p l i : Nat) : i < fieldLen n p l ↔ p + i < min (p + l) n := by
  unfold fieldLen
  split <;> omega

/-- The bits of `a` that R238 calls field(a, p, l), as a vector of the field's own length. -/
def bitField (n : Nat) (a : BitVec n) (p l : Nat) : BitVec (fieldLen n p l) := a.extractLsb' p (fieldLen n p l)

theorem toNat_bitField (n : Nat) (a : BitVec n) (p l : Nat) :
    (bitField n a p l).toNat = a.toNat / 2 ^ p % 2 ^ fieldLen n p l := by
  rw [bitField, BitVec.extractLsb'_toNat, Nat.shiftRight_eq_div_pow]

theorem getLsbD_bitField (n : Nat) (a : BitVec n) (p l i : Nat) :
    (bitField n a p l).getLsbD i = (decide (p + i < min (p + l) n) && a.getLsbD (p + i)) := by
  rw [bitField, BitVec.getLsbD_extractLsb', decide_eq_decide.mpr (lt_fieldLen_iff n p l i)]

/-- The highest bit of the field, which an empty field does not have. -/
theorem msb_bitField (n : Nat) (a : BitVec n) (p l : Nat) :
    (bitField n a p l).msb = (decide (p < min (p + l) n) && a.getLsbD (min (p + l) n - 1)) := by
  rw [BitVec.msb_eq_getLsbD_last, getLsbD_bitField]
  by_cases h : p < min (p + l) n
  · have hlast : p + (fieldLen n p l - 1) = min (p + l) n - 1 := by
      unfold fieldLen
      split <;> omega
    have hin : min (p + l) n - 1 < min (p + l) n := by omega
    simp only [hlast, hin, h]
  · have hout : ¬ p + (fieldLen n p l - 1) < min (p + l) n := by omega
    simp only [hout, h, decide_false, Bool.false_and]

theorem bfeN_eq_setWidth_bitField (n : Nat) (a b c : BitVec n) :
    bfeN n a b c = (bitField n a (b.toNat % 256) (c.toNat % 256)).setWidth n := by
  apply BitVec.eq_of_toNat_eq
  rw [BitVec.toNat_setWidth, toNat_bitField, bfeN, BitVec.toNat_ofNat]

/-- The comparison of the field with half its range, which `bfe.s` makes, is the sign of the field. -/
theorem bfeS_eq_signExtend_bitField (n : Nat) (a b c : BitVec n) :
    bfeS n a b c = (bitField n a (b.toNat % 256) (c.toNat % 256)).signExtend n := by
  rw [BitVec.signExtend, BitVec.toInt_eq_toNat_cond, toNat_bitField]
  simp only [bfeS]
  generalize fieldLen n (b.toNat % 256) (c.toNat % 256) = k
  generalize a.toNat / 2 ^ (b.toNat % 256) = v
  cases k with
  | zero => simp [Nat.mod_one]
  | succ k =>
    have hhalf : 2 * (v % 2 ^ (k + 1)) < 2 ^ (k + 1) ↔ v % 2 ^ (k + 1) < 2 ^ k := by omega
    simp only [hhalf, Nat.add_one_ne_zero, if_false, Nat.add_sub_cancel]
    split
    · rw [BitVec.ofInt_natCast]
    · push_cast
      rfl

/-- The mask of `bfi` has its bits at the positions p to min(p + l, n) − 1. -/
theorem getLsbD_fieldMask {n i : Nat} (p l : Nat) (hi : i < n) :
    (BitVec.ofNat n ((2 ^ fieldLen n p l - 1) * 2 ^ p)).getLsbD i = decide (p ≤ i ∧ i < min (p + l) n) := by
  rw [BitVec.getLsbD_ofNat, Nat.testBit_mul_two_pow, Nat.testBit_two_pow_sub_one]
  by_cases hp : p ≤ i
  · simp [lt_fieldLen_iff, hi, hp]
  · simp [hp]

theorem getLsbD_bfeN {n i : Nat} (a b c : BitVec n) (hi : i < n) :
    (bfeN n a b c).getLsbD i
      = (decide (b.toNat % 256 + i < min (b.toNat % 256 + c.toNat % 256) n) && a.getLsbD (b.toNat % 256 + i)) := by
  rw [bfeN_eq_setWidth_bitField, BitVec.getLsbD_setWidth, getLsbD_bitField, decide_eq_true hi, Bool.true_and]

theorem getLsbD_bfeS {n i : Nat} (a b c : BitVec n) (hi : i < n) :
    let p := b.toNat % 256
    let e := min (p + c.toNat % 256) n
    (bfeS n a b c).getLsbD i = (decide (p < e) && a.getLsbD (if p + i < e then p + i else e - 1)) := by
  simp only [bfeS_eq_signExtend_bitField, BitVec.getLsbD_signExtend, getLsbD_bitField, msb_bitField, lt_fieldLen_iff, hi,
    decide_true, Bool.true_and]
  generalize min (b.toNat % 256 + c.toNat % 256) n = e
  generalize b.toNat % 256 = p
  split
  case isTrue h => rw [decide_eq_true h, decide_eq_true (show p < e by omega)]
  case isFalse => rfl

theorem getLsbD_bfiN {n i : Nat} (d a b c : BitVec n) (hi : i < n) :
    let p := b.toNat % 256
    let e := min (p + c.toNat % 256) n
    (bfiN n d a b c).getLsbD i = (if p ≤ i ∧ i < e then a.getLsbD (i - p) else d.getLsbD i) := by
  simp only [bfiN]
  generalize b.toNat % 256 = p
  generalize c.toNat % 256 = l
  by_cases hp : n ≤ p
  · have hout : ¬ (p ≤ i ∧ i < min (p + l) n) := by omega
    rw [if_pos hp, if_neg hout]
  · rw [if_neg hp, BitVec.getLsbD_or, BitVec.getLsbD_and, BitVec.getLsbD_and, BitVec.getLsbD_not, BitVec.getLsbD_shiftLeft,
      getLsbD_fieldMask p l hi]
    by_cases hin : p ≤ i ∧ i < min (p + l) n
    · rw [if_pos hin, decide_eq_true hin]
      simp [hi, hin.1]
    · rw [if_neg hin, decide_eq_false hin]
      simp [hi]

/-- Settles O3: each of the three results is read off bit by bit, and neither width plays a part. -/
theorem bitFields : Obligations.BitFields := by
  intro n _ d a b c i hi
  exact ⟨getLsbD_bfeN a b c hi, getLsbD_bfeS a b c hi, getLsbD_bfiN d a b c hi⟩

end Sys2Proof.Machine
end

section
/-!
The classes of R269. Each row of its Table 2 is a condition on the sign, exponent and fraction fields of an encoding. An
encoding meets some row, and `classOf` answers the bit of every row it meets; so it meets one alone, and the bit tells which.
-/

namespace Sys2Proof.Machine

/-- The sign of an encoding is set. -/
abbrev Fmt.signed (f : Fmt) (x : Nat) : Prop := x / 2 ^ (f.eb + f.fb) % 2 = 1
/-- The exponent field of an encoding. -/
abbrev Fmt.expField (f : Fmt) (x : Nat) : Nat := x / 2 ^ f.fb % 2 ^ f.eb
/-- The fraction field of an encoding. -/
abbrev Fmt.fracField (f : Fmt) (x : Nat) : Nat := x % 2 ^ f.fb
/-- The highest bit of the fraction, which tells a quiet NaN (R269). -/
abbrev Fmt.quietBit (f : Fmt) (x : Nat) : Bool := x.testBit (f.fb - 1)

/-- The encoding belongs to the class of bit `k` (Table 2 of R269). -/
def Fmt.InClass (f : Fmt) (x : Nat) : Nat → Prop
  | 0 => f.signed x ∧ f.expField x = 2 ^ f.eb - 1 ∧ f.fracField x = 0
  | 1 => f.signed x ∧ 0 < f.expField x ∧ f.expField x < 2 ^ f.eb - 1
  | 2 => f.signed x ∧ f.expField x = 0 ∧ f.fracField x ≠ 0
  | 3 => f.signed x ∧ f.expField x = 0 ∧ f.fracField x = 0
  | 4 => ¬f.signed x ∧ f.expField x = 0 ∧ f.fracField x = 0
  | 5 => ¬f.signed x ∧ f.expField x = 0 ∧ f.fracField x ≠ 0
  | 6 => ¬f.signed x ∧ 0 < f.expField x ∧ f.expField x < 2 ^ f.eb - 1
  | 7 => ¬f.signed x ∧ f.expField x = 2 ^ f.eb - 1 ∧ f.fracField x = 0
  | 8 => f.expField x = 2 ^ f.eb - 1 ∧ f.fracField x ≠ 0 ∧ f.quietBit x = false
  | 9 => f.expField x = 2 ^ f.eb - 1 ∧ f.quietBit x = true
  | _ => False

/-- The quiet bit of an encoding is the highest bit of its fraction field. -/
theorem Fmt.quietBit_eq_testBit_fracField (f : Fmt) (hfb : 0 < f.fb) (x : Nat) :
    f.quietBit x = (f.fracField x).testBit (f.fb - 1) := by
  have hlt : f.fb - 1 < f.fb := by omega
  rw [Nat.testBit_mod_two_pow, decide_eq_true hlt, Bool.true_and]

theorem Fmt.fracField_ne_zero_of_quietBit (f : Fmt) (hfb : 0 < f.fb) (x : Nat) (h : f.quietBit x = true) :
    f.fracField x ≠ 0 := by
  intro hz
  rw [f.quietBit_eq_testBit_fracField hfb, hz, Nat.zero_testBit] at h
  exact Bool.false_ne_true h

/-- `decode` takes a NaN for signalling where its quiet bit is clear. -/
theorem Fmt.signalling_eq_not_quietBit (f : Fmt) (hfb : 0 < f.fb) (x : Nat) :
    (f.fracField x / 2 ^ (f.fb - 1) % 2 == 0) = !f.quietBit x := by
  rw [f.quietBit_eq_testBit_fracField hfb, Nat.testBit_eq_decide_div_mod_eq]
  rcases Nat.mod_two_eq_zero_or_one (f.fracField x / 2 ^ (f.fb - 1)) with h | h <;> simp [h]

/-! ### What `classOf` answers, by the exponent and the fraction -/

theorem Fmt.classOf_inf (f : Fmt) (x : Nat) (he : f.expField x = 2 ^ f.eb - 1) (hm : f.fracField x = 0) :
    f.classOf x = if f.signed x then 2 ^ 0 else 2 ^ 7 := by
  have hinf : f.decode x = .inf (decide (f.signed x)) := by
    simp only [Fmt.decode, if_pos he, if_pos hm]
    rfl
  by_cases hs : f.signed x
  · rw [Fmt.classOf, hinf, decide_eq_true hs, if_pos hs]
  · rw [Fmt.classOf, hinf, decide_eq_false hs, if_neg hs]

theorem Fmt.classOf_nan (f : Fmt) (hfb : 0 < f.fb) (x : Nat) (he : f.expField x = 2 ^ f.eb - 1) (hm : f.fracField x ≠ 0) :
    f.classOf x = if f.quietBit x then 2 ^ 9 else 2 ^ 8 := by
  have hnan : f.decode x = .nan (!f.quietBit x) := by
    rw [← f.signalling_eq_not_quietBit hfb x]
    simp only [Fmt.decode, if_pos he, if_neg hm]
  rw [Fmt.classOf, hnan]
  cases f.quietBit x <;> rfl

theorem Fmt.classOf_zero (f : Fmt) (heb : 0 < f.eb) (x : Nat) (he : f.expField x = 0) (hm : f.fracField x = 0) :
    f.classOf x = if f.signed x then 2 ^ 3 else 2 ^ 4 := by
  have hmax : 0 ≠ 2 ^ f.eb - 1 := (Nat.sub_pos_of_lt (Nat.one_lt_two_pow heb.ne')).ne
  by_cases hs : f.signed x <;> simp [Fmt.classOf, Fmt.decode, Fmt.signBit, he, hm, hs, hmax]

theorem Fmt.classOf_subnormal (f : Fmt) (heb : 0 < f.eb) (x : Nat) (he : f.expField x = 0) (hm : f.fracField x ≠ 0) :
    f.classOf x = if f.signed x then 2 ^ 2 else 2 ^ 5 := by
  have hmax : 0 ≠ 2 ^ f.eb - 1 := (Nat.sub_pos_of_lt (Nat.one_lt_two_pow heb.ne')).ne
  by_cases hs : f.signed x <;> simp [Fmt.classOf, Fmt.decode, Fmt.signBit, he, hm, hs, hmax]

theorem Fmt.classOf_normal (f : Fmt) (x : Nat) (h0 : 0 < f.expField x) (hmax : f.expField x < 2 ^ f.eb - 1) :
    f.classOf x = if f.signed x then 2 ^ 1 else 2 ^ 6 := by
  by_cases hs : f.signed x <;> simp [Fmt.classOf, Fmt.decode, Fmt.signBit, h0.ne', hmax.ne, hs]

/-! ### One class each -/

/-- `classOf` answers the bit of every class that the encoding belongs to. -/
theorem Fmt.classOf_of_inClass (f : Fmt) (heb : 0 < f.eb) (hfb : 0 < f.fb) (x k : Nat) (h : f.InClass x k) :
    f.classOf x = 2 ^ k := by
  match k, h with
  | 0, ⟨hs, he, hm⟩ => rw [f.classOf_inf x he hm, if_pos hs]
  | 1, ⟨hs, h0, hmax⟩ => rw [f.classOf_normal x h0 hmax, if_pos hs]
  | 2, ⟨hs, he, hm⟩ => rw [f.classOf_subnormal heb x he hm, if_pos hs]
  | 3, ⟨hs, he, hm⟩ => rw [f.classOf_zero heb x he hm, if_pos hs]
  | 4, ⟨hs, he, hm⟩ => rw [f.classOf_zero heb x he hm, if_neg hs]
  | 5, ⟨hs, he, hm⟩ => rw [f.classOf_subnormal heb x he hm, if_neg hs]
  | 6, ⟨hs, h0, hmax⟩ => rw [f.classOf_normal x h0 hmax, if_neg hs]
  | 7, ⟨hs, he, hm⟩ => rw [f.classOf_inf x he hm, if_neg hs]
  | 8, ⟨he, hm, hq⟩ => rw [f.classOf_nan hfb x he hm, hq, if_neg Bool.false_ne_true]
  | 9, ⟨he, hq⟩ => rw [f.classOf_nan hfb x he (f.fracField_ne_zero_of_quietBit hfb x hq), if_pos hq]

theorem Fmt.exists_inClass (f : Fmt) (x : Nat) : ∃ k, k < 10 ∧ f.InClass x k := by
  have hlt : f.expField x < 2 ^ f.eb := Nat.mod_lt _ (Nat.two_pow_pos f.eb)
  by_cases he : f.expField x = 2 ^ f.eb - 1
  · by_cases hm : f.fracField x = 0
    · by_cases hs : f.signed x
      · exact ⟨0, by decide, hs, he, hm⟩
      · exact ⟨7, by decide, hs, he, hm⟩
    · cases hq : f.quietBit x
      · exact ⟨8, by decide, he, hm, hq⟩
      · exact ⟨9, by decide, he, hq⟩
  by_cases h0 : f.expField x = 0
  · by_cases hm : f.fracField x = 0 <;> by_cases hs : f.signed x
    · exact ⟨3, by decide, hs, h0, hm⟩
    · exact ⟨4, by decide, hs, h0, hm⟩
    · exact ⟨2, by decide, hs, h0, hm⟩
    · exact ⟨5, by decide, hs, h0, hm⟩
  · have hpos : 0 < f.expField x := Nat.pos_of_ne_zero h0
    have hmax : f.expField x < 2 ^ f.eb - 1 := by omega
    by_cases hs : f.signed x
    · exact ⟨1, by decide, hs, hpos, hmax⟩
    · exact ⟨6, by decide, hs, hpos, hmax⟩

theorem Fmt.classOf_eq_two_pow_iff (f : Fmt) (heb : 0 < f.eb) (hfb : 0 < f.fb) (x k : Nat) :
    f.classOf x = 2 ^ k ↔ f.InClass x k := by
  refine ⟨fun h => ?_, f.classOf_of_inClass heb hfb x k⟩
  obtain ⟨j, -, hj⟩ := f.exists_inClass x
  have hpow : 2 ^ j = 2 ^ k := (f.classOf_of_inClass heb hfb x j hj).symm.trans h
  rwa [← Nat.pow_right_injective (Nat.le_refl 2) hpow]

/-- `fclass` writes the class of its operand to `d` of every active lane, and nothing else. -/
theorem completes_fclass (s : State) (t : BitVec 2) (f : RForm) (h : s.Issues) :
    Completes (.fclass t f) s (fun u => Results s u f.d 1
      (fun l => [BitVec.ofNat 32 ((fmtOf t.toNat).classOf (s.g.fop t.toNat l f.a f.lit))]) clean 0) :=
  retire_results s _ f.d 1 _ clean h (fun _ => Nat.le_refl 1) rfl

/-- The formats of the four type codes have both fields, and their quiet bits stand where R269 says. -/
theorem fmtOf_fields (t : Nat) (h : t < 4) :
    0 < (fmtOf t).eb ∧ 0 < (fmtOf t).fb ∧ [51, 22, 9, 6].getD t 0 = (fmtOf t).fb - 1 := by
  revert t
  decide

/-- Settles O8: the rows of Table 2 that the statement writes out are the classes 0 to 9 of `Fmt.InClass`. -/
theorem floatClasses : Obligations.FloatClasses := by
  refine ⟨fun s t f h => completes_fclass s t f h, fun t x ht => ?_⟩
  obtain ⟨heb, hfb, hquiet⟩ := fmtOf_fields t ht
  have hiff := (fmtOf t).classOf_eq_two_pow_iff heb hfb x
  obtain ⟨k, hk, hclass⟩ := (fmtOf t).exists_inClass x
  rw [hquiet]
  exact ⟨hiff 0, hiff 1, hiff 2, hiff 3, hiff 4, hiff 5, hiff 6, hiff 7, hiff 8, hiff 9, k, hk, (hiff k).mpr hclass⟩

end Sys2Proof.Machine
end

section
/-!
Sleep and its expiry (R343). The instruction files or parks the gang's threads, the event files those whose time has come;
either changes one gang id and posts to the agenda, so what each leaves alone is said once, for a change of that shape.
-/

namespace Sys2Proof.Machine

/-! ### A change of one gang id and of the agenda -/

/-- `t` differs from `s` in the record of gang id `k` and in the agenda alone. -/
structure OnlyGidAndAgenda (k : Nat) (s t : State) : Prop where
  rest : t = { s with gids := t.gids, agenda := t.agenda }
  others : ∀ j, j ≠ k → Tab.find t.gids j = Tab.find s.gids j

theorem OnlyGidAndAgenda.refl (k : Nat) (s : State) : OnlyGidAndAgenda k s s := ⟨rfl, fun _ _ => rfl⟩

theorem State.updGid_onlyGidAndAgenda (s : State) (k : Nat) (f : Gid → Gid) : OnlyGidAndAgenda k s (s.updGid k f) :=
  ⟨rfl, fun j hj => Tab.find_change_other s.gids k j f hj⟩

theorem OnlyGidAndAgenda.post {k : Nat} {s t : State} (h : OnlyGidAndAgenda k s t) (due : Nat) (d : Due) :
    OnlyGidAndAgenda k s (t.post due d) := by
  refine ⟨?_, h.others⟩
  rw [State.post, h.rest]

theorem OnlyGidAndAgenda.later {k : Nat} {s t : State} (h : OnlyGidAndAgenda k s t) (dt : Nat) (i : Instr) :
    OnlyGidAndAgenda k s (t.later dt i) :=
  h.post (t.ptime + dt) (.event i)

theorem OnlyGidAndAgenda.nowOnce {k : Nat} {s t : State} (h : OnlyGidAndAgenda k s t) (i : Instr) :
    OnlyGidAndAgenda k s (t.nowOnce i) := by
  unfold State.nowOnce
  split
  · exact h
  · exact h.post t.ptime (.event i)

@[simp] theorem State.gids_nowOnce (s : State) (i : Instr) : (s.nowOnce i).gids = s.gids := by
  rw [State.nowOnce_agenda]

@[simp] theorem State.gid_nowOnce (s : State) (i : Instr) (k : Nat) : (s.nowOnce i).gid k = s.gid k := by
  rw [State.gid, State.gids_nowOnce, State.gid]

@[simp] theorem State.g_nowOnce (s : State) (i : Instr) : (s.nowOnce i).g = s.g := by
  rw [State.nowOnce_agenda]
  rfl

theorem State.mem_agenda_later (s : State) (dt : Nat) (i : Instr) : (s.ptime + dt, Due.event i) ∈ (s.later dt i).agenda :=
  List.mem_append_right s.agenda (List.mem_singleton_self _)

/-! ### Threads that wait, and threads that are woken (R337) -/

theorem State.waitOn_onlyGidAndAgenda (s : State) (a : Await) : OnlyGidAndAgenda s.cur s (s.waitOn a) :=
  (s.updGid_onlyGidAndAgenda s.cur _).nowOnce _

@[simp] theorem State.ptime_waitOn (s : State) (a : Await) : (s.waitOn a).ptime = s.ptime := by
  rw [(s.waitOn_onlyGidAndAgenda a).rest]

theorem State.waitOn_waits (s : State) (a : Await) (h : s.Issues) : Gid.Waits s.g (s.waitOn a).g (fun _ => a) := by
  rw [State.waitOn, State.waitOnBy, State.g_nowOnce, State.g_onGid s _ h]
  exact s.g.waits_of (fun _ => a)

theorem State.wake_onlyGidAndAgenda (s : State) (k : Nat) (f : Thread → Bool) : OnlyGidAndAgenda k s (s.wake k f) := by
  unfold State.wake
  dsimp only
  split
  · exact (s.updGid_onlyGidAndAgenda k _).nowOnce _
  · exact .refl k s

/-- Of the threads of a gang id, `wake` files those that wait and that `f` names, and no others. -/
theorem State.lane_wake (s : State) (k : Nat) (f : Thread → Bool) (h : (Tab.find s.gids k).isSome = true) (l : Nat)
    (hl : l < (s.gid k).lanes.length) :
    ((s.wake k f).gid k).lane l =
      if ((s.gid k).lane l).st = .waiting ∧ f ((s.gid k).lane l) = true then
        { (s.gid k).lane l with st := .filed, filedAt := s.ptime, await := none }
      else (s.gid k).lane l := by
  unfold State.wake
  dsimp only
  split
  case isTrue =>
    rw [State.gid_nowOnce, State.gid_updGid s k _ h, Gid.lane_fileLanes, if_pos hl]
    by_cases hw : ((s.gid k).lane l).st = .waiting ∧ f ((s.gid k).lane l) = true
    · simp [hw]
    · have hw' : ¬ (((s.gid k).lane l).st == .waiting && f ((s.gid k).lane l)) = true := by simpa using hw
      rw [if_neg hw, if_neg hw']
  case isFalse hnone =>
    have hmem : (s.gid k).lane l ∈ (s.gid k).lanes := by
      rw [Gid.lane, List.getD_eq_getElem _ _ hl]
      exact List.getElem_mem hl
    rw [if_neg]
    rintro ⟨hst, hf⟩
    exact hnone (List.any_eq_true.mpr ⟨_, hmem, by simp [hst, hf]⟩)

/-! ### `sleep` and SLEEP_EXPIRY (R343) -/

/-- Where what the elected lane supplies agrees, `sleep` files the gang's threads or lets them wait, by its operand. -/
theorem exec_sleep_agree (s : State) (f : RForm)
    (h : s.g.mismatch (s.g.supplies (fun l => [(s.g.word l f.a f.lit).zeroExtend 64])) = none) :
    exec (.sleep f) s = .next (
      if (s.g.word s.g.elected f.a f.lit).toNat = 0 then
        (s.onGid (fun g => g.fileActive s.ptime (fun _ => g.gang.next))).nowOnce (.clauseStart s.g.core)
      else
        (s.waitOn (.sleep (s.ptime + (s.g.word s.g.elected f.a f.lit).toNat))).later
          (s.g.word s.g.elected f.a f.lit).toNat (.sleepExpiry s.cur)) :=
  congrArg Host.Outcome.next (s.guarded_agree _ _ h)

theorem sleep_zero_files (s : State) (i : Instr) (h : s.Issues) :
    Gid.Files s.g ((s.onGid (fun g => g.fileActive s.ptime (fun _ => g.gang.next))).nowOnce i).g s.ptime
      (fun _ => s.g.gang.next) := by
  rw [State.g_nowOnce, State.g_onGid s _ h]
  exact s.g.fileActive_files s.ptime _

/-- SLEEP_EXPIRY files the threads of its gang id whose time has come, and no others. -/
theorem completes_sleepExpiry (s : State) (k : Nat) (g : Gid) (hg : Tab.find s.gids k = some g) :
    Completes (.sleepExpiry k) s (fun t => OnlyGidAndAgenda k s t ∧ ∀ l, l < g.lanes.length → (t.gid k).lane l =
      if (g.lane l).st = .waiting ∧ (g.lane l).slept s.ptime = true then
        { g.lane l with st := .filed, filedAt := s.ptime, await := none }
      else g.lane l) := by
  have hgid : s.gid k = g := by rw [State.gid, Tab.get, hg, Option.getD_some]
  have hsome : (Tab.find s.gids k).isSome = true := by rw [hg, Option.isSome_some]
  subst hgid
  exact ⟨_, rfl, s.wake_onlyGidAndAgenda k _, fun l hl => s.lane_wake k _ hsome l hl⟩

/-- Settles O19: the operand of `sleep` says which of its two branches is taken; the expiry is `wake` on the threads that
have slept long enough. -/
theorem sleeping : Obligations.Sleeping := by
  refine ⟨fun s f hi => ?_, fun s k g hg => ?_⟩
  · intro g n hagree
    have hexec := exec_sleep_agree s f hagree
    refine ⟨Nat.le_sub_one_of_lt (g.word g.elected f.a f.lit).isLt, fun hzero => ?_, fun hpos => ?_⟩
    · rw [if_pos hzero] at hexec
      have honly := (s.updGid_onlyGidAndAgenda s.cur (fun g => g.fileActive s.ptime (fun _ => g.gang.next))).nowOnce
        (.clauseStart s.g.core)
      exact ⟨_, hexec, honly.rest, honly.others, sleep_zero_files s _ hi⟩
    · rw [if_neg hpos] at hexec
      have honly := (s.waitOn_onlyGidAndAgenda (.sleep (s.ptime + n))).later n (.sleepExpiry s.cur)
      have hdue := (s.waitOn (.sleep (s.ptime + n))).mem_agenda_later n (.sleepExpiry s.cur)
      rw [State.ptime_waitOn] at hdue
      exact ⟨_, hexec, honly.rest, honly.others, s.waitOn_waits _ hi, hdue⟩
  · obtain ⟨t, hexec, honly, hlanes⟩ := completes_sleepExpiry s k g hg
    exact ⟨t, hexec, honly.rest, honly.others, hlanes⟩

end Sys2Proof.Machine
end
